-- ==== Sys2Proof/Word.lean ====
section
/-! DEFINITION. The words of the Z12: bytes, 32-bit slot words, 64-bit scalars, 128-bit predicates and the
4,096-bit vector register (00_scope.md R8, 01_the_sequential_machine.md R13). -/

namespace Sys2Proof

/-- One byte of any memory space (R8). -/
abbrev Byte := BitVec 8

/-- One slot word (R57). -/
abbrev Word32 := BitVec 32

/-- A scalar register, token, matrix parameter, system register or program counter (R13). -/
abbrev Word64 := BitVec 64

/-- A predicate register: bit n belongs to lane n (R13, R15). -/
abbrev Pred := BitVec 128

/-- A vector register: lane j is bits 32j to 32j+31 (R139). -/
abbrev Vec := BitVec 4096

end Sys2Proof
end

