-- ==== Sys2Proof/Machine/Crypto.lean ====
section
/-! DEFINITION. The published algorithms the spec names, over byte lists: AES-256 with XTS and CMAC, SHA-256 with HMAC,
HKDF and MGF1, and RSA with OAEP and PSS (15 R340, 23 R425, 24 R439 to R446). -/

namespace Sys2Proof.Machine.Crypto

/-- Bytes as numbers. -/
abbrev Bytes := List Nat

/-- The low `n` bytes of a number, most significant first. -/
def beBytes (n v : Nat) : Bytes := (List.range n).map (fun i => v / 256 ^ (n - 1 - i) % 256)

/-- The low `n` bytes of a number, least significant first. -/
def leBytes (n v : Nat) : Bytes := (List.range n).map (fun i => v / 256 ^ i % 256)

/-- The number of a byte list, most significant first. -/
def beNat (b : Bytes) : Nat := b.foldl (fun a x => 256 * a + x) 0

/-- The number of a byte list, least significant first. -/
def leNat (b : Bytes) : Nat := b.foldr (fun x a => x + 256 * a) 0

/-- Exclusive or of two byte lists. -/
def xorBytes (a b : Bytes) : Bytes := List.zipWith (fun x y => x ^^^ y) a b

/-- A list cut into chunks of `n`. -/
def chunks {α : Type} (n : Nat) : Nat → List α → List (List α)
  | 0, _ => []
  | _, [] => []
  | fuel + 1, l => l.take n :: chunks n fuel (l.drop n)

/-! ### SHA-256 -/

/-- The prime numbers below 312, of which there are 64. -/
def primes : List Nat :=
  (List.range 312).filter (fun n => decide (2 ≤ n) && [2, 3, 5, 7, 11, 13, 17].all (fun d => n == d || n % d != 0))

/-- The `d`-th root of a number below 2^(d × bits), rounded down: its bits from the highest. -/
def rootOf (d v bits : Nat) : Nat :=
  (List.range bits).foldl (fun r i => if (r + 2 ^ (bits - 1 - i)) ^ d ≤ v then r + 2 ^ (bits - 1 - i) else r) 0

/-- The first 32 bits of the fractional part of the `d`-th root of a number. -/
def fracRoot (d n : Nat) : Nat := rootOf d (n * 2 ^ (32 * d)) 37 % 2 ^ 32

/-- The constant words of the rounds (FIPS 180-4, named by R340). -/
def shaK : List Nat := primes.map (fracRoot 3)

/-- The words a digest begins with. -/
def shaH : List Nat := (primes.take 8).map (fracRoot 2)

/-- Rotation right of a 32-bit number. -/
def rotr (n x : Nat) : Nat := (x / 2 ^ n + x * 2 ^ (32 - n)) % 2 ^ 32

/-- The message schedule, extended by `n` words; the list holds the latest 16 words, newest first. -/
def shaSchedule : Nat → List Nat → List Nat → List Nat
  | 0, _, acc => acc
  | n + 1, w, acc =>
    let a := w.getD 14 0
    let b := w.getD 1 0
    let s0 := rotr 7 a ^^^ rotr 18 a ^^^ (a / 2 ^ 3)
    let s1 := rotr 17 b ^^^ rotr 19 b ^^^ (b / 2 ^ 10)
    let x := (w.getD 15 0 + s0 + w.getD 6 0 + s1) % 2 ^ 32
    shaSchedule n (x :: w.take 15) (acc ++ [x])

/-- One round over the eight working words. -/
def shaRound (h : List Nat) (kw : Nat) : List Nat :=
  let e := h.getD 4 0
  let a := h.getD 0 0
  let s1 := rotr 6 e ^^^ rotr 11 e ^^^ rotr 25 e
  let ch := (e &&& h.getD 5 0) ^^^ ((e ^^^ 0xFFFFFFFF) &&& h.getD 6 0)
  let t1 := h.getD 7 0 + s1 + ch + kw
  let s0 := rotr 2 a ^^^ rotr 13 a ^^^ rotr 22 a
  let mj := (a &&& h.getD 1 0) ^^^ (a &&& h.getD 2 0) ^^^ (h.getD 1 0 &&& h.getD 2 0)
  [(t1 + s0 + mj) % 2 ^ 32, a, h.getD 1 0, h.getD 2 0, (h.getD 3 0 + t1) % 2 ^ 32, e, h.getD 5 0, h.getD 6 0]

/-- The compression of one 64-byte block. -/
def shaBlock (h : List Nat) (block : Bytes) : List Nat :=
  let w := (chunks 4 16 block).map beNat
  let ws := shaSchedule 48 w.reverse w
  List.zipWith (fun x y => (x + y) % 2 ^ 32) h
    ((List.zipWith (fun k x => k + x) shaK ws).foldl shaRound h)

/-- SHA-256. -/
def sha256 (m : Bytes) : Bytes :=
  let pad := m ++ [0x80] ++ List.replicate ((119 - m.length % 64) % 64) 0 ++ beBytes 8 (8 * m.length)
  (((chunks 64 (pad.length / 64) pad).foldl shaBlock shaH).map (beBytes 4)).flatten

/-- HMAC-SHA-256. -/
def hmac (key m : Bytes) : Bytes :=
  let k := if 64 < key.length then sha256 key else key
  let k := k ++ List.replicate (64 - k.length) 0
  sha256 (k.map (· ^^^ 0x5C) ++ sha256 (k.map (· ^^^ 0x36) ++ m))

/-- HKDF-SHA-256 with an empty salt, one block of output. -/
def hkdf32 (ikm info : Bytes) : Bytes := hmac (hmac (List.replicate 32 0) ikm) (info ++ [1])

/-- MGF1 with SHA-256. -/
def mgf1 (seed : Bytes) (n : Nat) : Bytes :=
  ((List.range ((n + 31) / 32)).flatMap (fun i => sha256 (seed ++ beBytes 4 i))).take n

/-! ### AES-256 -/

/-- Multiplication by x in GF(2^8). -/
def xtime (a : Nat) : Nat := if a < 128 then 2 * a else (2 * a) % 256 ^^^ 0x1B

/-- Multiplication in GF(2^8). -/
def gmul (a b : Nat) : Nat :=
  ((List.range 8).foldl (fun (r : Nat × Nat) i => (if b / 2 ^ i % 2 = 1 then r.1 ^^^ r.2 else r.1, xtime r.2)) (0, a)).1

/-- The inverse in GF(2^8): the 254th power. -/
def ginv (a : Nat) : Nat :=
  let a2 := gmul a a
  let a3 := gmul a2 a
  let a6 := gmul a3 a3
  let a12 := gmul a6 a6
  let a15 := gmul a12 a3
  let a30 := gmul a15 a15
  let a60 := gmul a30 a30
  let a120 := gmul a60 a60
  let a126 := gmul a120 a6
  let a127 := gmul a126 a
  gmul a127 a127

/-- Rotation left of a byte. -/
def rotl8 (n x : Nat) : Nat := (x * 2 ^ n + x / 2 ^ (8 - n)) % 256

/-- The S-box. -/
def sbox (a : Nat) : Nat :=
  let b := ginv a
  b ^^^ rotl8 1 b ^^^ rotl8 2 b ^^^ rotl8 3 b ^^^ rotl8 4 b ^^^ 0x63

/-- The inverse S-box. -/
def invSbox (a : Nat) : Nat := ginv (rotl8 1 a ^^^ rotl8 3 a ^^^ rotl8 6 a ^^^ 0x05)

/-- The key schedule of AES-256: `n` further words after the first eight; the newest eight are carried, newest first. -/
def expand : Nat → Nat → List Bytes → List Bytes → List Bytes
  | 0, _, _, acc => acc
  | n + 1, i, w, acc =>
    let p := w.getD 0 []
    let t := if i % 8 = 0 then
        xorBytes ((p.drop 1 ++ p.take 1).map sbox) [(List.range (i / 8 - 1)).foldl (fun r _ => xtime r) 1, 0, 0, 0]
      else if i % 8 = 4 then p.map sbox else p
    let x := xorBytes (w.getD 7 []) t
    expand n (i + 1) (x :: w.take 7) (acc ++ [x])

/-- The fifteen round keys of a 32-byte key. -/
def roundKeys (key : Bytes) : List Bytes :=
  let w := chunks 4 8 key
  (chunks 4 15 (expand 52 8 w.reverse w)).map List.flatten

/-- Byte i of the state moved by ShiftRows, or back. -/
def shiftRows (inv : Bool) (s : Bytes) : Bytes :=
  (List.range 16).map (fun i => s.getD ((i + (if inv then 16 - 4 * (i % 4) else 4 * (i % 4))) % 16) 0)

/-- One column mixed by the four coefficients. -/
def mixColumn (c : List Nat) (col : Bytes) : Bytes :=
  (List.range 4).map (fun i => (List.range 4).foldl (fun a j => a ^^^ gmul (c.getD ((j + 4 - i) % 4) 0) (col.getD j 0)) 0)

/-- MixColumns, or its inverse. -/
def mixColumns (inv : Bool) (s : Bytes) : Bytes :=
  ((chunks 4 4 s).map (mixColumn (if inv then [14, 11, 13, 9] else [2, 3, 1, 1]))).flatten

/-- AES encryption of one block under its round keys. -/
def aesEnc (ks : List Bytes) (b : Bytes) : Bytes :=
  let s := xorBytes b (ks.getD 0 [])
  let s := (List.range 13).foldl (fun s i =>
    xorBytes (mixColumns false (shiftRows false (s.map sbox))) (ks.getD (i + 1) [])) s
  xorBytes (shiftRows false (s.map sbox)) (ks.getD 14 [])

/-- AES decryption of one block under its round keys. -/
def aesDec (ks : List Bytes) (b : Bytes) : Bytes :=
  let s := (shiftRows true (xorBytes b (ks.getD 14 []))).map invSbox
  let s := (List.range 13).foldl (fun s i =>
    (shiftRows true (mixColumns true (xorBytes s (ks.getD (13 - i) [])))).map invSbox) s
  xorBytes s (ks.getD 0 [])

/-- The XTS tweak multiplied by x, on the little-endian number. -/
def xtsNext (t : Nat) : Nat := if t < 2 ^ 127 then 2 * t else (2 * t) % 2 ^ 128 ^^^ 0x87

/-- The blocks of an XTS data unit. -/
def xtsBlocks (f : Bytes → Bytes) : Nat → List Bytes → List Bytes
  | _, [] => []
  | t, b :: bs => xorBytes (f (xorBytes b (leBytes 16 t))) (leBytes 16 t) :: xtsBlocks f (xtsNext t) bs

/-- AES-256-XTS of one data unit of whole blocks; the key is K1 then K2 and `unit` is the unit's number. -/
def xts (enc : Bool) (key : Bytes) (unit : Nat) (data : Bytes) : Bytes :=
  let k1 := roundKeys (key.take 32)
  let t := leNat (aesEnc (roundKeys (key.drop 32)) (leBytes 16 unit))
  (xtsBlocks (if enc then aesEnc k1 else aesDec k1) t (chunks 16 (data.length / 16) data)).flatten

/-- A CMAC subkey: doubling of a big-endian block. -/
def cmacDouble (b : Bytes) : Bytes :=
  let n := beNat b
  beBytes 16 (if n < 2 ^ 127 then 2 * n else (2 * n) % 2 ^ 128 ^^^ 0x87)

/-- AES-256-CMAC. -/
def cmac (key m : Bytes) : Bytes :=
  let ks := roundKeys key
  let k1 := cmacDouble (aesEnc ks (List.replicate 16 0))
  let full := m.length % 16 = 0 ∧ m ≠ []
  let n := if full then m.length - 16 else m.length / 16 * 16
  let x := ((chunks 16 (n / 16) (m.take n)).foldl (fun x b => aesEnc ks (xorBytes x b)) (List.replicate 16 0))
  let last := m.drop n
  aesEnc ks (xorBytes x (if full then xorBytes last k1
    else xorBytes (last ++ [0x80] ++ List.replicate (15 - last.length) 0) (cmacDouble k1)))

/-! ### RSA -/

/-- `b` to the power `e` modulo `m`, by the low `n` bits of `e`. -/
def powMod (m : Nat) : Nat → Nat → Nat → Nat
  | 0, _, _ => 1 % m
  | n + 1, b, e =>
    let r := powMod m n (b * b % m) (e / 2)
    if e % 2 = 1 then b * r % m else r

/-- RSASSA-PSS verification with SHA-256 and a 32-byte salt, under a 3,072-bit modulus and exponent 65537. -/
def pssVerify (modulus : Nat) (msg sig : Bytes) : Bool :=
  let em := beBytes 384 (powMod modulus 17 (beNat sig) 65537)
  let db := em.take 351
  let h := (em.drop 351).take 32
  let mask := mgf1 h 351
  let d := xorBytes db mask
  let d := match d with
    | x :: r => x % 128 :: r
    | [] => []
  decide (beNat sig < modulus) && decide (em.getD 383 0 = 0xBC) && decide (em.getD 0 0 < 128)
    && (d.take 318).all (· == 0) && d.getD 318 0 == 1
    && decide (sha256 (List.replicate 8 0 ++ sha256 msg ++ d.drop 319) = h)

/-- RSASSA-PSS signing of a message with a salt, under a 3,072-bit modulus and a private exponent. -/
def pssSign (modulus d : Nat) (msg salt : Bytes) : Bytes :=
  let h := sha256 (List.replicate 8 0 ++ sha256 msg ++ salt)
  let db := xorBytes (List.replicate 318 0 ++ [1] ++ salt) (mgf1 h 351)
  let db := match db with
    | x :: r => x % 128 :: r
    | [] => []
  beBytes 384 (powMod modulus 3072 (beNat (db ++ h ++ [0xBC])) d)

/-- RSA-OAEP decryption with SHA-256, MGF1-SHA-256 and an empty label, under a 3,072-bit modulus. -/
def oaepDecrypt (modulus d : Nat) (ct : Bytes) : Option Bytes :=
  let em := beBytes 384 (powMod modulus 3072 (beNat ct) d)
  let seedM := (em.drop 1).take 32
  let dbM := em.drop 33
  let seed := xorBytes seedM (mgf1 dbM 32)
  let db := xorBytes dbM (mgf1 seed 351)
  let body := (db.drop 32).dropWhile (· == 0)
  if beNat ct < modulus ∧ em.getD 0 0 = 0 ∧ db.take 32 = sha256 [] ∧ body.head? = some 1 then some (body.drop 1) else none

end Sys2Proof.Machine.Crypto
end

