-- ==== Sys2Proof/Config.lean ====
section
/-! DEFINITION. What the part fixes once, and the values the spec leaves open: an opaque constant here has no body, so
nothing in Lean knows its value. -/

namespace Sys2Proof

/-- What a flit of a peer device asks of this one (R266, R351, R412 to R414): a write of bytes of one line by a channel, a
read, a claim of a tenant queue, a strand's arrival at a barrier's epoch, its HALT, or a fault of an operation
that it has adopted; of a node's part of a gang, that it is
placed (0), stops (1) or is rejected (2); of a member's part of a collective its packet, a line of its source, or its end in a
state; or that what is not acknowledged be sent again. A gang is named by tenant, record address and launch number. -/
inductive FlitMsg
  | write (chan ten rec_ va n data : Nat)
  | read (chan ten va : Nat)
  | claim (chan ten va : Nat)
  | arrive (ten rec_ nth sidx level epoch : Nat)
  | halted (ten rec_ nth sidx : Nat)
  | fault (ten rec_ nth sidx token : Nat)
  | part (node ten rec_ nth what : Nat)
  | coll (ten rec_ nth sidx level ord : Nat) (packet : List (BitVec 8))
  | collLine (ten rec_ nth sidx level ord off data : Nat)
  | collEnd (ten rec_ nth sidx level ord state : Nat)
  | retry
deriving DecidableEq, Repr

end Sys2Proof

namespace Sys2Proof.Config

/-- Bytes of a core's tessera (R4, R98). -/
def tessSize : Nat := 0xC0000

/-- Bytes of a core's accumulator memory (R217). -/
def acmSize : Nat := 0x40000

/-- Bytes of a core's lintel (R182). -/
def lintelSize : Nat := 0x100000

/-- Bytes of device memory: 960 GiB (R233). -/
def memSize : Nat := 0xF000000000

/-- First address of the doorbell space and its size (R415). -/
def bellBase : Nat := 0xF000000000
/-- Size of the doorbell space (R415). -/
def bellSize : Nat := 0x1000000

/-- Entries of a pending-write queue (R26). -/
def pwqDepth : Nat := 48

/-- Tile cores of the part: 8 dies of 96 tiles (R2, R3). -/
def tileCores : Nat := 768

/-- Tile cores and the four control cores (R391). -/
def allCores : Nat := 772

/-- The bank and the row of a line within its channel, by its physical address: the spec names them in a record's LOC and
gives no mapping (R241, R433). -/
opaque hbmBank : Nat → Nat
/-- The row of a line within its bank (R433). -/
opaque hbmRow : Nat → Nat
/-- Spare rows of a bank (R430): the spec gives no number. -/
opaque spareRows : Nat
/-- The lane that a CRC failure of a flit is attributed to (R431). -/
opaque flitLane : List (BitVec 8) → Nat

/-- Least latency of a C0 access and of a C1 access (R45). -/
def latC0 : Nat := 40
/-- Greatest latency of a C0 load (R45). -/
def maxC0 : Nat := 160
/-- Lines of a die cache: 48 MiB of 64 bytes (R4, R231). -/
def dieLines : Nat := 786432
/-- Least latency of a global load (R45). -/
def latC1 : Nat := 250

/-- A byte the spec calls undefined: the bytes of a faulted operation's line (R305). One free byte per use (log entry
2): nothing constrains it. -/
opaque freeByte : Nat → BitVec 8

/-- A 64-bit value that the spec leaves open, one for each use: nothing constrains it. -/
opaque freeWord : Nat → BitVec 64

/-- Whether a core's instruction cache still holds the old bundle of a physical address at a fetch: until an IINV it
may issue either (R399). -/
opaque icacheKeeps : Nat → Nat → Bool

/-- What the 248-byte body of a flit asks: the spec gives the layout of no transaction (log entry 51), so nothing is known
of this reading (R410). -/
opaque flitAccess : List (BitVec 8) → Option FlitMsg

/-- The body of a flit that asks this of a peer; the spec gives none (log entry 51). -/
opaque flitBody : FlitMsg → List (BitVec 8)

/-- The device identifier, fused at manufacture and unique to the device (R419). -/
opaque deviceId : BitVec 64

/-- Fused hashes of Helnor's key and of the debug key (R440, R444). -/
opaque helnorHash : List Nat
/-- The fused hash of the debug key (R444). -/
opaque debugHash : List Nat

/-- The fused device secret (R445). -/
opaque deviceSecret : List Nat
/-- The RSA-3072 key pair, modulus and private exponent, that firmware generates deterministically from a derived value; the
spec gives no algorithm (R445). -/
opaque rsaGen : List Nat → Nat × Nat

end Sys2Proof.Config
end

