-- ==== Sys2Proof/Syntax.lean ====
section
/-! DEFINITION. The one syntax of the Z12: a constructor for every row of spec/opcode_table.json. Slot words
(02_bundle_encoding_and_assembly.md R57 to R77), matrix micro-operations (08 R193) and the part's other
indivisible steps (95_what_each_step_holds.md): engine steps, host messages, control commands, service events. -/

namespace Sys2Proof

/-- The header of slots 0 to 6: GE, GN, G and LAND (R59). -/
structure Hdr where
  ge   : Bool
  gn   : Bool
  g    : BitVec 4
  land : BitVec 2
deriving DecidableEq, Repr

/-- The eight slots of a bundle, in slot order (R57, R65 to R72). -/
inductive Slot where
  | s | v0 | v1 | m | c0 | c1 | x | p
deriving DecidableEq, Repr

/-- The two vector slots; V0 addresses the own tessera, V1 the accumulator memory (R66). -/
inductive VUnit where
  | v0 | v1
deriving DecidableEq, Repr

/-- The two C slots; C0 addresses remote tesserae, C1 global memory (R69). -/
inductive CUnit where
  | c0 | c1
deriving DecidableEq, Repr

/-- The three contexts of a core; the order is that of the token's BANK codes (R12, R300). -/
inductive CtxId where
  | cb0 | cb1 | svc
deriving DecidableEq, Repr

/-- A message of the host transaction layer as it arrives: the 32-byte header's fields and the payload
(R417). The TYPE byte is the constructor of `Instr` that carries the message. `ten` is the whole byte. -/
structure HostMsg where
  ten  : BitVec 8
  len  : BitVec 16
  tag  : BitVec 32
  a0   : Word64
  a1   : Word64
  a2   : Word64
  data : List Byte
deriving DecidableEq, Repr

/-- A command of the control channel as it arrives: the 16-byte header's fields and the payload (R436). -/
structure HostCmd where
  ten  : BitVec 8
  len  : BitVec 16
  tag  : BitVec 32
  rsv  : Word64
  data : List Byte
deriving DecidableEq, Repr

/-- What a debug-port access names in a stopped gang (R457). Register classes are the codes of R374. -/
inductive PortTarget where
  | face (cls : Nat) (idx : Nat) (face : Bool)
  | selector (cls : Nat) (idx : Nat)
  | wbit (cls : Nat) (idx : Nat)
  | pwqValue (k : Nat)
  /-- an entry of the pending-write queue, as the 32 bytes of R374 -/
  | pwqEntry (k : Nat)
  | pc
  | lr
  | xr (word : Nat)
  | sysreg (idx : BitVec 10)
  | tess (off : Nat)
  | acm (off : Nat)
  | lintel (off : Nat)
  /-- the port's claim of the gang's breakpoints, set or given up by a write (R456) -/
  | claim
deriving DecidableEq, Repr

/-- One access of the debug port (R457). -/
structure PortRequest where
  core   : Nat
  cx     : CtxId
  target : PortTarget
  write  : Bool
  value  : Vec
deriving DecidableEq, Repr

/-- One constructor per row of the opcode table. A slot word carries its header `h` and the raw fields of its
encoding; a vector word also says its slot `un` (V0 or V1) and a C-slot word its slot `un` (C0 or C1). -/
inductive Instr where
  /-- NOP (R58): The all-zero slot word does nothing; a bundle of eight NOP words issues in one cycle and changes only the PC. -/
  | nop
  /-- ADD (R91): Writes a + b modulo 2^64 to scalar d. -/
  | add (h : Hdr) (d : BitVec 5) (a : BitVec 5) (b : BitVec 5)
  /-- SUB (R91): Writes a − b modulo 2^64 to scalar d. -/
  | sub (h : Hdr) (d : BitVec 5) (a : BitVec 5) (b : BitVec 5)
  /-- AND (R91): Writes the bitwise AND of a and b to scalar d. -/
  | and (h : Hdr) (d : BitVec 5) (a : BitVec 5) (b : BitVec 5)
  /-- OR (R91): Writes the bitwise OR of a and b to scalar d. -/
  | or (h : Hdr) (d : BitVec 5) (a : BitVec 5) (b : BitVec 5)
  /-- XOR (R91): Writes the bitwise XOR of a and b to scalar d. -/
  | xor (h : Hdr) (d : BitVec 5) (a : BitVec 5) (b : BitVec 5)
  /-- ANDN (R91): Writes a AND NOT b to scalar d. -/
  | andn (h : Hdr) (d : BitVec 5) (a : BitVec 5) (b : BitVec 5)
  /-- SHL (R91): Writes a shifted left by b[5:0] with zero fill to scalar d. -/
  | shl (h : Hdr) (d : BitVec 5) (a : BitVec 5) (b : BitVec 5)
  /-- SHR (R91): Writes a shifted right by b[5:0] with zero fill to scalar d. -/
  | shr (h : Hdr) (d : BitVec 5) (a : BitVec 5) (b : BitVec 5)
  /-- SAR (R91): Writes a shifted right by b[5:0] with sign fill to scalar d. -/
  | sar (h : Hdr) (d : BitVec 5) (a : BitVec 5) (b : BitVec 5)
  /-- ROL (R91): Writes a rotated left by b[5:0] to scalar d. -/
  | rol (h : Hdr) (d : BitVec 5) (a : BitVec 5) (b : BitVec 5)
  /-- MINS (R91): Writes the signed minimum of a and b to scalar d. -/
  | mins (h : Hdr) (d : BitVec 5) (a : BitVec 5) (b : BitVec 5)
  /-- MAXS (R91): Writes the signed maximum of a and b to scalar d. -/
  | maxs (h : Hdr) (d : BitVec 5) (a : BitVec 5) (b : BitVec 5)
  /-- MINU (R91): Writes the unsigned minimum of a and b to scalar d. -/
  | minu (h : Hdr) (d : BitVec 5) (a : BitVec 5) (b : BitVec 5)
  /-- MAXU (R91): Writes the unsigned maximum of a and b to scalar d. -/
  | maxu (h : Hdr) (d : BitVec 5) (a : BitVec 5) (b : BitVec 5)
  /-- MUL (R92): Writes the low 64 bits of the product of a and b to scalar d. -/
  | mul (h : Hdr) (d : BitVec 5) (a : BitVec 5) (b : BitVec 5)
  /-- MULHS (R92): Writes the high 64 bits of the signed 128-bit product to scalar d. -/
  | mulhs (h : Hdr) (d : BitVec 5) (a : BitVec 5) (b : BitVec 5)
  /-- MULHU (R92): Writes the high 64 bits of the unsigned 128-bit product to scalar d. -/
  | mulhu (h : Hdr) (d : BitVec 5) (a : BitVec 5) (b : BitVec 5)
  /-- DIVS (R92): Writes the signed quotient, truncated toward zero, with defined results for zero and overflow. -/
  | divs (h : Hdr) (d : BitVec 5) (a : BitVec 5) (b : BitVec 5)
  /-- DIVU (R92): Writes the unsigned quotient, all ones for a zero divisor. -/
  | divu (h : Hdr) (d : BitVec 5) (a : BitVec 5) (b : BitVec 5)
  /-- REMS (R92): Writes the signed remainder, a for a zero divisor. -/
  | rems (h : Hdr) (d : BitVec 5) (a : BitVec 5) (b : BitVec 5)
  /-- REMU (R92): Writes the unsigned remainder, a for a zero divisor. -/
  | remu (h : Hdr) (d : BitVec 5) (a : BitVec 5) (b : BitVec 5)
  /-- MOV (R93): Copies scalar a to scalar d. -/
  | mov (h : Hdr) (d : BitVec 5) (a : BitVec 5)
  /-- CLZ (R93): Writes the count of leading zero bits of a. -/
  | clz (h : Hdr) (d : BitVec 5) (a : BitVec 5)
  /-- CTZ (R93): Writes the count of trailing zero bits of a. -/
  | ctz (h : Hdr) (d : BitVec 5) (a : BitVec 5)
  /-- POPC (R93): Writes the count of one bits of a. -/
  | popc (h : Hdr) (d : BitVec 5) (a : BitVec 5)
  /-- BREV (R93): Writes a with its bit order reversed. -/
  | brev (h : Hdr) (d : BitVec 5) (a : BitVec 5)
  /-- SEXTB (R93): Writes a[7:0] sign-extended. -/
  | sextb (h : Hdr) (d : BitVec 5) (a : BitVec 5)
  /-- SEXTH (R93): Writes a[15:0] sign-extended. -/
  | sexth (h : Hdr) (d : BitVec 5) (a : BitVec 5)
  /-- SEXTW (R93): Writes a[31:0] sign-extended. -/
  | sextw (h : Hdr) (d : BitVec 5) (a : BitVec 5)
  /-- ZEXTB (R93): Writes a[7:0] zero-extended. -/
  | zextb (h : Hdr) (d : BitVec 5) (a : BitVec 5)
  /-- ZEXTH (R93): Writes a[15:0] zero-extended. -/
  | zexth (h : Hdr) (d : BitVec 5) (a : BitVec 5)
  /-- ZEXTW (R93): Writes a[31:0] zero-extended. -/
  | zextw (h : Hdr) (d : BitVec 5) (a : BitVec 5)
  /-- LEA (R94): Writes a + (b << shift) to scalar d. -/
  | lea (h : Hdr) (d : BitVec 5) (a : BitVec 5) (b : BitVec 5) (s : BitVec 3)
  /-- CMP_EQ (R97): Writes a predicate with all bits equal to a = b. -/
  | cmpEq (h : Hdr) (d : BitVec 4) (a : BitVec 5) (b : BitVec 5)
  /-- CMP_NE (R97): Writes a predicate with all bits equal to a ≠ b. -/
  | cmpNe (h : Hdr) (d : BitVec 4) (a : BitVec 5) (b : BitVec 5)
  /-- CMP_LTS (R97): Writes a predicate with all bits equal to signed a < b. -/
  | cmpLts (h : Hdr) (d : BitVec 4) (a : BitVec 5) (b : BitVec 5)
  /-- CMP_LTU (R97): Writes a predicate with all bits equal to unsigned a < b. -/
  | cmpLtu (h : Hdr) (d : BitVec 4) (a : BitVec 5) (b : BitVec 5)
  /-- CMP_LES (R97): Writes a predicate with all bits equal to signed a ≤ b. -/
  | cmpLes (h : Hdr) (d : BitVec 4) (a : BitVec 5) (b : BitVec 5)
  /-- CMP_LEU (R97): Writes a predicate with all bits equal to unsigned a ≤ b. -/
  | cmpLeu (h : Hdr) (d : BitVec 4) (a : BitVec 5) (b : BitVec 5)
  /-- ADDI (R95): Writes a plus the sign-extended immediate to scalar d. -/
  | addi (h : Hdr) (d : BitVec 5) (a : BitVec 5) (i : BitVec 8)
  /-- ANDI (R95): Writes a AND the sign-extended immediate. -/
  | andi (h : Hdr) (d : BitVec 5) (a : BitVec 5) (i : BitVec 8)
  /-- ORI (R95): Writes a OR the sign-extended immediate. -/
  | ori (h : Hdr) (d : BitVec 5) (a : BitVec 5) (i : BitVec 8)
  /-- XORI (R95): Writes a XOR the sign-extended immediate. -/
  | xori (h : Hdr) (d : BitVec 5) (a : BitVec 5) (i : BitVec 8)
  /-- SHLI (R95): Writes a shifted left by an immediate 0–63. -/
  | shli (h : Hdr) (d : BitVec 5) (a : BitVec 5) (i : BitVec 8)
  /-- SHRI (R95): Writes a shifted right with zero fill by an immediate 0–63. -/
  | shri (h : Hdr) (d : BitVec 5) (a : BitVec 5) (i : BitVec 8)
  /-- SARI (R95): Writes a shifted right with sign fill by an immediate 0–63. -/
  | sari (h : Hdr) (d : BitVec 5) (a : BitVec 5) (i : BitVec 8)
  /-- CMPEQI (R97): Writes a predicate equal to a = sign-extended immediate. -/
  | cmpeqi (h : Hdr) (d : BitVec 4) (a : BitVec 5) (i : BitVec 8)
  /-- CMPLTI (R97): Writes a predicate equal to signed a < immediate. -/
  | cmplti (h : Hdr) (d : BitVec 4) (a : BitVec 5) (i : BitVec 8)
  /-- CMPLTUI (R97): Writes a predicate equal to unsigned a < sign-extended immediate. -/
  | cmpltui (h : Hdr) (d : BitVec 4) (a : BitVec 5) (i : BitVec 8)
  /-- LDI (R96): Writes the sign-extended 13-bit (or IMX 36-bit) immediate to scalar d. -/
  | ldi (h : Hdr) (d : BitVec 5) (i : BitVec 13)
  /-- LDS (R99): Loads 1–8 bytes from the own tessera into a scalar, extended per W. -/
  | lds (h : Hdr) (t : BitVec 5) (a : BitVec 5) (w : BitVec 3) (o : BitVec 5)
  /-- STS (R100): Stores the low bytes of a scalar to the own tessera in the issue cycle. -/
  | sts (h : Hdr) (t : BitVec 5) (a : BitVec 5) (w : BitVec 3) (o : BitVec 5)
  /-- PAND (R101): Writes the AND of two predicates. -/
  | pand (h : Hdr) (d : BitVec 4) (a : BitVec 4) (b : BitVec 4)
  /-- POR (R101): Writes the OR of two predicates. -/
  | por (h : Hdr) (d : BitVec 4) (a : BitVec 4) (b : BitVec 4)
  /-- PXOR (R101): Writes the XOR of two predicates. -/
  | pxor (h : Hdr) (d : BitVec 4) (a : BitVec 4) (b : BitVec 4)
  /-- PANDN (R101): Writes a AND NOT b over predicates. -/
  | pandn (h : Hdr) (d : BitVec 4) (a : BitVec 4) (b : BitVec 4)
  /-- PNOT (R101): Writes the complement of a predicate. -/
  | pnot (h : Hdr) (d : BitVec 4) (a : BitVec 4)
  /-- PSET (R101): Writes a predicate of all ones. -/
  | pset (h : Hdr) (d : BitVec 4)
  /-- PCLR (R101): Writes a predicate of all zeros. -/
  | pclr (h : Hdr) (d : BitVec 4)
  /-- PFROM (R101): Writes a predicate whose bit n is bit n mod 64 of a scalar. -/
  | pfrom (h : Hdr) (d : BitVec 4) (a : BitVec 5)
  /-- PCNT (R102): Writes the number of set bits of a predicate to a scalar. -/
  | pcnt (h : Hdr) (d : BitVec 5) (a : BitVec 4)
  /-- PFIRST (R102): Writes the index of the lowest set predicate bit, or 128. -/
  | pfirst (h : Hdr) (d : BitVec 5) (a : BitVec 4)
  /-- BR (R103): Branches to pc + 32 × OFS18. -/
  | br (h : Hdr) (o : BitVec 18)
  /-- CALL (R103): Branches to pc + 32 × OFS18 and sets LR to pc + 32. -/
  | call (h : Hdr) (o : BitVec 18)
  /-- BRI (R103): Branches to the address in scalar a, checking alignment. -/
  | bri (h : Hdr) (a : BitVec 5)
  /-- CALLI (R103): Branches to the address in scalar a and sets LR. -/
  | calli (h : Hdr) (a : BitVec 5)
  /-- RET (R103): Branches to LR. -/
  | ret (h : Hdr)
  /-- LSET (R108): Writes scalar a[31:0] to a loop counter. -/
  | lset (h : Hdr) (d : BitVec 2) (a : BitVec 5)
  /-- LSETI (R108): Writes an unsigned immediate to a loop counter. -/
  | lseti (h : Hdr) (d : BitVec 2) (i : BitVec 13)
  /-- LTSET (R109): Sets LPST.TAIL to an immediate 0–255. -/
  | ltset (h : Hdr) (i : BitVec 13)
  /-- LOOPF (R51): Counts a loop, writes the stage predicate, flips, rotates and branches or falls through. -/
  | loopf (h : Hdr) (c : BitVec 2) (o : BitVec 16)
  /-- LOOP (R111): Decrements a loop counter and branches without flipping, or falls through at zero. -/
  | loop (h : Hdr) (c : BitVec 2) (o : BitVec 16)
  /-- MOVLR_READ (R105): Writes LR as it stood before the bundle to a scalar. -/
  | movlrRead (h : Hdr) (d : BitVec 5)
  /-- MOVLR_WRITE (R105): Sets LR from a scalar for every later bundle. -/
  | movlrWrite (h : Hdr) (a : BitVec 5)
  /-- VADD (R145): Adds vector elements modulo 2^w. -/
  | vadd (un : VUnit) (h : Hdr) (d : BitVec 5) (a : BitVec 5) (b : BitVec 5) (t : BitVec 3)
  /-- VSUB (R145): Subtracts vector elements modulo 2^w. -/
  | vsub (un : VUnit) (h : Hdr) (d : BitVec 5) (a : BitVec 5) (b : BitVec 5) (t : BitVec 3)
  /-- VMUL (R145): Writes the low half of each element product. -/
  | vmul (un : VUnit) (h : Hdr) (d : BitVec 5) (a : BitVec 5) (b : BitVec 5) (t : BitVec 3)
  /-- VMULHS (R145): Writes the high half of each signed element product. -/
  | vmulhs (un : VUnit) (h : Hdr) (d : BitVec 5) (a : BitVec 5) (b : BitVec 5) (t : BitVec 3)
  /-- VMULHU (R145): Writes the high half of each unsigned element product. -/
  | vmulhu (un : VUnit) (h : Hdr) (d : BitVec 5) (a : BitVec 5) (b : BitVec 5) (t : BitVec 3)
  /-- VAND (R145): Bitwise AND of vector elements. -/
  | vand (un : VUnit) (h : Hdr) (d : BitVec 5) (a : BitVec 5) (b : BitVec 5) (t : BitVec 3)
  /-- VOR (R145): Bitwise OR of vector elements. -/
  | vor (un : VUnit) (h : Hdr) (d : BitVec 5) (a : BitVec 5) (b : BitVec 5) (t : BitVec 3)
  /-- VXOR (R145): Bitwise XOR of vector elements. -/
  | vxor (un : VUnit) (h : Hdr) (d : BitVec 5) (a : BitVec 5) (b : BitVec 5) (t : BitVec 3)
  /-- VSHL (R145): Shifts vector elements left with zero fill. -/
  | vshl (un : VUnit) (h : Hdr) (d : BitVec 5) (a : BitVec 5) (b : BitVec 5) (t : BitVec 3)
  /-- VSHR (R145): Shifts vector elements right with zero fill. -/
  | vshr (un : VUnit) (h : Hdr) (d : BitVec 5) (a : BitVec 5) (b : BitVec 5) (t : BitVec 3)
  /-- VSAR (R145): Shifts vector elements right with sign fill. -/
  | vsar (un : VUnit) (h : Hdr) (d : BitVec 5) (a : BitVec 5) (b : BitVec 5) (t : BitVec 3)
  /-- VMINS (R145): Signed element minimum. -/
  | vmins (un : VUnit) (h : Hdr) (d : BitVec 5) (a : BitVec 5) (b : BitVec 5) (t : BitVec 3)
  /-- VMAXS (R145): Signed element maximum. -/
  | vmaxs (un : VUnit) (h : Hdr) (d : BitVec 5) (a : BitVec 5) (b : BitVec 5) (t : BitVec 3)
  /-- VMINU (R145): Unsigned element minimum. -/
  | vminu (un : VUnit) (h : Hdr) (d : BitVec 5) (a : BitVec 5) (b : BitVec 5) (t : BitVec 3)
  /-- VMAXU (R145): Unsigned element maximum. -/
  | vmaxu (un : VUnit) (h : Hdr) (d : BitVec 5) (a : BitVec 5) (b : BitVec 5) (t : BitVec 3)
  /-- VABS (R146): Writes the absolute value of each integer element modulo 2^w. -/
  | vabs (un : VUnit) (h : Hdr) (d : BitVec 5) (a : BitVec 5) (t : BitVec 3)
  /-- VLD (R163): Loads a vector from the own tessera (V0) or accumulator memory (V1) in the selected mode. -/
  | vld (un : VUnit) (h : Hdr) (t : BitVec 5) (a : BitVec 5) (b : BitVec 5) (m : BitVec 3)
  /-- VCMPEQ (R150): Writes a predicate of integer element equality. -/
  | vcmpeq (un : VUnit) (h : Hdr) (d : BitVec 4) (a : BitVec 5) (b : BitVec 5) (t : BitVec 3)
  /-- VCMPLTS (R150): Writes a predicate of signed element less-than. -/
  | vcmplts (un : VUnit) (h : Hdr) (d : BitVec 4) (a : BitVec 5) (b : BitVec 5) (t : BitVec 3)
  /-- VCMPLTU (R150): Writes a predicate of unsigned element less-than. -/
  | vcmpltu (un : VUnit) (h : Hdr) (d : BitVec 4) (a : BitVec 5) (b : BitVec 5) (t : BitVec 3)
  /-- VCMPLES (R150): Writes a predicate of signed element less-or-equal. -/
  | vcmples (un : VUnit) (h : Hdr) (d : BitVec 4) (a : BitVec 5) (b : BitVec 5) (t : BitVec 3)
  /-- VSPLAT (R152): Writes the low w bits of a scalar to every active element. -/
  | vsplat (un : VUnit) (h : Hdr) (d : BitVec 5) (a : BitVec 5) (t : BitVec 3)
  /-- VEXT (R152): Writes one vector element, selected by a scalar index, to a scalar. -/
  | vext (un : VUnit) (h : Hdr) (d : BitVec 5) (a : BitVec 5) (b : BitVec 5) (t : BitVec 3)
  /-- VFADD (R147): Correctly rounded floating-point addition per element. -/
  | vfadd (un : VUnit) (h : Hdr) (d : BitVec 5) (a : BitVec 5) (b : BitVec 5) (t : BitVec 3)
  /-- VFSUB (R147): Correctly rounded floating-point subtraction per element. -/
  | vfsub (un : VUnit) (h : Hdr) (d : BitVec 5) (a : BitVec 5) (b : BitVec 5) (t : BitVec 3)
  /-- VFMUL (R147): Correctly rounded floating-point multiplication per element. -/
  | vfmul (un : VUnit) (h : Hdr) (d : BitVec 5) (a : BitVec 5) (b : BitVec 5) (t : BitVec 3)
  /-- VFMA (R147): Fused a × b + d with one rounding, reading d's visible face. -/
  | vfma (un : VUnit) (h : Hdr) (d : BitVec 5) (a : BitVec 5) (b : BitVec 5) (t : BitVec 3)
  /-- VFMS (R147): Fused a × b − d with one rounding. -/
  | vfms (un : VUnit) (h : Hdr) (d : BitVec 5) (a : BitVec 5) (b : BitVec 5) (t : BitVec 3)
  /-- VFNMA (R147): Fused −(a × b) − d with one rounding. -/
  | vfnma (un : VUnit) (h : Hdr) (d : BitVec 5) (a : BitVec 5) (b : BitVec 5) (t : BitVec 3)
  /-- VFNMS (R147): Fused −(a × b) + d with one rounding. -/
  | vfnms (un : VUnit) (h : Hdr) (d : BitVec 5) (a : BitVec 5) (b : BitVec 5) (t : BitVec 3)
  /-- VFMIN (R147): IEEE minimumNumber per element. -/
  | vfmin (un : VUnit) (h : Hdr) (d : BitVec 5) (a : BitVec 5) (b : BitVec 5) (t : BitVec 3)
  /-- VFMAX (R147): IEEE maximumNumber per element. -/
  | vfmax (un : VUnit) (h : Hdr) (d : BitVec 5) (a : BitVec 5) (b : BitVec 5) (t : BitVec 3)
  /-- VFABS (R149): Clears the sign bit of each element. -/
  | vfabs (un : VUnit) (h : Hdr) (d : BitVec 5) (a : BitVec 5) (t : BitVec 3)
  /-- VFNEG (R149): Inverts the sign bit of each element. -/
  | vfneg (un : VUnit) (h : Hdr) (d : BitVec 5) (a : BitVec 5) (t : BitVec 3)
  /-- VFCMPEQ (R150): Writes a predicate of floating-point equality. -/
  | vfcmpeq (un : VUnit) (h : Hdr) (d : BitVec 4) (a : BitVec 5) (b : BitVec 5) (t : BitVec 3)
  /-- VFCMPLT (R150): Writes a predicate of floating-point less-than. -/
  | vfcmplt (un : VUnit) (h : Hdr) (d : BitVec 4) (a : BitVec 5) (b : BitVec 5) (t : BitVec 3)
  /-- VFCMPLE (R150): Writes a predicate of floating-point less-or-equal. -/
  | vfcmple (un : VUnit) (h : Hdr) (d : BitVec 4) (a : BitVec 5) (b : BitVec 5) (t : BitVec 3)
  /-- VFCLASS (R151): Writes a one-hot class code for each floating-point element. -/
  | vfclass (un : VUnit) (h : Hdr) (d : BitVec 5) (a : BitVec 5) (t : BitVec 3)
  /-- VIOTA (R146): Writes each element's index modulo 2^w. -/
  | viota (un : VUnit) (h : Hdr) (d : BitVec 5) (t : BitVec 3)
  /-- VCVT (R155): Converts elements between formats with IEEE overflow results. -/
  | vcvt (un : VUnit) (h : Hdr) (d : BitVec 5) (a : BitVec 5) (t : BitVec 4) (f : BitVec 4)
  /-- VCVTS (R155): Converts elements between formats, saturating on overflow. -/
  | vcvts (un : VUnit) (h : Hdr) (d : BitVec 5) (a : BitVec 5) (t : BitVec 4) (f : BitVec 4)
  /-- VPACK (R156): Narrows two registers into one. -/
  | vpack (un : VUnit) (h : Hdr) (d : BitVec 5) (a : BitVec 5) (b : BitVec 5) (t : BitVec 3)
  /-- VUNPKL (R157): Widens the low half of each unit. -/
  | vunpkl (un : VUnit) (h : Hdr) (d : BitVec 5) (a : BitVec 5) (t : BitVec 3)
  /-- VUNPKH (R157): Widens the high half of each unit. -/
  | vunpkh (un : VUnit) (h : Hdr) (d : BitVec 5) (a : BitVec 5) (t : BitVec 3)
  /-- VQNF (R158): Quantises elements to NF4 indices under a per-lane scale. -/
  | vqnf (un : VUnit) (h : Hdr) (d : BitVec 5) (a : BitVec 5) (b : BitVec 5) (t : BitVec 3)
  /-- VDQNF (R159): Dequantises NF4 indices with a per-lane scale. -/
  | vdqnf (un : VUnit) (h : Hdr) (d : BitVec 5) (a : BitVec 5) (b : BitVec 5) (t : BitVec 3)
  /-- VHASH (R160): Writes the counter-based hash H(a, b) per lane. -/
  | vhash (un : VUnit) (h : Hdr) (d : BitVec 5) (a : BitVec 5) (b : BitVec 5)
  /-- VRCP (R161): Correctly rounded reciprocal per FP32 element. -/
  | vrcp (un : VUnit) (h : Hdr) (d : BitVec 5) (a : BitVec 5)
  /-- VRSQ (R161): Correctly rounded reciprocal square root per FP32 element. -/
  | vrsq (un : VUnit) (h : Hdr) (d : BitVec 5) (a : BitVec 5)
  /-- VSQRT (R161): Correctly rounded square root per element. -/
  | vsqrt (un : VUnit) (h : Hdr) (d : BitVec 5) (a : BitVec 5) (t : BitVec 1)
  /-- VDIV (R161): Correctly rounded IEEE division per element. -/
  | vdiv (un : VUnit) (h : Hdr) (d : BitVec 5) (a : BitVec 5) (b : BitVec 5) (t : BitVec 1)
  /-- VEXP2 (R161): Correctly rounded 2^a per FP32 element. -/
  | vexp2 (un : VUnit) (h : Hdr) (d : BitVec 5) (a : BitVec 5)
  /-- VLOG2 (R161): Correctly rounded log2 a per FP32 element. -/
  | vlog2 (un : VUnit) (h : Hdr) (d : BitVec 5) (a : BitVec 5)
  /-- VSINPI (R161): Correctly rounded sin(πa) per FP32 element. -/
  | vsinpi (un : VUnit) (h : Hdr) (d : BitVec 5) (a : BitVec 5)
  /-- VCOSPI (R161): Correctly rounded cos(πa) per FP32 element. -/
  | vcospi (un : VUnit) (h : Hdr) (d : BitVec 5) (a : BitVec 5)
  /-- VTANH (R161): Correctly rounded tanh per FP32 element. -/
  | vtanh (un : VUnit) (h : Hdr) (d : BitVec 5) (a : BitVec 5)
  /-- VRSUM (R162): Sums all elements in the fixed tree and writes the result to every active element. -/
  | vrsum (un : VUnit) (h : Hdr) (d : BitVec 5) (a : BitVec 5) (t : BitVec 3)
  /-- VRMAX (R162): Maximum of all elements in the fixed tree. -/
  | vrmax (un : VUnit) (h : Hdr) (d : BitVec 5) (a : BitVec 5) (t : BitVec 3)
  /-- VRMIN (R162): Minimum of all elements in the fixed tree. -/
  | vrmin (un : VUnit) (h : Hdr) (d : BitVec 5) (a : BitVec 5) (t : BitVec 3)
  /-- VRAMAX (R162): Maximum magnitude of all elements in the fixed tree. -/
  | vramax (un : VUnit) (h : Hdr) (d : BitVec 5) (a : BitVec 5) (t : BitVec 3)
  /-- VPERM (R153): Permutes lanes or elements within each cluster by an index vector. -/
  | vperm (un : VUnit) (h : Hdr) (d : BitVec 5) (a : BitVec 5) (b : BitVec 5) (f : BitVec 1)
  /-- VXCL (R153): Permutes lanes or elements across clusters by an index vector. -/
  | vxcl (un : VUnit) (h : Hdr) (d : BitVec 5) (a : BitVec 5) (b : BitVec 5) (f : BitVec 1)
  /-- VST (R164): Stores a vector to the own tessera (V0) or accumulator memory (V1) in the issue cycle. -/
  | vst (un : VUnit) (h : Hdr) (t : BitVec 5) (a : BitVec 5) (b : BitVec 5) (m : BitVec 3)
  /-- MCALL (R186): Creates a matrix routine operation on channel 4 and writes its token. -/
  | mcall (h : Hdr) (k : BitVec 4) (i : BitVec 10) (p : BitVec 2) (d : BitVec 1)
  /-- MSET (R187): Writes a scalar to a matrix parameter register. -/
  | mset (h : Hdr) (d : BitVec 3) (a : BitVec 5)
  /-- MSETI (R187): Writes a sign-extended immediate to a matrix parameter register. -/
  | mseti (h : Hdr) (d : BitVec 3) (i : BitVec 13)
  /-- MLDR (R190): Copies and verifies words from the tessera into the routine store once the matrix channel is idle. -/
  | mldr (h : Hdr) (d : BitVec 5) (a : BitVec 5) (b : BitVec 5)
  /-- COPY (R324): Reads a copy packet and queues a copy operation on the packet's channel, writing its token. -/
  | copy (un : CUnit) (h : Hdr) (k : BitVec 4) (a : BitVec 5) (p : BitVec 2) (d : BitVec 1) (q : BitVec 4) (c : BitVec 1)
  /-- COLL (R336): Queues this member's part of a collective on channel 5. -/
  | coll (un : CUnit) (h : Hdr) (k : BitVec 4) (a : BitVec 5) (p : BitVec 2) (d : BitVec 1) (q : BitVec 4) (c : BitVec 1)
  /-- RSTRP (R339): Queues a re-stripe of a page on channel 6. -/
  | rstrp (un : CUnit) (h : Hdr) (k : BitVec 4) (a : BitVec 5) (p : BitVec 2) (d : BitVec 1) (q : BitVec 4) (c : BitVec 1)
  /-- CRYP (R340): Queues a crypto operation on channel 7 of a control core. -/
  | cryp (un : CUnit) (h : Hdr) (k : BitVec 4) (a : BitVec 5) (p : BitVec 2) (d : BitVec 1) (q : BitVec 4) (c : BitVec 1)
  /-- KJOIN (R341): Queues a join on a channel that completes after every earlier operation of the masked channels. -/
  | kjoin (un : CUnit) (h : Hdr) (k : BitVec 4) (a : BitVec 5) (p : BitVec 2) (d : BitVec 1) (q : BitVec 4) (c : BitVec 1)
  /-- KCANCEL (R309): Cancels the named operation at its next boundary. -/
  | kcancel (un : CUnit) (h : Hdr) (a : BitVec 4)
  /-- KDETACH (R310): Detaches the named operation from its owner. -/
  | kdetach (un : CUnit) (h : Hdr) (a : BitVec 4)
  /-- KPRIO (R342): Changes the named operation's priority from the next grant. -/
  | kprio (un : CUnit) (h : Hdr) (a : BitVec 4) (i : BitVec 8)
  /-- KSTAT (R343): Reads a word of the named operation's fault record into a scalar. -/
  | kstat (un : CUnit) (h : Hdr) (d : BitVec 5) (a : BitVec 4) (f : BitVec 2)
  /-- KACK (R342): Moves a FAULTED operation to ACKED, freeing its channel head. -/
  | kack (un : CUnit) (h : Hdr) (a : BitVec 4)
  /-- LDR (R251): Loads 1–8 bytes from a remote tessera (C0) or global memory (C1) with variable latency. -/
  | ldr (un : CUnit) (h : Hdr) (t : BitVec 5) (a : BitVec 5) (w : BitVec 3) (o : BitVec 5)
  /-- STR (R252): Stores 1–8 bytes to a remote tessera (C0) or global memory (C1). -/
  | str (un : CUnit) (h : Hdr) (t : BitVec 5) (a : BitVec 5) (w : BitVec 3) (o : BitVec 5)
  /-- VLDR (R253): Loads a vector from remote tesserae or global memory. -/
  | vldr (un : CUnit) (h : Hdr) (t : BitVec 5) (a : BitVec 5) (b : BitVec 5) (m : BitVec 3)
  /-- VSTR (R253): Stores a vector to remote tesserae or global memory. -/
  | vstr (un : CUnit) (h : Hdr) (t : BitVec 5) (a : BitVec 5) (b : BitVec 5) (m : BitVec 3)
  /-- AMOW (R255): Performs a 32-bit integer read-modify-write at the home and returns the old value. -/
  | amow (un : CUnit) (h : Hdr) (d : BitVec 5) (a : BitVec 5) (b : BitVec 5) (f : BitVec 3)
  /-- AMOD (R255): Performs a 64-bit integer read-modify-write at the home and returns the old value. -/
  | amod (un : CUnit) (h : Hdr) (d : BitVec 5) (a : BitVec 5) (b : BitVec 5) (f : BitVec 3)
  /-- CAS (R256): Compares memory with d's visible face and swaps on equality, returning the old value. -/
  | cas (un : CUnit) (h : Hdr) (d : BitVec 5) (a : BitVec 5) (b : BitVec 5) (f : BitVec 1)
  /-- FAMO (R257): Performs a floating-point atomic add, max or epoch-closing magnitude maximum. -/
  | famo (un : CUnit) (h : Hdr) (d : BitVec 5) (a : BitVec 5) (b : BitVec 5) (f : BitVec 3)
  /-- LDA (R259): Loads 64 bits and acquires at the named scope, holding later memory bundles until bound. -/
  | lda (un : CUnit) (h : Hdr) (t : BitVec 5) (a : BitVec 5) (s : BitVec 3) (o : BitVec 5)
  /-- STRL (R259): Stores 64 bits as a release at the named scope. -/
  | strl (un : CUnit) (h : Hdr) (t : BitVec 5) (a : BitVec 5) (s : BitVec 3) (o : BitVec 5)
  /-- FLIP (R112): Starts the flip of R20 on the issuing context. -/
  | flip (h : Hdr)
  /-- FENCE (R260): Holds later bundles of the named classes until earlier ones have performed at the scope. -/
  | fence (h : Hdr) (s : BitVec 3) (m : BitVec 5)
  /-- KWAIT (R344): Holds its bundle until the named operation is settled, then orders later accesses after it. -/
  | kwait (h : Hdr) (a : BitVec 4) (i : BitVec 8)
  /-- KWAITCH (R345): Holds its bundle until a channel's DONE reaches a value or a fault stops it. -/
  | kwaitch (h : Hdr) (a : BitVec 5) (c : BitVec 3)
  /-- HWAITF (R346): Waits until a hod has enough filled slots, or for a BYTES epoch to complete. -/
  | hwaitf (h : Hdr) (a : BitVec 5) (j : BitVec 5)
  /-- HWAITE (R346): Waits until a SLOTS hod has enough free slots. -/
  | hwaite (h : Hdr) (a : BitVec 5) (j : BitVec 5)
  /-- HADVR (R346): Advances a hod's read pointer as a release. -/
  | hadvr (h : Hdr) (a : BitVec 5) (j : BitVec 5)
  /-- HADVW (R346): Advances a hod's write pointer as a release. -/
  | hadvw (h : Hdr) (a : BitVec 5) (j : BitVec 5)
  /-- HEXPECT (R346): Sets the expected byte count of a BYTES hod's epoch. -/
  | hexpect (h : Hdr) (a : BitVec 5) (j : BitVec 5)
  /-- HPTR (R346): Reads a hod's read or write pointer (or ARR/EXP) into a scalar. -/
  | hptr (h : Hdr) (d : BitVec 5) (w : BitVec 1) (j : BitVec 5)
  /-- BAR (R132): Releases, arrives at the next epoch of a level instance, waits for all peers and acquires. -/
  | bar (h : Hdr) (v : BitVec 3)
  /-- XLAT (R262): Starts a page-table walk for a virtual address into XR and a dynamic slot. -/
  | xlat (h : Hdr) (a : BitVec 5) (s : BitVec 6)
  /-- XMOV (R263): Copies an XR word into a scalar. -/
  | xmov (h : Hdr) (d : BitVec 5) (w : BitVec 2)
  /-- SRD (R393): Reads a system register by index into a scalar. -/
  | srd (h : Hdr) (d : BitVec 5) (i : BitVec 10)
  /-- SWR (R393): Writes a scalar to a system register without behaviour of its own, under the access rules. -/
  | swr (h : Hdr) (d : BitVec 5) (i : BitVec 10)
  /-- TRAP (R394): Issues whole and raises SVCALL with the service code. -/
  | trap (h : Hdr) (i : BitVec 13)
  /-- RETT (R376): From SVC, reads the frame, re-injects PWQ entries and abandoned reads, performs owed flips and resumes the served context. -/
  | rett (h : Hdr)
  /-- HWIN (R398): Applies the oldest ingress record as stores to the own tessera. -/
  | hwin (h : Hdr) (a : BitVec 5)
  /-- SEGB (R387): Opens a segment and clears SEGST. -/
  | segb (h : Hdr)
  /-- SEGE (R387): Compares the segment's count and signature and closes it or raises SDC_SEGMENT. -/
  | sege (h : Hdr) (a : BitVec 5) (b : BitVec 5)
  /-- IINV (R399): Releases and invalidates instruction caches of the gang within a scope. -/
  | iinv (h : Hdr) (s : BitVec 3)
  /-- XREG_RD (R396): From SVC, reads a face of another context's register. -/
  | xregRd (h : Hdr) (d : BitVec 5) (a : BitVec 5) (f : BitVec 1) (c : BitVec 1) (k : BitVec 3)
  /-- XREG_WR (R396): From SVC, writes a face of another context's register without setting W. -/
  | xregWr (h : Hdr) (d : BitVec 5) (a : BitVec 5) (f : BitVec 1) (c : BitVec 1) (k : BitVec 3)
  /-- SAVEPH (R397): From SVC, writes a context image to the own tessera. -/
  | saveph (h : Hdr) (a : BitVec 5) (c : BitVec 1)
  /-- LOADPH (R397): From SVC, replaces a context's state from an image. -/
  | loadph (h : Hdr) (a : BitVec 5) (c : BitVec 1)
  /-- WAIT (R349): Holds its bundle until a tessera flag word meets a condition, then acquires. -/
  | wait (h : Hdr) (a : BitVec 5) (b : BitVec 5) (f : BitVec 3)
  /-- SIGNAL (R348): Writes an 8-byte flag to a remote tessera as a release. -/
  | signal (h : Hdr) (a : BitVec 5) (b : BitVec 5) (s : BitVec 3)
  /-- PAIRSET (R264): Declares or removes a paired region of the context. -/
  | pairset (h : Hdr) (a : BitVec 5) (b : BitVec 5) (r : BitVec 3)
  /-- BKPT (R394): Raises BKPT precisely with a tag. -/
  | bkpt (h : Hdr) (i : BitVec 13)
  /-- HALT (R401): Once attached operations settle, ends the strand, releasing and passing detached operations. -/
  | halt (h : Hdr)
  /-- PFX (R73): Gives the V slots of its bundle rounding modes, latch reads and random bits. -/
  | pfx (x : BitVec 3) (y : BitVec 3) (a : BitVec 1) (b : BitVec 1) (r : BitVec 5) (w : BitVec 2)
  /-- IMX (R75): Extends one immediate or offset field of another slot in its bundle. -/
  | imx (s : BitVec 3) (e : BitVec 23)
  /-- MARK (R451): Logs an expected schedule cycle and tag for trace, arming or disarming interlock trace. -/
  | mark (c : BitVec 20) (t : BitVec 6)
  /-- FMTS (R194): Sets the matrix mode and formats and clears banks, partials and marks. -/
  | fmts (mode : BitVec 4) (af : BitVec 4) (bf : BitVec 4)
  /-- AFET (R195): Sets the A stream base, pitch, order and swizzle. -/
  | afet (pa : BitVec 3) (pitch : BitVec 16) (ord : BitVec 1) (swz : BitVec 1)
  /-- BSEL (R196): Sets BCUR, SROW and SSROW. -/
  | bsel (pb : BitVec 3) (rofs : BitVec 8) (srow : BitVec 8) (ssrow : BitVec 8)
  /-- MACS (R197): Runs one row-step per row, accumulating A by the lintel B slice. -/
  | macs (nr : BitVec 6) (frow : BitVec 6) (wb : BitVec 1) (adv : BitVec 1) (kv : BitVec 7)
  /-- ACCZ (R198): Zeroes accumulator rows and their flags. -/
  | accz (nr : BitVec 6) (frow : BitVec 6) (wb : BitVec 1)
  /-- ACCL (R198): Loads accumulator rows from accumulator memory. -/
  | accl (nr : BitVec 6) (frow : BitVec 6) (wb : BitVec 1) (pa : BitVec 3) (fx : BitVec 1)
  /-- DRN (R199): Drains accumulator rows to accumulator memory or the row latch. -/
  | drn (nr : BitVec 6) (frow : BitVec 6) (wb : BitVec 1) (dst : BitVec 2) (pa : BitVec 3) (clr : BitVec 1)
  /-- ADPT_DOWN (R208): Accumulates adapter down-projection partials for rows with adapters. -/
  | adptDown (nr : BitVec 6) (frow : BitVec 6) (wb : BitVec 1) (pi : BitVec 3) (pt : BitVec 3) (pd : BitVec 3)
  /-- ADPT_UP (R208): Adds adapter up-projection terms into accumulator rows. -/
  | adptUp (nr : BitVec 6) (frow : BitVec 6) (wb : BitVec 1) (pi : BitVec 3) (pt : BitVec 3) (pd : BitVec 3)
  /-- ABFT_ARM (R211): Snapshots rows and routine state and starts check values. -/
  | abftArm (nr : BitVec 6) (frow : BitVec 6) (wb : BitVec 1)
  /-- ABFT_CHECK (R211): Compares check values and replays or faults on mismatch. -/
  | abftCheck (nr : BitVec 6) (frow : BitVec 6) (wb : BitVec 1)
  /-- LOOPM (R201): Closes a counted do-while loop of micro-operations. -/
  | loopm (lvl : BitVec 2) (src : BitVec 1) (pr : BitVec 3) (cnt : BitVec 14) (tgt : BitVec 14)
  /-- PADD (R202): Adds an immediate or another q register to a q register. -/
  | padd (pd : BitVec 3) (src : BitVec 1) (ps : BitVec 3) (imm : BitVec 32)
  /-- YLD (R203): Suspension point: suspends on pending pre-emption or stops on pending cancel. -/
  | yld
  /-- HWT_WAITF (R204): Routine waits until N slots are filled on a hod. -/
  | hwtWaitf (hod : BitVec 5) (n : BitVec 8)
  /-- HWT_ADVR (R204): Routine advances a hod's read pointer. -/
  | hwtAdvr (hod : BitVec 5) (n : BitVec 8)
  /-- HWT_WAITB (R204): Routine waits for a BYTES epoch to complete. -/
  | hwtWaitb (hod : BitVec 5)
  /-- END (R205): Completes the matrix operation, flushing a half latch entry. -/
  | endOp
  /-- MWRITE (R418): The mailbox applies a host write as a DEV release, or a doorbell write. -/
  | mwrite (m : HostMsg)
  /-- MREAD (R418): The mailbox reads device memory for the host as a DEV acquire. -/
  | mread (m : HostMsg)
  /-- INGRESS (R421): A host record is appended to a core's ingress buffer or refused. -/
  | ingress (m : HostMsg)
  /-- CLAIM (R418): The mailbox performs AMOD.ADD 1 on a queue's WI and returns the claim number. -/
  | claim (m : HostMsg)
  /-- DEADLINE_RAISE (R363): A pending claim's priority is overridden for later scans. -/
  | deadlineRaise (m : HostMsg)
  /-- DEADLINE_EXPIRE (R363): A pending or unplaced claim is expired. -/
  | deadlineExpire (m : HostMsg)
  /-- FANSWER_MAPPED (R418): A parked walk resumes from the page table. -/
  | fanswerMapped (m : HostMsg)
  /-- FANSWER_NONE (R378): A parked walk completes with XR FAULT set. -/
  | fanswerNone (m : HostMsg)
  /-- DREAD (R419): Returns 8 bytes of the device status block. -/
  | dread (m : HostMsg)
  /-- FMAP (R418): Writes entries of the tenant's fabric map for its next launch. -/
  | fmap (m : HostMsg)
  /-- FWLOAD (R436): Stores a chunk of the firmware image. -/
  | fwload (m : HostCmd)
  /-- FWGO (R440): Verifies the firmware image, extends measurements and starts it, then brings the device up. -/
  | fwgo (m : HostCmd)
  /-- TENANT_SET (R437): Provisions a tenant from a tenant record. -/
  | tenantSet (m : HostCmd)
  /-- TENANT_CLR (R438): Removes a tenant, zeroing its keys and frames. -/
  | tenantClr (m : HostCmd)
  /-- KEYLOAD (R439): Unwraps and loads a key into a key slot. -/
  | keyload (m : HostCmd)
  /-- KEYFREE (R439): Zeroes a key slot. -/
  | keyfree (m : HostCmd)
  /-- UNLOCK_CHAL (R444): Replies with a fresh 16-byte challenge. -/
  | unlockChal (m : HostCmd)
  /-- UNLOCK (R444): Checks a debug token and, on success, discards gangs, zeroes tenants and opens the debug port. -/
  | unlock (m : HostCmd)
  /-- QUOTE (R446): Replies with a signed attestation quote. -/
  | quote (m : HostCmd)
  /-- EXTEND (R441): Extends a measurement slot 4–7 with host data. -/
  | extend (m : HostCmd)
  /-- LCS_ADVANCE (R443): Blows fuses to move the lifecycle one step forward. -/
  | lcsAdvance (m : HostCmd)
  /-- NODESET (R412): Sets the device's fabric node. -/
  | nodeset (m : HostCmd)
  /-- HELD_BUNDLE_RELEASE (R40): A bundle held by an interlock, wait, PWQ room or hold issues once its condition clears. -/
  | heldBundleRelease (core : Nat) (cx : CtxId)
  /-- FLIP_COMPLETE (R22): A flip whose due writes and paired-half operations are ready exchanges faces and halves and counts PHN. -/
  | flipComplete (core : Nat) (cx : CtxId)
  /-- PWQ_LAND (R28): A pending result arrives and is written into the hidden face under the stamp rule. -/
  | pwqLand (core : Nat) (cx : CtxId) (k : Nat)
  /-- SECBND_BUBBLE (R48): When the starved-secondary count reaches SECBND the primary issues nothing for one cycle. -/
  | secbndBubble (core : Nat)
  /-- SECONDARY_ACCESS_GRANT (R47): A delayed secondary tessera access is granted in the first cycle without a primary bank claim. -/
  | secondaryAccessGrant (core : Nat)
  /-- BAR_RELEASE (R132): The last arrival or halt of an instance's strands ends the BAR wait with its acquire. -/
  | barRelease (core : Nat) (cx : CtxId)
  /-- WAIT_TIMEOUT (R323): A bounded wait whose count exceeds LIM or its timeout raises WAIT_TIMEOUT to SVC. -/
  | waitTimeout (core : Nat) (cx : CtxId)
  /-- ACCESS_PERFORM (R254): A remote or global access or atomic performs at its target or home. -/
  | accessPerform (core : Nat) (k : Nat)
  /-- WRITE_NOTICE_APPLY (R231): A die cache applies a home's write notice once its causal predecessors are applied. -/
  | writeNoticeApply (die : Nat) (k : Nat)
  /-- XLAT_WALK_COMPLETE (R262): A page-table walk completes into XR and the dynamic slot, or with FAULT. -/
  | xlatWalkComplete (core : Nat) (cx : CtxId)
  /-- PAGE_WALK_PARK (R378): A walk meeting a missing page parks the context and appends a fault-queue record. -/
  | pageWalkPark (core : Nat) (cx : CtxId)
  /-- TRAP_ENTRY (R372): A context takes a trap at a boundary: drains, abandons reads, writes the frame and starts SVC. -/
  | trapEntry (core : Nat) (cx : CtxId)
  /-- REFETCH_DONE (R380): A refetch of a bad tessera line completes and the read is redone. -/
  | refetchDone (core : Nat) (cx : CtxId)
  /-- PHASE_REPLAY (R382): A detected transient in a clean phase restores the phase-start state and reissues from PSTART. -/
  | phaseReplay (core : Nat) (cx : CtxId)
  /-- PREEMPT_REQUEST (R384): A pre-emption request stops every context of a gang and SVC saves each core image. -/
  | preemptRequest (gang : Nat)
  /-- GANG_RESUME (R384): Every core of a gang is restored, operations resume and contexts continue by RETT. -/
  | gangResume (gang : Nat)
  /-- OP_START (R302): A queued child operation at its head with predecessor complete is granted and starts running. -/
  | opStart (core : Nat) (ch : Nat)
  /-- COPY_LINE_GRANT (R308): The copy engine grants one 64-byte line of a ready head and moves it, completing the copy at its last line. -/
  | copyLineGrant (core : Nat)
  /-- COLL_STEP (R338): A collective advances one 4 KiB step at every member together. -/
  | collStep (core : Nat)
  /-- RESTRIPE_LINE_MOVE (R244): A re-stripe moves one line indivisibly from its old home to its new home. -/
  | restripeLineMove (core : Nat)
  /-- CRYPTO_OPERATION (R340): The crypto engine runs an XTS or SHA-256 operation. -/
  | cryptoOperation (core : Nat)
  /-- KJOIN_COMPLETE (R341): A join completes once every earlier operation of its channels is complete. -/
  | kjoinComplete (core : Nat) (ch : Nat)
  /-- ADAPTER_FETCH_COMPLETE (R209): A missing adapter row arrives in a bay entry and its marked rows' terms are computed. -/
  | adapterFetchComplete (core : Nat)
  /-- HCFG_CREATE (R315): A write setting EN with valid fields creates a hod. -/
  | hcfgCreate (hod : BitVec 5) (v : BitVec 64)
  /-- HCFG_DESTROY (R315): A write with EN = 0 destroys a hod. -/
  | hcfgDestroy (hod : BitVec 5) (v : BitVec 64)
  /-- MXCFG_WRITE (R183): Held until the matrix channel is empty, sets the bay and invalidates every bay entry. -/
  | mxcfgWrite (v : BitVec 64)
  /-- INTP_WRITE (R392): An SVC write of ones clears pending interrupt bits. -/
  | intpWrite (v : BitVec 64)
  /-- TRRB_WRITE (R448): Sets the trace ring base and clears TRST. -/
  | trrbWrite (v : BitVec 64)
  /-- DTQ_WRITE (R354): Sets a tenant's launch-queue header and lets the distributor examine it again. -/
  | dtqWrite (ten : BitVec 4) (v : BitVec 64)
  /-- RCLS_WRITE (R355): Sets a reservation class's tenants and dies, discarded on overlapping dies. -/
  | rclsWrite (cls : BitVec 4) (v : BitVec 64)
  /-- QUEUE_SCAN (R356): The distributor periodically reads each tenant's slot RI to notice stamps. -/
  | queueScan (ten : BitVec 4)
  /-- LAUNCH_SELECT (R356): The distributor selects a candidate by priority and stride pass, binding its priority. -/
  | launchSelect
  /-- GANG_PLACE (R359): A selected gang is placed whole once it fits, pre-empting lower classes, and its strands are set up. -/
  | gangPlace (gang : Nat)
  /-- FABRIC_GANG_START (R414): Strands of a fabric gang start once every device reports its part placed. -/
  | fabricGangStart (gang : Nat)
  /-- ALARM_EXPIRE (R362): A gang's quantum reaches zero and the distributor pre-empts it or reloads ALARM. -/
  | alarmExpire (core : Nat)
  /-- TENANT_QUEUE_SERVE (R352): A queue engine serves a stamped tenant-queue slot and reports its completion. -/
  | tenantQueueServe (q : Nat)
  /-- TILE_SPARE (R406): A tile whose errors pass threshold is moved to a spare tile. -/
  | tileSpare (die : Nat) (tile : Nat)
  /-- DIE_SWITCH (R407): A predictive switch-in moves a logical die to its half's spare site. -/
  | dieSwitch (die : Nat)
  /-- DIE_LOST (R409): A die that stops responding is lost and its gangs' survivors take DIE_LOST. -/
  | dieLost (die : Nat)
  /-- FLIT_RECEIVE (R411): A Vafort receiver accepts an in-sequence good flit or requests a retry; 16 retries take the port down. -/
  | flitReceive (port : Nat) (flit : List (BitVec 8))
  /-- LANE_SPARE (R411): A Vafort lane over its error threshold is replaced by the spare lane. -/
  | laneSpare (port : Nat) (lane : Nat)
  /-- UCIE_LANE (R431): A UCIe lane over the adapter's threshold is repaired with a redundant lane. -/
  | ucieLane (module : Nat) (lane : Nat)
  /-- DEBUG_STOP (R456): A claimed breakpoint, watchpoint or port request stops a whole gang. -/
  | debugStop (gang : Nat)
  /-- DEBUG_PORT_ACCESS (R457): The debug port reads or writes a stopped gang's state. -/
  | debugPortAccess (gang : Nat) (rq : PortRequest)
  /-- TRACE_SAMPLE (R450): At each sample period the trace unit records every strand-holding context. -/
  | traceSample (core : Nat)
  /-- SCRUB_LINE (R427): The scrubber reads, corrects and writes back one HBM line indivisibly. -/
  | scrubLine (bed : Nat)
  /-- PPR (R430): Moves a failing row's lines to a spare row. -/
  | ppr (stack : Nat) (row : Nat)
  /-- CHAN_SPARE (R430): Moves a channel's lines to the stack's spare channel. -/
  | chanSpare (stack : Nat) (ch : Nat)
  /-- PAGE_RETIRE (R430): Reassigns a frame's storage to a reserve frame. -/
  | pageRetire (frame : Nat)
  /-- VOLT_RESTORE (R432): Excess corrected errors during an excursion restore nominal voltage and start a re-measurement. -/
  | voltRestore (die : Nat)
  /-- REMEASUREMENT_END (R432): After 2^36 cycles at nominal the die is flagged PRED_FAIL or returned to the power controller. -/
  | remeasurementEnd (die : Nat)
  /-- DVFS_EVALUATION (R464): Every 2^20 cycles firmware sets each die's state from REQ, the package limit and temperature. -/
  | dvfsEvaluation
  /-- THERMAL_TRIP (R464): A junction at 115 °C powers off every domain. -/
  | thermalTrip (temp : Nat)
  /-- RAIL_FAULT (R459): A rail leaving tolerance powers off every domain. -/
  | railFault (rail : Nat)
  /-- POWER_UP (R460): Rails come up in order and the boot ROM starts on control core 0. -/
  | powerUp
  /-- RUNTIME_QUEUE_RI_ADVANCE (R418): When the host advances the read index of a full tenant runtime queue ring, the device writes the records it was holding, in order, and sends their REPORT messages. -/
  | runtimeQueueRiAdvance (ten : BitVec 4) (ri : BitVec 64)
  /-- FABRIC_PART_REJECTED (R414): When another gang device rejects its part of a fabric launch, this device rejects its own matched part and writes STATE 5 with CODE 14. -/
  | fabricPartRejected (gang : Nat)
  /-- UNDERVOLT_EXCURSION (R432): The power controller lowers a compute die's voltage below nominal in an excursion, during which the die's corrected errors are logged but not counted. -/
  | undervoltExcursion (die : Nat) (start : Bool)
deriving DecidableEq, Repr

end Sys2Proof
end

