-- ==== Sys2Proof/WellFormed.lean ====
section
/-! DEFINITION. Which instructions are well formed: every rule of 02 R60 to R77 on one slot word that does not depend
on the issuing core or context, and 08 R193's field rules on one micro-operation. -/

namespace Sys2Proof

/-- GE, GN and G of a header (R60): without GE, GN and G are zero. -/
def Hdr.guardOk (h : Hdr) : Bool := h.ge || (!h.gn && h.g == 0)

/-- A header of an instruction that writes a two-faced register: any LAND (R61). -/
def Hdr.wfWrite (h : Hdr) : Bool := h.guardOk

/-- A header of an instruction that writes no two-faced register: LAND is zero (R30, R61). -/
def Hdr.wfNoWrite (h : Hdr) : Bool := h.guardOk && h.land == 0

/-- FVM MODE 0 to 5; B is zero but for strides and index vectors (R67). -/
def fvmOk (m : BitVec 3) (b : BitVec 5) : Bool :=
  m.toNat == 1 || m.toNat == 2 || (m.toNat ≤ 5 && b == 0)

/-- The narrow type of VPACK and VUNPK (R66). -/
def narrowOk (t : BitVec 3) : Bool :=
  t.toNat == 0 || t.toNat == 1 || t.toNat == 2 || t.toNat == 4 || t.toNat == 5 || t.toNat == 6

/-- FK: KPE = 0 requires KP = 0 (R69). -/
def fkOk (q : BitVec 4) (c : BitVec 1) : Bool := c == 1 || q == 0

/-- FCV: TO and FROM differ and neither is 14; at most one is 15 since they differ (R66). -/
def fcvOk (t f : BitVec 4) : Bool := t != f && t.toNat != 14 && f.toNat != 14

/-- XREG: classes 0 to 5, and an index inside its class (R70, R396). -/
def xregOk (k : BitVec 3) (a : BitVec 5) : Bool :=
  match k.toNat with
  | 0 => true
  | 1 => a.toNat < 16
  | 2 => a.toNat < 16
  | 3 => a.toNat < 8
  | 4 => a.toNat < 16
  | 5 => a.toNat < 4
  | _ => false

/-- PFX: RM 7 names no mode, and RND and RW are zero unless a mode is RSR (R73). -/
def pfxOk (x y : BitVec 3) (r : BitVec 5) (w : BitVec 2) : Bool :=
  x.toNat != 7 && y.toNat != 7 && (x.toNat == 6 || y.toNat == 6 || (r == 0 && w == 0))

/-- The row range of a micro-operation: FROW + NR + 1 ≤ 64 (R193). -/
def rangeOk (nr frow : BitVec 6) : Bool := frow.toNat + nr.toNat + 1 ≤ 64

/-- The well-formed instructions. -/
def Instr.wf : Instr → Bool
  | .nop => true
  | .add h _ _ _ => h.wfWrite
  | .sub h _ _ _ => h.wfWrite
  | .and h _ _ _ => h.wfWrite
  | .or h _ _ _ => h.wfWrite
  | .xor h _ _ _ => h.wfWrite
  | .andn h _ _ _ => h.wfWrite
  | .shl h _ _ _ => h.wfWrite
  | .shr h _ _ _ => h.wfWrite
  | .sar h _ _ _ => h.wfWrite
  | .rol h _ _ _ => h.wfWrite
  | .mins h _ _ _ => h.wfWrite
  | .maxs h _ _ _ => h.wfWrite
  | .minu h _ _ _ => h.wfWrite
  | .maxu h _ _ _ => h.wfWrite
  | .mul h _ _ _ => h.wfWrite
  | .mulhs h _ _ _ => h.wfWrite
  | .mulhu h _ _ _ => h.wfWrite
  | .divs h _ _ _ => h.wfWrite
  | .divu h _ _ _ => h.wfWrite
  | .rems h _ _ _ => h.wfWrite
  | .remu h _ _ _ => h.wfWrite
  | .mov h _ _ => h.wfWrite
  | .clz h _ _ => h.wfWrite
  | .ctz h _ _ => h.wfWrite
  | .popc h _ _ => h.wfWrite
  | .brev h _ _ => h.wfWrite
  | .sextb h _ _ => h.wfWrite
  | .sexth h _ _ => h.wfWrite
  | .sextw h _ _ => h.wfWrite
  | .zextb h _ _ => h.wfWrite
  | .zexth h _ _ => h.wfWrite
  | .zextw h _ _ => h.wfWrite
  | .lea h _ _ _ _ => h.wfWrite
  | .cmpEq h _ _ _ => h.wfWrite
  | .cmpNe h _ _ _ => h.wfWrite
  | .cmpLts h _ _ _ => h.wfWrite
  | .cmpLtu h _ _ _ => h.wfWrite
  | .cmpLes h _ _ _ => h.wfWrite
  | .cmpLeu h _ _ _ => h.wfWrite
  | .addi h _ _ _ => h.wfWrite
  | .andi h _ _ _ => h.wfWrite
  | .ori h _ _ _ => h.wfWrite
  | .xori h _ _ _ => h.wfWrite
  | .shli h _ _ i => h.wfWrite && decide (i.toNat ≤ 63)
  | .shri h _ _ i => h.wfWrite && decide (i.toNat ≤ 63)
  | .sari h _ _ i => h.wfWrite && decide (i.toNat ≤ 63)
  | .cmpeqi h _ _ _ => h.wfWrite
  | .cmplti h _ _ _ => h.wfWrite
  | .cmpltui h _ _ _ => h.wfWrite
  | .ldi h _ _ => h.wfWrite
  | .lds h _ _ w _ => h.wfWrite && decide (w.toNat ≤ 6)
  | .sts h _ _ w _ => h.wfNoWrite && decide (w.toNat ≤ 3)
  | .pand h _ _ _ => h.wfWrite
  | .por h _ _ _ => h.wfWrite
  | .pxor h _ _ _ => h.wfWrite
  | .pandn h _ _ _ => h.wfWrite
  | .pnot h _ _ => h.wfWrite
  | .pset h _ => h.wfWrite
  | .pclr h _ => h.wfWrite
  | .pfrom h _ _ => h.wfWrite
  | .pcnt h _ _ => h.wfWrite
  | .pfirst h _ _ => h.wfWrite
  | .br h _ => h.wfNoWrite
  | .call h _ => h.wfNoWrite
  | .bri h _ => h.wfNoWrite
  | .calli h _ => h.wfNoWrite
  | .ret h => h.wfNoWrite
  | .lset h _ _ => h.wfWrite
  | .lseti h _ _ => h.wfWrite
  | .ltset h i => h.wfNoWrite && decide (i.toNat ≤ 255)
  | .loopf h _ _ => h.wfNoWrite
  | .loop h _ _ => h.wfNoWrite
  | .movlrRead h _ => h.wfWrite
  | .movlrWrite h _ => h.wfNoWrite
  | .vadd _ h _ _ _ t => h.wfWrite && decide (t.toNat ≤ 3)
  | .vsub _ h _ _ _ t => h.wfWrite && decide (t.toNat ≤ 3)
  | .vmul _ h _ _ _ t => h.wfWrite && decide (t.toNat ≤ 3)
  | .vmulhs _ h _ _ _ t => h.wfWrite && decide (t.toNat ≤ 3)
  | .vmulhu _ h _ _ _ t => h.wfWrite && decide (t.toNat ≤ 3)
  | .vand _ h _ _ _ t => h.wfWrite && decide (t.toNat ≤ 3)
  | .vor _ h _ _ _ t => h.wfWrite && decide (t.toNat ≤ 3)
  | .vxor _ h _ _ _ t => h.wfWrite && decide (t.toNat ≤ 3)
  | .vshl _ h _ _ _ t => h.wfWrite && decide (t.toNat ≤ 3)
  | .vshr _ h _ _ _ t => h.wfWrite && decide (t.toNat ≤ 3)
  | .vsar _ h _ _ _ t => h.wfWrite && decide (t.toNat ≤ 3)
  | .vmins _ h _ _ _ t => h.wfWrite && decide (t.toNat ≤ 3)
  | .vmaxs _ h _ _ _ t => h.wfWrite && decide (t.toNat ≤ 3)
  | .vminu _ h _ _ _ t => h.wfWrite && decide (t.toNat ≤ 3)
  | .vmaxu _ h _ _ _ t => h.wfWrite && decide (t.toNat ≤ 3)
  | .vabs _ h _ _ t => h.wfWrite && decide (t.toNat ≤ 3)
  | .vld _ h _ _ b m => h.wfWrite && fvmOk m b
  | .vcmpeq _ h _ _ _ t => h.wfWrite && decide (t.toNat ≤ 3)
  | .vcmplts _ h _ _ _ t => h.wfWrite && decide (t.toNat ≤ 3)
  | .vcmpltu _ h _ _ _ t => h.wfWrite && decide (t.toNat ≤ 3)
  | .vcmples _ h _ _ _ t => h.wfWrite && decide (t.toNat ≤ 3)
  | .vsplat _ h _ _ _ => h.wfWrite
  | .vext _ h _ _ _ _ => h.wfWrite
  | .vfadd _ h _ _ _ t => h.wfWrite && decide (4 ≤ t.toNat)
  | .vfsub _ h _ _ _ t => h.wfWrite && decide (4 ≤ t.toNat)
  | .vfmul _ h _ _ _ t => h.wfWrite && decide (4 ≤ t.toNat)
  | .vfma _ h _ _ _ t => h.wfWrite && decide (4 ≤ t.toNat)
  | .vfms _ h _ _ _ t => h.wfWrite && decide (4 ≤ t.toNat)
  | .vfnma _ h _ _ _ t => h.wfWrite && decide (4 ≤ t.toNat)
  | .vfnms _ h _ _ _ t => h.wfWrite && decide (4 ≤ t.toNat)
  | .vfmin _ h _ _ _ t => h.wfWrite && decide (4 ≤ t.toNat)
  | .vfmax _ h _ _ _ t => h.wfWrite && decide (4 ≤ t.toNat)
  | .vfabs _ h _ _ t => h.wfWrite && decide (4 ≤ t.toNat)
  | .vfneg _ h _ _ t => h.wfWrite && decide (4 ≤ t.toNat)
  | .vfcmpeq _ h _ _ _ t => h.wfWrite && decide (4 ≤ t.toNat)
  | .vfcmplt _ h _ _ _ t => h.wfWrite && decide (4 ≤ t.toNat)
  | .vfcmple _ h _ _ _ t => h.wfWrite && decide (4 ≤ t.toNat)
  | .vfclass _ h _ _ t => h.wfWrite && decide (4 ≤ t.toNat)
  | .viota _ h _ t => h.wfWrite && decide (t.toNat ≤ 3)
  | .vcvt _ h _ _ t f => h.wfWrite && fcvOk t f
  | .vcvts _ h _ _ t f => h.wfWrite && fcvOk t f
  | .vpack _ h _ _ _ t => h.wfWrite && narrowOk t
  | .vunpkl _ h _ _ t => h.wfWrite && narrowOk t
  | .vunpkh _ h _ _ t => h.wfWrite && narrowOk t
  | .vqnf _ h _ _ _ t => h.wfWrite && decide (4 ≤ t.toNat ∧ t.toNat ≤ 6)
  | .vdqnf _ h _ _ _ t => h.wfWrite && decide (4 ≤ t.toNat ∧ t.toNat ≤ 6)
  | .vhash _ h _ _ _ => h.wfWrite
  | .vrcp _ h _ _ => h.wfWrite
  | .vrsq _ h _ _ => h.wfWrite
  | .vsqrt _ h _ _ _ => h.wfWrite
  | .vdiv _ h _ _ _ _ => h.wfWrite
  | .vexp2 _ h _ _ => h.wfWrite
  | .vlog2 _ h _ _ => h.wfWrite
  | .vsinpi _ h _ _ => h.wfWrite
  | .vcospi _ h _ _ => h.wfWrite
  | .vtanh _ h _ _ => h.wfWrite
  | .vrsum _ h _ _ _ => h.wfWrite
  | .vrmax _ h _ _ _ => h.wfWrite
  | .vrmin _ h _ _ _ => h.wfWrite
  | .vramax _ h _ _ t => h.wfWrite && decide (4 ≤ t.toNat)
  | .vperm _ h _ _ _ _ => h.wfWrite
  | .vxcl _ h _ _ _ _ => h.wfWrite && h.land != 0
  | .vst _ h _ _ b m => h.wfNoWrite && fvmOk m b
  | .mcall h _ _ _ _ => h.wfWrite
  | .mset h _ _ => h.wfWrite
  | .mseti h _ _ => h.wfWrite
  | .mldr h _ _ _ => h.wfNoWrite
  | .copy _ h _ _ _ _ q c => h.wfWrite && fkOk q c
  | .coll _ h _ _ _ _ q c => h.wfWrite && fkOk q c
  | .rstrp _ h _ _ _ _ q c => h.wfWrite && fkOk q c
  | .cryp _ h _ _ _ _ q c => h.wfWrite && fkOk q c
  | .kjoin _ h _ _ _ _ q c => h.wfWrite && fkOk q c
  | .kcancel _ h _ => h.wfNoWrite
  | .kdetach _ h _ => h.wfNoWrite
  | .kprio _ h _ i => h.wfNoWrite && decide (i.toNat ≤ 3)
  | .kstat _ h _ _ _ => h.wfWrite
  | .kack _ h _ => h.wfNoWrite
  | .ldr _ h _ _ w _ => h.wfWrite && decide (w.toNat ≤ 6)
  | .str _ h _ _ w _ => h.wfNoWrite && decide (w.toNat ≤ 3)
  | .vldr _ h _ _ b m => h.wfWrite && fvmOk m b
  | .vstr _ h _ _ b m => h.wfNoWrite && fvmOk m b
  | .amow _ h _ _ _ _ => h.wfWrite
  | .amod _ h _ _ _ _ => h.wfWrite
  | .cas _ h _ _ _ _ => h.wfWrite
  | .famo _ h _ _ _ f => h.wfWrite && decide (f.toNat ≤ 4)
  | .lda _ h _ _ _ _ => h.wfWrite
  | .strl _ h _ _ _ _ => h.wfNoWrite
  | .flip h => h.wfNoWrite
  | .fence h _ m => h.wfNoWrite && m != 0
  | .kwait h _ _ => h.wfNoWrite
  | .kwaitch h _ _ => h.wfNoWrite
  | .hwaitf h _ _ => h.wfNoWrite
  | .hwaite h _ _ => h.wfNoWrite
  | .hadvr h _ _ => h.wfNoWrite
  | .hadvw h _ _ => h.wfNoWrite
  | .hexpect h _ _ => h.wfNoWrite
  | .hptr h _ _ _ => h.wfWrite
  | .bar h _ => h.wfNoWrite
  | .xlat h _ _ => h.wfNoWrite
  | .xmov h _ _ => h.wfWrite
  | .srd h _ _ => h.wfWrite
  | .swr h _ _ => h.wfNoWrite
  | .trap h _ => h.wfNoWrite
  | .rett h => h.wfNoWrite
  | .hwin h _ => h.wfNoWrite
  | .segb h => h.wfNoWrite
  | .sege h _ _ => h.wfNoWrite
  | .iinv h s => h.wfNoWrite && s != 6
  | .xregRd h _ a _ _ k => h.wfWrite && xregOk k a
  | .xregWr h _ a _ _ k => h.wfNoWrite && xregOk k a
  | .saveph h _ _ => h.wfNoWrite
  | .loadph h _ _ => h.wfNoWrite
  | .wait h _ _ f => h.wfNoWrite && decide (f.toNat ≤ 2)
  | .signal h _ _ _ => h.wfNoWrite
  | .pairset h _ _ _ => h.wfNoWrite
  | .bkpt h _ => h.wfNoWrite
  | .halt h => h.wfNoWrite
  | .pfx x y _ _ r w => pfxOk x y r w
  | .imx s _ => s != 7
  | .mark _ _ => true
  | .fmts mode _ _ => decide (mode.toNat ≤ 5)
  | .afet _ pitch _ _ => decide (pitch.toNat % 64 = 0 ∧ pitch.toNat ≠ 0)
  | .bsel _ _ _ _ => true
  | .macs nr frow _ _ _ => rangeOk nr frow
  | .accz nr frow _ => rangeOk nr frow
  | .accl nr frow _ _ _ => rangeOk nr frow
  | .drn nr frow _ dst pa _ => rangeOk nr frow && dst != 3 && (dst != 2 || pa == 0)
  | .adptDown nr frow _ _ _ _ => rangeOk nr frow
  | .adptUp nr frow _ _ _ _ => rangeOk nr frow
  | .abftArm nr frow _ => rangeOk nr frow
  | .abftCheck nr frow _ => rangeOk nr frow
  | .loopm _ src pr cnt _ => (if src == 1 then cnt == 0 else pr == 0)
  | .padd _ src ps imm => (if src == 1 then imm == 0 else ps == 0)
  | .yld => true
  | .hwtWaitf _ n => n != 0
  | .hwtAdvr _ n => n != 0
  | .hwtWaitb _ => true
  | .endOp => true
  | .heldBundleRelease _ _ => true
  | .flipComplete _ _ => true
  | .pwqLand _ _ _ => true
  | .secbndBubble _ => true
  | .secondaryAccessGrant _ => true
  | .barRelease _ _ => true
  | .waitTimeout _ _ => true
  | .accessPerform _ _ => true
  | .writeNoticeApply _ _ => true
  | .xlatWalkComplete _ _ => true
  | .pageWalkPark _ _ => true
  | .trapEntry _ _ => true
  | .refetchDone _ _ => true
  | .phaseReplay _ _ => true
  | .preemptRequest _ => true
  | .gangResume _ => true
  | .opStart _ _ => true
  | .copyLineGrant _ => true
  | .collStep _ => true
  | .restripeLineMove _ => true
  | .cryptoOperation _ => true
  | .kjoinComplete _ _ => true
  | .adapterFetchComplete _ => true
  | .hcfgCreate _ _ => true
  | .hcfgDestroy _ _ => true
  | .mxcfgWrite _ => true
  | .intpWrite _ => true
  | .trrbWrite _ => true
  | .dtqWrite _ _ => true
  | .rclsWrite _ _ => true
  | .queueScan _ => true
  | .launchSelect => true
  | .gangPlace _ => true
  | .fabricGangStart _ => true
  | .alarmExpire _ => true
  | .tenantQueueServe _ => true
  | .tileSpare _ _ => true
  | .dieSwitch _ => true
  | .dieLost _ => true
  | .flitReceive _ _ => true
  | .laneSpare _ _ => true
  | .ucieLane _ _ => true
  | .mwrite _ => true
  | .mread _ => true
  | .ingress _ => true
  | .claim _ => true
  | .deadlineRaise m => !m.a1.getLsbD 0
  | .deadlineExpire m => m.a1.getLsbD 0
  | .fanswerMapped m => m.a2.getLsbD 0
  | .fanswerNone m => !m.a2.getLsbD 0
  | .dread _ => true
  | .fmap _ => true
  | .fwload _ => true
  | .fwgo _ => true
  | .tenantSet _ => true
  | .tenantClr _ => true
  | .keyload _ => true
  | .keyfree _ => true
  | .unlockChal _ => true
  | .unlock _ => true
  | .quote _ => true
  | .extend _ => true
  | .lcsAdvance _ => true
  | .nodeset _ => true
  | .debugStop _ => true
  | .debugPortAccess _ _ => true
  | .traceSample _ => true
  | .scrubLine _ => true
  | .ppr _ _ => true
  | .chanSpare _ _ => true
  | .pageRetire _ => true
  | .voltRestore _ => true
  | .remeasurementEnd _ => true
  | .dvfsEvaluation => true
  | .thermalTrip _ => true
  | .railFault _ => true
  | .powerUp => true
  | .runtimeQueueRiAdvance _ _ => true
  | .fabricPartRejected _ => true
  | .undervoltExcursion _ _ => true

end Sys2Proof
end

