-- ==== Sys2Proof/Decode.lean ====
section
/-! DEFINITION. From bits to instructions and back (02_bundle_encoding_and_assembly.md R57 to R77, 08 R193,
21 R417, 24 R436). Decoding is total and rejects by name; a word is accepted only when the instruction read from
it is well formed and encodes to that same word, so no reserved bit is ignored (R62, R77). -/

namespace Sys2Proof

/-- Why bits are not an instruction (R77, R193, R417, R436). -/
inductive Reject where
  /-- the OP, UOP, TYPE or CMD has no entry in the map -/
  | unassigned
  /-- FN, the B selector or another selector is outside the set of its map -/
  | badSelector
  /-- a reserved bit is set, or a field breaks its rule (R60, R61, R63, R64, R73) -/
  | badField
  /-- too few bytes, or a length outside its limits -/
  | badLength
deriving DecidableEq, Repr

/-- The `n` bits of `p` from bit `lo` upward. -/
def bits (n lo p : Nat) : BitVec n := BitVec.ofNat n (p / 2 ^ lo)

/-- A slot word of slots 0 to 6 from its OP, header and payload (R59). -/
def slotWord (op : Nat) (h : Hdr) (p : Nat) : Word32 :=
  BitVec.ofNat 32 (op * 67108864 + h.ge.toNat * 33554432 + h.gn.toNat * 16777216 + h.g.toNat * 1048576
    + h.land.toNat * 262144 + p)

/-- A slot 7 word from its OP and its 26-bit payload (R72). -/
def prefixWord (op p : Nat) : Word32 := BitVec.ofNat 32 (op * 67108864 + p)

/-- OP of a slot word (R59). -/
def opOf (w : Word32) : Nat := w.toNat / 67108864

/-- The header of a slot word (R59). -/
def hdrOf (w : Word32) : Hdr :=
  { ge := w.getLsbD 25, gn := w.getLsbD 24, g := bits 4 20 w.toNat, land := bits 2 18 w.toNat }

/-- The payload of a slot word (R59). -/
def payloadOf (w : Word32) : Nat := w.toNat % 262144

/-- The S slot map (R65). -/
def rawS (op : Nat) (h : Hdr) (p : Nat) : Except Reject Instr :=
  match op with
  | 0x1 =>
    match p / 1 % 8 with
    | 0 => .ok (.add h (bits 5 13 p) (bits 5 8 p) (bits 5 3 p))
    | 1 => .ok (.sub h (bits 5 13 p) (bits 5 8 p) (bits 5 3 p))
    | 2 => .ok (.and h (bits 5 13 p) (bits 5 8 p) (bits 5 3 p))
    | 3 => .ok (.or h (bits 5 13 p) (bits 5 8 p) (bits 5 3 p))
    | 4 => .ok (.xor h (bits 5 13 p) (bits 5 8 p) (bits 5 3 p))
    | 5 => .ok (.andn h (bits 5 13 p) (bits 5 8 p) (bits 5 3 p))
    | 6 => .ok (.shl h (bits 5 13 p) (bits 5 8 p) (bits 5 3 p))
    | 7 => .ok (.shr h (bits 5 13 p) (bits 5 8 p) (bits 5 3 p))
    | _ => .error .badSelector
  | 0x2 =>
    match p / 1 % 8 with
    | 0 => .ok (.sar h (bits 5 13 p) (bits 5 8 p) (bits 5 3 p))
    | 1 => .ok (.rol h (bits 5 13 p) (bits 5 8 p) (bits 5 3 p))
    | 2 => .ok (.mins h (bits 5 13 p) (bits 5 8 p) (bits 5 3 p))
    | 3 => .ok (.maxs h (bits 5 13 p) (bits 5 8 p) (bits 5 3 p))
    | 4 => .ok (.minu h (bits 5 13 p) (bits 5 8 p) (bits 5 3 p))
    | 5 => .ok (.maxu h (bits 5 13 p) (bits 5 8 p) (bits 5 3 p))
    | _ => .error .badSelector
  | 0x3 =>
    match p / 1 % 8 with
    | 0 => .ok (.mul h (bits 5 13 p) (bits 5 8 p) (bits 5 3 p))
    | 1 => .ok (.mulhs h (bits 5 13 p) (bits 5 8 p) (bits 5 3 p))
    | 2 => .ok (.mulhu h (bits 5 13 p) (bits 5 8 p) (bits 5 3 p))
    | 3 => .ok (.divs h (bits 5 13 p) (bits 5 8 p) (bits 5 3 p))
    | 4 => .ok (.divu h (bits 5 13 p) (bits 5 8 p) (bits 5 3 p))
    | 5 => .ok (.rems h (bits 5 13 p) (bits 5 8 p) (bits 5 3 p))
    | 6 => .ok (.remu h (bits 5 13 p) (bits 5 8 p) (bits 5 3 p))
    | _ => .error .badSelector
  | 0x4 =>
    match p / 8 % 32 with
    | 0 => .ok (.mov h (bits 5 13 p) (bits 5 8 p))
    | 1 => .ok (.clz h (bits 5 13 p) (bits 5 8 p))
    | 2 => .ok (.ctz h (bits 5 13 p) (bits 5 8 p))
    | 3 => .ok (.popc h (bits 5 13 p) (bits 5 8 p))
    | 4 => .ok (.brev h (bits 5 13 p) (bits 5 8 p))
    | 5 => .ok (.sextb h (bits 5 13 p) (bits 5 8 p))
    | 6 => .ok (.sexth h (bits 5 13 p) (bits 5 8 p))
    | 7 => .ok (.sextw h (bits 5 13 p) (bits 5 8 p))
    | 8 => .ok (.zextb h (bits 5 13 p) (bits 5 8 p))
    | 9 => .ok (.zexth h (bits 5 13 p) (bits 5 8 p))
    | 10 => .ok (.zextw h (bits 5 13 p) (bits 5 8 p))
    | _ => .error .badSelector
  | 0x5 => .ok (.lea h (bits 5 13 p) (bits 5 8 p) (bits 5 3 p) (bits 3 0 p))
  | 0x6 =>
    match p / 1 % 8 with
    | 0 => .ok (.cmpEq h (bits 4 13 p) (bits 5 8 p) (bits 5 3 p))
    | 1 => .ok (.cmpNe h (bits 4 13 p) (bits 5 8 p) (bits 5 3 p))
    | 2 => .ok (.cmpLts h (bits 4 13 p) (bits 5 8 p) (bits 5 3 p))
    | 3 => .ok (.cmpLtu h (bits 4 13 p) (bits 5 8 p) (bits 5 3 p))
    | 4 => .ok (.cmpLes h (bits 4 13 p) (bits 5 8 p) (bits 5 3 p))
    | 5 => .ok (.cmpLeu h (bits 4 13 p) (bits 5 8 p) (bits 5 3 p))
    | _ => .error .badSelector
  | 0x8 => .ok (.addi h (bits 5 13 p) (bits 5 8 p) (bits 8 0 p))
  | 0x9 => .ok (.andi h (bits 5 13 p) (bits 5 8 p) (bits 8 0 p))
  | 0xa => .ok (.ori h (bits 5 13 p) (bits 5 8 p) (bits 8 0 p))
  | 0xb => .ok (.xori h (bits 5 13 p) (bits 5 8 p) (bits 8 0 p))
  | 0xc => .ok (.shli h (bits 5 13 p) (bits 5 8 p) (bits 8 0 p))
  | 0xd => .ok (.shri h (bits 5 13 p) (bits 5 8 p) (bits 8 0 p))
  | 0xe => .ok (.sari h (bits 5 13 p) (bits 5 8 p) (bits 8 0 p))
  | 0xf => .ok (.cmpeqi h (bits 4 13 p) (bits 5 8 p) (bits 8 0 p))
  | 0x10 => .ok (.cmplti h (bits 4 13 p) (bits 5 8 p) (bits 8 0 p))
  | 0x11 => .ok (.cmpltui h (bits 4 13 p) (bits 5 8 p) (bits 8 0 p))
  | 0x12 => .ok (.ldi h (bits 5 13 p) (bits 13 0 p))
  | 0x13 => .ok (.lds h (bits 5 13 p) (bits 5 8 p) (bits 3 5 p) (bits 5 0 p))
  | 0x14 => .ok (.sts h (bits 5 13 p) (bits 5 8 p) (bits 3 5 p) (bits 5 0 p))
  | 0x15 =>
    match p / 1 % 8 with
    | 0 => .ok (.pand h (bits 4 13 p) (bits 4 8 p) (bits 4 3 p))
    | 1 => .ok (.por h (bits 4 13 p) (bits 4 8 p) (bits 4 3 p))
    | 2 => .ok (.pxor h (bits 4 13 p) (bits 4 8 p) (bits 4 3 p))
    | 3 => .ok (.pandn h (bits 4 13 p) (bits 4 8 p) (bits 4 3 p))
    | 4 => .ok (.pnot h (bits 4 13 p) (bits 4 8 p))
    | 5 => .ok (.pset h (bits 4 13 p))
    | 6 => .ok (.pclr h (bits 4 13 p))
    | 7 => .ok (.pfrom h (bits 4 13 p) (bits 5 8 p))
    | _ => .error .badSelector
  | 0x16 =>
    match p / 1 % 8 with
    | 0 => .ok (.pcnt h (bits 5 13 p) (bits 4 8 p))
    | 1 => .ok (.pfirst h (bits 5 13 p) (bits 4 8 p))
    | _ => .error .badSelector
  | 0x18 => .ok (.br h (bits 18 0 p))
  | 0x19 => .ok (.call h (bits 18 0 p))
  | 0x1a => .ok (.bri h (bits 5 8 p))
  | 0x1b => .ok (.calli h (bits 5 8 p))
  | 0x1c => .ok (.ret h)
  | 0x1d => .ok (.lset h (bits 2 13 p) (bits 5 8 p))
  | 0x1e => .ok (.lseti h (bits 2 13 p) (bits 13 0 p))
  | 0x1f => .ok (.ltset h (bits 13 0 p))
  | 0x20 => .ok (.loopf h (bits 2 16 p) (bits 16 0 p))
  | 0x21 => .ok (.loop h (bits 2 16 p) (bits 16 0 p))
  | 0x22 =>
    match p / 1 % 8 with
    | 0 => .ok (.movlrRead h (bits 5 13 p))
    | 1 => .ok (.movlrWrite h (bits 5 8 p))
    | _ => .error .badSelector
  | _ => .error .unassigned

/-- The V slot map (R66). -/
def rawV (un : VUnit) (op : Nat) (h : Hdr) (p : Nat) : Except Reject Instr :=
  match op with
  | 0x1 => .ok (.vadd un h (bits 5 13 p) (bits 5 8 p) (bits 5 3 p) (bits 3 0 p))
  | 0x2 => .ok (.vsub un h (bits 5 13 p) (bits 5 8 p) (bits 5 3 p) (bits 3 0 p))
  | 0x3 => .ok (.vmul un h (bits 5 13 p) (bits 5 8 p) (bits 5 3 p) (bits 3 0 p))
  | 0x4 => .ok (.vmulhs un h (bits 5 13 p) (bits 5 8 p) (bits 5 3 p) (bits 3 0 p))
  | 0x5 => .ok (.vmulhu un h (bits 5 13 p) (bits 5 8 p) (bits 5 3 p) (bits 3 0 p))
  | 0x6 => .ok (.vand un h (bits 5 13 p) (bits 5 8 p) (bits 5 3 p) (bits 3 0 p))
  | 0x7 => .ok (.vor un h (bits 5 13 p) (bits 5 8 p) (bits 5 3 p) (bits 3 0 p))
  | 0x8 => .ok (.vxor un h (bits 5 13 p) (bits 5 8 p) (bits 5 3 p) (bits 3 0 p))
  | 0x9 => .ok (.vshl un h (bits 5 13 p) (bits 5 8 p) (bits 5 3 p) (bits 3 0 p))
  | 0xa => .ok (.vshr un h (bits 5 13 p) (bits 5 8 p) (bits 5 3 p) (bits 3 0 p))
  | 0xb => .ok (.vsar un h (bits 5 13 p) (bits 5 8 p) (bits 5 3 p) (bits 3 0 p))
  | 0xc => .ok (.vmins un h (bits 5 13 p) (bits 5 8 p) (bits 5 3 p) (bits 3 0 p))
  | 0xd => .ok (.vmaxs un h (bits 5 13 p) (bits 5 8 p) (bits 5 3 p) (bits 3 0 p))
  | 0xe => .ok (.vminu un h (bits 5 13 p) (bits 5 8 p) (bits 5 3 p) (bits 3 0 p))
  | 0xf => .ok (.vmaxu un h (bits 5 13 p) (bits 5 8 p) (bits 5 3 p) (bits 3 0 p))
  | 0x10 => .ok (.vabs un h (bits 5 13 p) (bits 5 8 p) (bits 3 0 p))
  | 0x11 => .ok (.vld un h (bits 5 13 p) (bits 5 8 p) (bits 5 3 p) (bits 3 0 p))
  | 0x12 => .ok (.vcmpeq un h (bits 4 13 p) (bits 5 8 p) (bits 5 3 p) (bits 3 0 p))
  | 0x13 => .ok (.vcmplts un h (bits 4 13 p) (bits 5 8 p) (bits 5 3 p) (bits 3 0 p))
  | 0x14 => .ok (.vcmpltu un h (bits 4 13 p) (bits 5 8 p) (bits 5 3 p) (bits 3 0 p))
  | 0x15 => .ok (.vcmples un h (bits 4 13 p) (bits 5 8 p) (bits 5 3 p) (bits 3 0 p))
  | 0x16 => .ok (.vsplat un h (bits 5 13 p) (bits 5 8 p) (bits 3 0 p))
  | 0x17 => .ok (.vext un h (bits 5 13 p) (bits 5 8 p) (bits 5 3 p) (bits 3 0 p))
  | 0x18 => .ok (.vfadd un h (bits 5 13 p) (bits 5 8 p) (bits 5 3 p) (bits 3 0 p))
  | 0x19 => .ok (.vfsub un h (bits 5 13 p) (bits 5 8 p) (bits 5 3 p) (bits 3 0 p))
  | 0x1a => .ok (.vfmul un h (bits 5 13 p) (bits 5 8 p) (bits 5 3 p) (bits 3 0 p))
  | 0x1b => .ok (.vfma un h (bits 5 13 p) (bits 5 8 p) (bits 5 3 p) (bits 3 0 p))
  | 0x1c => .ok (.vfms un h (bits 5 13 p) (bits 5 8 p) (bits 5 3 p) (bits 3 0 p))
  | 0x1d => .ok (.vfnma un h (bits 5 13 p) (bits 5 8 p) (bits 5 3 p) (bits 3 0 p))
  | 0x1e => .ok (.vfnms un h (bits 5 13 p) (bits 5 8 p) (bits 5 3 p) (bits 3 0 p))
  | 0x1f => .ok (.vfmin un h (bits 5 13 p) (bits 5 8 p) (bits 5 3 p) (bits 3 0 p))
  | 0x20 => .ok (.vfmax un h (bits 5 13 p) (bits 5 8 p) (bits 5 3 p) (bits 3 0 p))
  | 0x21 => .ok (.vfabs un h (bits 5 13 p) (bits 5 8 p) (bits 3 0 p))
  | 0x22 => .ok (.vfneg un h (bits 5 13 p) (bits 5 8 p) (bits 3 0 p))
  | 0x23 => .ok (.vfcmpeq un h (bits 4 13 p) (bits 5 8 p) (bits 5 3 p) (bits 3 0 p))
  | 0x24 => .ok (.vfcmplt un h (bits 4 13 p) (bits 5 8 p) (bits 5 3 p) (bits 3 0 p))
  | 0x25 => .ok (.vfcmple un h (bits 4 13 p) (bits 5 8 p) (bits 5 3 p) (bits 3 0 p))
  | 0x26 => .ok (.vfclass un h (bits 5 13 p) (bits 5 8 p) (bits 3 0 p))
  | 0x27 => .ok (.viota un h (bits 5 13 p) (bits 3 0 p))
  | 0x28 => .ok (.vcvt un h (bits 5 13 p) (bits 5 8 p) (bits 4 4 p) (bits 4 0 p))
  | 0x29 => .ok (.vcvts un h (bits 5 13 p) (bits 5 8 p) (bits 4 4 p) (bits 4 0 p))
  | 0x2a => .ok (.vpack un h (bits 5 13 p) (bits 5 8 p) (bits 5 3 p) (bits 3 0 p))
  | 0x2b => .ok (.vunpkl un h (bits 5 13 p) (bits 5 8 p) (bits 3 0 p))
  | 0x2c => .ok (.vunpkh un h (bits 5 13 p) (bits 5 8 p) (bits 3 0 p))
  | 0x2d => .ok (.vqnf un h (bits 5 13 p) (bits 5 8 p) (bits 5 3 p) (bits 3 0 p))
  | 0x2e => .ok (.vdqnf un h (bits 5 13 p) (bits 5 8 p) (bits 5 3 p) (bits 3 0 p))
  | 0x2f => .ok (.vhash un h (bits 5 13 p) (bits 5 8 p) (bits 5 3 p))
  | 0x30 => .ok (.vrcp un h (bits 5 13 p) (bits 5 8 p))
  | 0x31 => .ok (.vrsq un h (bits 5 13 p) (bits 5 8 p))
  | 0x32 => .ok (.vsqrt un h (bits 5 13 p) (bits 5 8 p) (bits 1 0 p))
  | 0x33 => .ok (.vdiv un h (bits 5 13 p) (bits 5 8 p) (bits 5 3 p) (bits 1 0 p))
  | 0x34 => .ok (.vexp2 un h (bits 5 13 p) (bits 5 8 p))
  | 0x35 => .ok (.vlog2 un h (bits 5 13 p) (bits 5 8 p))
  | 0x36 => .ok (.vsinpi un h (bits 5 13 p) (bits 5 8 p))
  | 0x37 => .ok (.vcospi un h (bits 5 13 p) (bits 5 8 p))
  | 0x38 => .ok (.vtanh un h (bits 5 13 p) (bits 5 8 p))
  | 0x39 => .ok (.vrsum un h (bits 5 13 p) (bits 5 8 p) (bits 3 0 p))
  | 0x3a => .ok (.vrmax un h (bits 5 13 p) (bits 5 8 p) (bits 3 0 p))
  | 0x3b => .ok (.vrmin un h (bits 5 13 p) (bits 5 8 p) (bits 3 0 p))
  | 0x3c => .ok (.vramax un h (bits 5 13 p) (bits 5 8 p) (bits 3 0 p))
  | 0x3d => .ok (.vperm un h (bits 5 13 p) (bits 5 8 p) (bits 5 3 p) (bits 1 0 p))
  | 0x3e => .ok (.vxcl un h (bits 5 13 p) (bits 5 8 p) (bits 5 3 p) (bits 1 0 p))
  | 0x3f => .ok (.vst un h (bits 5 13 p) (bits 5 8 p) (bits 5 3 p) (bits 3 0 p))
  | _ => .error .unassigned

/-- The M slot map (R68). -/
def rawM (op : Nat) (h : Hdr) (p : Nat) : Except Reject Instr :=
  match op with
  | 0x1 => .ok (.mcall h (bits 4 14 p) (bits 10 4 p) (bits 2 2 p) (bits 1 1 p))
  | 0x2 => .ok (.mset h (bits 3 13 p) (bits 5 8 p))
  | 0x3 => .ok (.mseti h (bits 3 13 p) (bits 13 0 p))
  | 0x4 => .ok (.mldr h (bits 5 13 p) (bits 5 8 p) (bits 5 3 p))
  | _ => .error .unassigned

/-- The C slot map (R69). -/
def rawC (un : CUnit) (op : Nat) (h : Hdr) (p : Nat) : Except Reject Instr :=
  match op with
  | 0x1 => .ok (.copy un h (bits 4 14 p) (bits 5 9 p) (bits 2 7 p) (bits 1 6 p) (bits 4 2 p) (bits 1 1 p))
  | 0x2 => .ok (.coll un h (bits 4 14 p) (bits 5 9 p) (bits 2 7 p) (bits 1 6 p) (bits 4 2 p) (bits 1 1 p))
  | 0x3 => .ok (.rstrp un h (bits 4 14 p) (bits 5 9 p) (bits 2 7 p) (bits 1 6 p) (bits 4 2 p) (bits 1 1 p))
  | 0x4 => .ok (.cryp un h (bits 4 14 p) (bits 5 9 p) (bits 2 7 p) (bits 1 6 p) (bits 4 2 p) (bits 1 1 p))
  | 0x5 => .ok (.kjoin un h (bits 4 14 p) (bits 5 9 p) (bits 2 7 p) (bits 1 6 p) (bits 4 2 p) (bits 1 1 p))
  | 0x6 => .ok (.kcancel un h (bits 4 8 p))
  | 0x7 => .ok (.kdetach un h (bits 4 8 p))
  | 0x8 => .ok (.kprio un h (bits 4 8 p) (bits 8 0 p))
  | 0x9 => .ok (.kstat un h (bits 5 13 p) (bits 4 8 p) (bits 2 0 p))
  | 0xa => .ok (.kack un h (bits 4 8 p))
  | 0x10 => .ok (.ldr un h (bits 5 13 p) (bits 5 8 p) (bits 3 5 p) (bits 5 0 p))
  | 0x11 => .ok (.str un h (bits 5 13 p) (bits 5 8 p) (bits 3 5 p) (bits 5 0 p))
  | 0x12 => .ok (.vldr un h (bits 5 13 p) (bits 5 8 p) (bits 5 3 p) (bits 3 0 p))
  | 0x13 => .ok (.vstr un h (bits 5 13 p) (bits 5 8 p) (bits 5 3 p) (bits 3 0 p))
  | 0x14 => .ok (.amow un h (bits 5 13 p) (bits 5 8 p) (bits 5 3 p) (bits 3 0 p))
  | 0x15 => .ok (.amod un h (bits 5 13 p) (bits 5 8 p) (bits 5 3 p) (bits 3 0 p))
  | 0x16 => .ok (.cas un h (bits 5 13 p) (bits 5 8 p) (bits 5 3 p) (bits 1 0 p))
  | 0x17 => .ok (.famo un h (bits 5 13 p) (bits 5 8 p) (bits 5 3 p) (bits 3 0 p))
  | 0x18 => .ok (.lda un h (bits 5 13 p) (bits 5 8 p) (bits 3 5 p) (bits 5 0 p))
  | 0x19 => .ok (.strl un h (bits 5 13 p) (bits 5 8 p) (bits 3 5 p) (bits 5 0 p))
  | _ => .error .unassigned

/-- The X slot map (R70). -/
def rawX (op : Nat) (h : Hdr) (p : Nat) : Except Reject Instr :=
  match op with
  | 0x1 => .ok (.flip h)
  | 0x2 => .ok (.fence h (bits 3 5 p) (bits 5 0 p))
  | 0x3 => .ok (.kwait h (bits 4 8 p) (bits 8 0 p))
  | 0x4 => .ok (.kwaitch h (bits 5 8 p) (bits 3 0 p))
  | 0x5 => .ok (.hwaitf h (bits 5 8 p) (bits 5 0 p))
  | 0x6 => .ok (.hwaite h (bits 5 8 p) (bits 5 0 p))
  | 0x7 => .ok (.hadvr h (bits 5 8 p) (bits 5 0 p))
  | 0x8 => .ok (.hadvw h (bits 5 8 p) (bits 5 0 p))
  | 0x9 => .ok (.hexpect h (bits 5 8 p) (bits 5 0 p))
  | 0xa => .ok (.hptr h (bits 5 13 p) (bits 1 5 p) (bits 5 0 p))
  | 0xb => .ok (.bar h (bits 3 0 p))
  | 0xc => .ok (.xlat h (bits 5 8 p) (bits 6 0 p))
  | 0xd => .ok (.xmov h (bits 5 13 p) (bits 2 0 p))
  | 0xe => .ok (.srd h (bits 5 13 p) (bits 10 0 p))
  | 0xf => .ok (.swr h (bits 5 13 p) (bits 10 0 p))
  | 0x10 => .ok (.trap h (bits 13 0 p))
  | 0x11 => .ok (.rett h)
  | 0x12 => .ok (.hwin h (bits 5 8 p))
  | 0x13 => .ok (.segb h)
  | 0x14 => .ok (.sege h (bits 5 8 p) (bits 5 3 p))
  | 0x15 => .ok (.iinv h (bits 3 0 p))
  | 0x16 =>
    match p / 128 % 2 with
    | 0 => .ok (.xregRd h (bits 5 13 p) (bits 5 8 p) (bits 1 6 p) (bits 1 5 p) (bits 3 2 p))
    | 1 => .ok (.xregWr h (bits 5 13 p) (bits 5 8 p) (bits 1 6 p) (bits 1 5 p) (bits 3 2 p))
    | _ => .error .badSelector
  | 0x17 => .ok (.saveph h (bits 5 8 p) (bits 1 0 p))
  | 0x18 => .ok (.loadph h (bits 5 8 p) (bits 1 0 p))
  | 0x19 => .ok (.wait h (bits 5 8 p) (bits 5 3 p) (bits 3 0 p))
  | 0x1a => .ok (.signal h (bits 5 8 p) (bits 5 3 p) (bits 3 0 p))
  | 0x1b => .ok (.pairset h (bits 5 8 p) (bits 5 3 p) (bits 3 0 p))
  | 0x1c => .ok (.bkpt h (bits 13 0 p))
  | 0x1d => .ok (.halt h)
  | _ => .error .unassigned

/-- The P slot map (R72 to R76). -/
def rawP (op p : Nat) : Except Reject Instr :=
  match op with
  | 0x1 => .ok (.pfx (bits 3 23 p) (bits 3 20 p) (bits 1 19 p) (bits 1 18 p) (bits 5 13 p) (bits 2 11 p))
  | 0x2 => .ok (.imx (bits 3 23 p) (bits 23 0 p))
  | 0x3 => .ok (.mark (bits 20 6 p) (bits 6 0 p))
  | _ => .error .unassigned

/-- The word of a slot instruction; 0 for an instruction that has no slot word. -/
def encodeWord : Instr → Word32
  | .nop => 0
  | .add h d a b => slotWord 0x1 h (d.toNat * 8192 + a.toNat * 256 + b.toNat * 8)
  | .sub h d a b => slotWord 0x1 h (d.toNat * 8192 + a.toNat * 256 + b.toNat * 8 + 1)
  | .and h d a b => slotWord 0x1 h (d.toNat * 8192 + a.toNat * 256 + b.toNat * 8 + 2)
  | .or h d a b => slotWord 0x1 h (d.toNat * 8192 + a.toNat * 256 + b.toNat * 8 + 3)
  | .xor h d a b => slotWord 0x1 h (d.toNat * 8192 + a.toNat * 256 + b.toNat * 8 + 4)
  | .andn h d a b => slotWord 0x1 h (d.toNat * 8192 + a.toNat * 256 + b.toNat * 8 + 5)
  | .shl h d a b => slotWord 0x1 h (d.toNat * 8192 + a.toNat * 256 + b.toNat * 8 + 6)
  | .shr h d a b => slotWord 0x1 h (d.toNat * 8192 + a.toNat * 256 + b.toNat * 8 + 7)
  | .sar h d a b => slotWord 0x2 h (d.toNat * 8192 + a.toNat * 256 + b.toNat * 8)
  | .rol h d a b => slotWord 0x2 h (d.toNat * 8192 + a.toNat * 256 + b.toNat * 8 + 1)
  | .mins h d a b => slotWord 0x2 h (d.toNat * 8192 + a.toNat * 256 + b.toNat * 8 + 2)
  | .maxs h d a b => slotWord 0x2 h (d.toNat * 8192 + a.toNat * 256 + b.toNat * 8 + 3)
  | .minu h d a b => slotWord 0x2 h (d.toNat * 8192 + a.toNat * 256 + b.toNat * 8 + 4)
  | .maxu h d a b => slotWord 0x2 h (d.toNat * 8192 + a.toNat * 256 + b.toNat * 8 + 5)
  | .mul h d a b => slotWord 0x3 h (d.toNat * 8192 + a.toNat * 256 + b.toNat * 8)
  | .mulhs h d a b => slotWord 0x3 h (d.toNat * 8192 + a.toNat * 256 + b.toNat * 8 + 1)
  | .mulhu h d a b => slotWord 0x3 h (d.toNat * 8192 + a.toNat * 256 + b.toNat * 8 + 2)
  | .divs h d a b => slotWord 0x3 h (d.toNat * 8192 + a.toNat * 256 + b.toNat * 8 + 3)
  | .divu h d a b => slotWord 0x3 h (d.toNat * 8192 + a.toNat * 256 + b.toNat * 8 + 4)
  | .rems h d a b => slotWord 0x3 h (d.toNat * 8192 + a.toNat * 256 + b.toNat * 8 + 5)
  | .remu h d a b => slotWord 0x3 h (d.toNat * 8192 + a.toNat * 256 + b.toNat * 8 + 6)
  | .mov h d a => slotWord 0x4 h (d.toNat * 8192 + a.toNat * 256)
  | .clz h d a => slotWord 0x4 h (d.toNat * 8192 + a.toNat * 256 + 8)
  | .ctz h d a => slotWord 0x4 h (d.toNat * 8192 + a.toNat * 256 + 16)
  | .popc h d a => slotWord 0x4 h (d.toNat * 8192 + a.toNat * 256 + 24)
  | .brev h d a => slotWord 0x4 h (d.toNat * 8192 + a.toNat * 256 + 32)
  | .sextb h d a => slotWord 0x4 h (d.toNat * 8192 + a.toNat * 256 + 40)
  | .sexth h d a => slotWord 0x4 h (d.toNat * 8192 + a.toNat * 256 + 48)
  | .sextw h d a => slotWord 0x4 h (d.toNat * 8192 + a.toNat * 256 + 56)
  | .zextb h d a => slotWord 0x4 h (d.toNat * 8192 + a.toNat * 256 + 64)
  | .zexth h d a => slotWord 0x4 h (d.toNat * 8192 + a.toNat * 256 + 72)
  | .zextw h d a => slotWord 0x4 h (d.toNat * 8192 + a.toNat * 256 + 80)
  | .lea h d a b s => slotWord 0x5 h (d.toNat * 8192 + a.toNat * 256 + b.toNat * 8 + s.toNat)
  | .cmpEq h d a b => slotWord 0x6 h (d.toNat * 8192 + a.toNat * 256 + b.toNat * 8)
  | .cmpNe h d a b => slotWord 0x6 h (d.toNat * 8192 + a.toNat * 256 + b.toNat * 8 + 1)
  | .cmpLts h d a b => slotWord 0x6 h (d.toNat * 8192 + a.toNat * 256 + b.toNat * 8 + 2)
  | .cmpLtu h d a b => slotWord 0x6 h (d.toNat * 8192 + a.toNat * 256 + b.toNat * 8 + 3)
  | .cmpLes h d a b => slotWord 0x6 h (d.toNat * 8192 + a.toNat * 256 + b.toNat * 8 + 4)
  | .cmpLeu h d a b => slotWord 0x6 h (d.toNat * 8192 + a.toNat * 256 + b.toNat * 8 + 5)
  | .addi h d a i => slotWord 0x8 h (d.toNat * 8192 + a.toNat * 256 + i.toNat)
  | .andi h d a i => slotWord 0x9 h (d.toNat * 8192 + a.toNat * 256 + i.toNat)
  | .ori h d a i => slotWord 0xa h (d.toNat * 8192 + a.toNat * 256 + i.toNat)
  | .xori h d a i => slotWord 0xb h (d.toNat * 8192 + a.toNat * 256 + i.toNat)
  | .shli h d a i => slotWord 0xc h (d.toNat * 8192 + a.toNat * 256 + i.toNat)
  | .shri h d a i => slotWord 0xd h (d.toNat * 8192 + a.toNat * 256 + i.toNat)
  | .sari h d a i => slotWord 0xe h (d.toNat * 8192 + a.toNat * 256 + i.toNat)
  | .cmpeqi h d a i => slotWord 0xf h (d.toNat * 8192 + a.toNat * 256 + i.toNat)
  | .cmplti h d a i => slotWord 0x10 h (d.toNat * 8192 + a.toNat * 256 + i.toNat)
  | .cmpltui h d a i => slotWord 0x11 h (d.toNat * 8192 + a.toNat * 256 + i.toNat)
  | .ldi h d i => slotWord 0x12 h (d.toNat * 8192 + i.toNat)
  | .lds h t a w o => slotWord 0x13 h (t.toNat * 8192 + a.toNat * 256 + w.toNat * 32 + o.toNat)
  | .sts h t a w o => slotWord 0x14 h (t.toNat * 8192 + a.toNat * 256 + w.toNat * 32 + o.toNat)
  | .pand h d a b => slotWord 0x15 h (d.toNat * 8192 + a.toNat * 256 + b.toNat * 8)
  | .por h d a b => slotWord 0x15 h (d.toNat * 8192 + a.toNat * 256 + b.toNat * 8 + 1)
  | .pxor h d a b => slotWord 0x15 h (d.toNat * 8192 + a.toNat * 256 + b.toNat * 8 + 2)
  | .pandn h d a b => slotWord 0x15 h (d.toNat * 8192 + a.toNat * 256 + b.toNat * 8 + 3)
  | .pnot h d a => slotWord 0x15 h (d.toNat * 8192 + a.toNat * 256 + 4)
  | .pset h d => slotWord 0x15 h (d.toNat * 8192 + 5)
  | .pclr h d => slotWord 0x15 h (d.toNat * 8192 + 6)
  | .pfrom h d a => slotWord 0x15 h (d.toNat * 8192 + a.toNat * 256 + 7)
  | .pcnt h d a => slotWord 0x16 h (d.toNat * 8192 + a.toNat * 256)
  | .pfirst h d a => slotWord 0x16 h (d.toNat * 8192 + a.toNat * 256 + 1)
  | .br h o => slotWord 0x18 h (o.toNat)
  | .call h o => slotWord 0x19 h (o.toNat)
  | .bri h a => slotWord 0x1a h (a.toNat * 256)
  | .calli h a => slotWord 0x1b h (a.toNat * 256)
  | .ret h => slotWord 0x1c h (0)
  | .lset h d a => slotWord 0x1d h (d.toNat * 8192 + a.toNat * 256)
  | .lseti h d i => slotWord 0x1e h (d.toNat * 8192 + i.toNat)
  | .ltset h i => slotWord 0x1f h (i.toNat)
  | .loopf h c o => slotWord 0x20 h (c.toNat * 65536 + o.toNat)
  | .loop h c o => slotWord 0x21 h (c.toNat * 65536 + o.toNat)
  | .movlrRead h d => slotWord 0x22 h (d.toNat * 8192)
  | .movlrWrite h a => slotWord 0x22 h (a.toNat * 256 + 1)
  | .vadd _ h d a b t => slotWord 0x1 h (d.toNat * 8192 + a.toNat * 256 + b.toNat * 8 + t.toNat)
  | .vsub _ h d a b t => slotWord 0x2 h (d.toNat * 8192 + a.toNat * 256 + b.toNat * 8 + t.toNat)
  | .vmul _ h d a b t => slotWord 0x3 h (d.toNat * 8192 + a.toNat * 256 + b.toNat * 8 + t.toNat)
  | .vmulhs _ h d a b t => slotWord 0x4 h (d.toNat * 8192 + a.toNat * 256 + b.toNat * 8 + t.toNat)
  | .vmulhu _ h d a b t => slotWord 0x5 h (d.toNat * 8192 + a.toNat * 256 + b.toNat * 8 + t.toNat)
  | .vand _ h d a b t => slotWord 0x6 h (d.toNat * 8192 + a.toNat * 256 + b.toNat * 8 + t.toNat)
  | .vor _ h d a b t => slotWord 0x7 h (d.toNat * 8192 + a.toNat * 256 + b.toNat * 8 + t.toNat)
  | .vxor _ h d a b t => slotWord 0x8 h (d.toNat * 8192 + a.toNat * 256 + b.toNat * 8 + t.toNat)
  | .vshl _ h d a b t => slotWord 0x9 h (d.toNat * 8192 + a.toNat * 256 + b.toNat * 8 + t.toNat)
  | .vshr _ h d a b t => slotWord 0xa h (d.toNat * 8192 + a.toNat * 256 + b.toNat * 8 + t.toNat)
  | .vsar _ h d a b t => slotWord 0xb h (d.toNat * 8192 + a.toNat * 256 + b.toNat * 8 + t.toNat)
  | .vmins _ h d a b t => slotWord 0xc h (d.toNat * 8192 + a.toNat * 256 + b.toNat * 8 + t.toNat)
  | .vmaxs _ h d a b t => slotWord 0xd h (d.toNat * 8192 + a.toNat * 256 + b.toNat * 8 + t.toNat)
  | .vminu _ h d a b t => slotWord 0xe h (d.toNat * 8192 + a.toNat * 256 + b.toNat * 8 + t.toNat)
  | .vmaxu _ h d a b t => slotWord 0xf h (d.toNat * 8192 + a.toNat * 256 + b.toNat * 8 + t.toNat)
  | .vabs _ h d a t => slotWord 0x10 h (d.toNat * 8192 + a.toNat * 256 + t.toNat)
  | .vld _ h t a b m => slotWord 0x11 h (t.toNat * 8192 + a.toNat * 256 + b.toNat * 8 + m.toNat)
  | .vcmpeq _ h d a b t => slotWord 0x12 h (d.toNat * 8192 + a.toNat * 256 + b.toNat * 8 + t.toNat)
  | .vcmplts _ h d a b t => slotWord 0x13 h (d.toNat * 8192 + a.toNat * 256 + b.toNat * 8 + t.toNat)
  | .vcmpltu _ h d a b t => slotWord 0x14 h (d.toNat * 8192 + a.toNat * 256 + b.toNat * 8 + t.toNat)
  | .vcmples _ h d a b t => slotWord 0x15 h (d.toNat * 8192 + a.toNat * 256 + b.toNat * 8 + t.toNat)
  | .vsplat _ h d a t => slotWord 0x16 h (d.toNat * 8192 + a.toNat * 256 + t.toNat)
  | .vext _ h d a b t => slotWord 0x17 h (d.toNat * 8192 + a.toNat * 256 + b.toNat * 8 + t.toNat)
  | .vfadd _ h d a b t => slotWord 0x18 h (d.toNat * 8192 + a.toNat * 256 + b.toNat * 8 + t.toNat)
  | .vfsub _ h d a b t => slotWord 0x19 h (d.toNat * 8192 + a.toNat * 256 + b.toNat * 8 + t.toNat)
  | .vfmul _ h d a b t => slotWord 0x1a h (d.toNat * 8192 + a.toNat * 256 + b.toNat * 8 + t.toNat)
  | .vfma _ h d a b t => slotWord 0x1b h (d.toNat * 8192 + a.toNat * 256 + b.toNat * 8 + t.toNat)
  | .vfms _ h d a b t => slotWord 0x1c h (d.toNat * 8192 + a.toNat * 256 + b.toNat * 8 + t.toNat)
  | .vfnma _ h d a b t => slotWord 0x1d h (d.toNat * 8192 + a.toNat * 256 + b.toNat * 8 + t.toNat)
  | .vfnms _ h d a b t => slotWord 0x1e h (d.toNat * 8192 + a.toNat * 256 + b.toNat * 8 + t.toNat)
  | .vfmin _ h d a b t => slotWord 0x1f h (d.toNat * 8192 + a.toNat * 256 + b.toNat * 8 + t.toNat)
  | .vfmax _ h d a b t => slotWord 0x20 h (d.toNat * 8192 + a.toNat * 256 + b.toNat * 8 + t.toNat)
  | .vfabs _ h d a t => slotWord 0x21 h (d.toNat * 8192 + a.toNat * 256 + t.toNat)
  | .vfneg _ h d a t => slotWord 0x22 h (d.toNat * 8192 + a.toNat * 256 + t.toNat)
  | .vfcmpeq _ h d a b t => slotWord 0x23 h (d.toNat * 8192 + a.toNat * 256 + b.toNat * 8 + t.toNat)
  | .vfcmplt _ h d a b t => slotWord 0x24 h (d.toNat * 8192 + a.toNat * 256 + b.toNat * 8 + t.toNat)
  | .vfcmple _ h d a b t => slotWord 0x25 h (d.toNat * 8192 + a.toNat * 256 + b.toNat * 8 + t.toNat)
  | .vfclass _ h d a t => slotWord 0x26 h (d.toNat * 8192 + a.toNat * 256 + t.toNat)
  | .viota _ h d t => slotWord 0x27 h (d.toNat * 8192 + t.toNat)
  | .vcvt _ h d a t f => slotWord 0x28 h (d.toNat * 8192 + a.toNat * 256 + t.toNat * 16 + f.toNat)
  | .vcvts _ h d a t f => slotWord 0x29 h (d.toNat * 8192 + a.toNat * 256 + t.toNat * 16 + f.toNat)
  | .vpack _ h d a b t => slotWord 0x2a h (d.toNat * 8192 + a.toNat * 256 + b.toNat * 8 + t.toNat)
  | .vunpkl _ h d a t => slotWord 0x2b h (d.toNat * 8192 + a.toNat * 256 + t.toNat)
  | .vunpkh _ h d a t => slotWord 0x2c h (d.toNat * 8192 + a.toNat * 256 + t.toNat)
  | .vqnf _ h d a b t => slotWord 0x2d h (d.toNat * 8192 + a.toNat * 256 + b.toNat * 8 + t.toNat)
  | .vdqnf _ h d a b t => slotWord 0x2e h (d.toNat * 8192 + a.toNat * 256 + b.toNat * 8 + t.toNat)
  | .vhash _ h d a b => slotWord 0x2f h (d.toNat * 8192 + a.toNat * 256 + b.toNat * 8)
  | .vrcp _ h d a => slotWord 0x30 h (d.toNat * 8192 + a.toNat * 256 + 6)
  | .vrsq _ h d a => slotWord 0x31 h (d.toNat * 8192 + a.toNat * 256 + 6)
  | .vsqrt _ h d a t => slotWord 0x32 h (d.toNat * 8192 + a.toNat * 256 + t.toNat + 6)
  | .vdiv _ h d a b t => slotWord 0x33 h (d.toNat * 8192 + a.toNat * 256 + b.toNat * 8 + t.toNat + 6)
  | .vexp2 _ h d a => slotWord 0x34 h (d.toNat * 8192 + a.toNat * 256 + 6)
  | .vlog2 _ h d a => slotWord 0x35 h (d.toNat * 8192 + a.toNat * 256 + 6)
  | .vsinpi _ h d a => slotWord 0x36 h (d.toNat * 8192 + a.toNat * 256 + 6)
  | .vcospi _ h d a => slotWord 0x37 h (d.toNat * 8192 + a.toNat * 256 + 6)
  | .vtanh _ h d a => slotWord 0x38 h (d.toNat * 8192 + a.toNat * 256 + 6)
  | .vrsum _ h d a t => slotWord 0x39 h (d.toNat * 8192 + a.toNat * 256 + t.toNat)
  | .vrmax _ h d a t => slotWord 0x3a h (d.toNat * 8192 + a.toNat * 256 + t.toNat)
  | .vrmin _ h d a t => slotWord 0x3b h (d.toNat * 8192 + a.toNat * 256 + t.toNat)
  | .vramax _ h d a t => slotWord 0x3c h (d.toNat * 8192 + a.toNat * 256 + t.toNat)
  | .vperm _ h d a b f => slotWord 0x3d h (d.toNat * 8192 + a.toNat * 256 + b.toNat * 8 + f.toNat + 2)
  | .vxcl _ h d a b f => slotWord 0x3e h (d.toNat * 8192 + a.toNat * 256 + b.toNat * 8 + f.toNat + 2)
  | .vst _ h t a b m => slotWord 0x3f h (t.toNat * 8192 + a.toNat * 256 + b.toNat * 8 + m.toNat)
  | .mcall h k i p d => slotWord 0x1 h (k.toNat * 16384 + i.toNat * 16 + p.toNat * 4 + d.toNat * 2)
  | .mset h d a => slotWord 0x2 h (d.toNat * 8192 + a.toNat * 256)
  | .mseti h d i => slotWord 0x3 h (d.toNat * 8192 + i.toNat)
  | .mldr h d a b => slotWord 0x4 h (d.toNat * 8192 + a.toNat * 256 + b.toNat * 8)
  | .copy _ h k a p d q c => slotWord 0x1 h (k.toNat * 16384 + a.toNat * 512 + p.toNat * 128 + d.toNat * 64 + q.toNat * 4 + c.toNat * 2)
  | .coll _ h k a p d q c => slotWord 0x2 h (k.toNat * 16384 + a.toNat * 512 + p.toNat * 128 + d.toNat * 64 + q.toNat * 4 + c.toNat * 2)
  | .rstrp _ h k a p d q c => slotWord 0x3 h (k.toNat * 16384 + a.toNat * 512 + p.toNat * 128 + d.toNat * 64 + q.toNat * 4 + c.toNat * 2)
  | .cryp _ h k a p d q c => slotWord 0x4 h (k.toNat * 16384 + a.toNat * 512 + p.toNat * 128 + d.toNat * 64 + q.toNat * 4 + c.toNat * 2)
  | .kjoin _ h k a p d q c => slotWord 0x5 h (k.toNat * 16384 + a.toNat * 512 + p.toNat * 128 + d.toNat * 64 + q.toNat * 4 + c.toNat * 2)
  | .kcancel _ h a => slotWord 0x6 h (a.toNat * 256)
  | .kdetach _ h a => slotWord 0x7 h (a.toNat * 256)
  | .kprio _ h a i => slotWord 0x8 h (a.toNat * 256 + i.toNat)
  | .kstat _ h d a f => slotWord 0x9 h (d.toNat * 8192 + a.toNat * 256 + f.toNat)
  | .kack _ h a => slotWord 0xa h (a.toNat * 256)
  | .ldr _ h t a w o => slotWord 0x10 h (t.toNat * 8192 + a.toNat * 256 + w.toNat * 32 + o.toNat)
  | .str _ h t a w o => slotWord 0x11 h (t.toNat * 8192 + a.toNat * 256 + w.toNat * 32 + o.toNat)
  | .vldr _ h t a b m => slotWord 0x12 h (t.toNat * 8192 + a.toNat * 256 + b.toNat * 8 + m.toNat)
  | .vstr _ h t a b m => slotWord 0x13 h (t.toNat * 8192 + a.toNat * 256 + b.toNat * 8 + m.toNat)
  | .amow _ h d a b f => slotWord 0x14 h (d.toNat * 8192 + a.toNat * 256 + b.toNat * 8 + f.toNat)
  | .amod _ h d a b f => slotWord 0x15 h (d.toNat * 8192 + a.toNat * 256 + b.toNat * 8 + f.toNat)
  | .cas _ h d a b f => slotWord 0x16 h (d.toNat * 8192 + a.toNat * 256 + b.toNat * 8 + f.toNat)
  | .famo _ h d a b f => slotWord 0x17 h (d.toNat * 8192 + a.toNat * 256 + b.toNat * 8 + f.toNat)
  | .lda _ h t a s o => slotWord 0x18 h (t.toNat * 8192 + a.toNat * 256 + s.toNat * 32 + o.toNat)
  | .strl _ h t a s o => slotWord 0x19 h (t.toNat * 8192 + a.toNat * 256 + s.toNat * 32 + o.toNat)
  | .flip h => slotWord 0x1 h (0)
  | .fence h s m => slotWord 0x2 h (s.toNat * 32 + m.toNat)
  | .kwait h a i => slotWord 0x3 h (a.toNat * 256 + i.toNat)
  | .kwaitch h a c => slotWord 0x4 h (a.toNat * 256 + c.toNat)
  | .hwaitf h a j => slotWord 0x5 h (a.toNat * 256 + j.toNat)
  | .hwaite h a j => slotWord 0x6 h (a.toNat * 256 + j.toNat)
  | .hadvr h a j => slotWord 0x7 h (a.toNat * 256 + j.toNat)
  | .hadvw h a j => slotWord 0x8 h (a.toNat * 256 + j.toNat)
  | .hexpect h a j => slotWord 0x9 h (a.toNat * 256 + j.toNat)
  | .hptr h d w j => slotWord 0xa h (d.toNat * 8192 + w.toNat * 32 + j.toNat)
  | .bar h v => slotWord 0xb h (v.toNat)
  | .xlat h a s => slotWord 0xc h (a.toNat * 256 + s.toNat)
  | .xmov h d w => slotWord 0xd h (d.toNat * 8192 + w.toNat)
  | .srd h d i => slotWord 0xe h (d.toNat * 8192 + i.toNat)
  | .swr h d i => slotWord 0xf h (d.toNat * 8192 + i.toNat)
  | .trap h i => slotWord 0x10 h (i.toNat)
  | .rett h => slotWord 0x11 h (0)
  | .hwin h a => slotWord 0x12 h (a.toNat * 256)
  | .segb h => slotWord 0x13 h (0)
  | .sege h a b => slotWord 0x14 h (a.toNat * 256 + b.toNat * 8)
  | .iinv h s => slotWord 0x15 h (s.toNat)
  | .xregRd h d a f c k => slotWord 0x16 h (d.toNat * 8192 + a.toNat * 256 + f.toNat * 64 + c.toNat * 32 + k.toNat * 4)
  | .xregWr h d a f c k => slotWord 0x16 h (d.toNat * 8192 + a.toNat * 256 + f.toNat * 64 + c.toNat * 32 + k.toNat * 4 + 128)
  | .saveph h a c => slotWord 0x17 h (a.toNat * 256 + c.toNat)
  | .loadph h a c => slotWord 0x18 h (a.toNat * 256 + c.toNat)
  | .wait h a b f => slotWord 0x19 h (a.toNat * 256 + b.toNat * 8 + f.toNat)
  | .signal h a b s => slotWord 0x1a h (a.toNat * 256 + b.toNat * 8 + s.toNat)
  | .pairset h a b r => slotWord 0x1b h (a.toNat * 256 + b.toNat * 8 + r.toNat)
  | .bkpt h i => slotWord 0x1c h (i.toNat)
  | .halt h => slotWord 0x1d h (0)
  | .pfx x y a b r w => prefixWord 0x1 (x.toNat * 8388608 + y.toNat * 1048576 + a.toNat * 524288 + b.toNat * 262144 + r.toNat * 8192 + w.toNat * 2048)
  | .imx s e => prefixWord 0x2 (s.toNat * 8388608 + e.toNat)
  | .mark c t => prefixWord 0x3 (c.toNat * 64 + t.toNat)
  | _ => 0

/-- The instruction a word names in a slot, before its fields are judged (R58 to R77). -/
def rawSlot (sl : Slot) (w : Word32) : Except Reject Instr :=
  if w = 0 then .ok .nop
  else match sl with
    | .s => rawS (opOf w) (hdrOf w) (payloadOf w)
    | .v0 => rawV .v0 (opOf w) (hdrOf w) (payloadOf w)
    | .v1 => rawV .v1 (opOf w) (hdrOf w) (payloadOf w)
    | .m => rawM (opOf w) (hdrOf w) (payloadOf w)
    | .c0 => rawC .c0 (opOf w) (hdrOf w) (payloadOf w)
    | .c1 => rawC .c1 (opOf w) (hdrOf w) (payloadOf w)
    | .x => rawX (opOf w) (hdrOf w) (payloadOf w)
    | .p => rawP (opOf w) (w.toNat % 67108864)

/-- The instruction a word is in a slot: well formed, and with every other bit zero (R62, R77). -/
def decodeSlot (sl : Slot) (w : Word32) : Except Reject Instr :=
  match rawSlot sl w with
  | .error e => .error e
  | .ok i => if i.wf && encodeWord i == w then .ok i else .error .badField

/-- A matrix micro-operation before its fields are judged (08 R193). -/
def rawUop (w : Word64) : Except Reject Instr :=
  match w.toNat / 1152921504606846976 with
  | 1 => .ok (.afet (bits 3 57 w.toNat) (bits 16 41 w.toNat) (bits 1 40 w.toNat) (bits 1 39 w.toNat))
  | 2 => .ok (.bsel (bits 3 57 w.toNat) (bits 8 49 w.toNat) (bits 8 41 w.toNat) (bits 8 33 w.toNat))
  | 3 => .ok (.macs (bits 6 54 w.toNat) (bits 6 48 w.toNat) (bits 1 47 w.toNat) (bits 1 46 w.toNat) (bits 7 39 w.toNat))
  | 4 => .ok (.accz (bits 6 54 w.toNat) (bits 6 48 w.toNat) (bits 1 47 w.toNat))
  | 5 => .ok (.accl (bits 6 54 w.toNat) (bits 6 48 w.toNat) (bits 1 47 w.toNat) (bits 3 44 w.toNat) (bits 1 43 w.toNat))
  | 6 => .ok (.drn (bits 6 54 w.toNat) (bits 6 48 w.toNat) (bits 1 47 w.toNat) (bits 2 45 w.toNat) (bits 3 42 w.toNat) (bits 1 41 w.toNat))
  | 7 =>
    match w.toNat / 70368744177664 % 2 with
    | 0 => .ok (.adptDown (bits 6 54 w.toNat) (bits 6 48 w.toNat) (bits 1 47 w.toNat) (bits 3 43 w.toNat) (bits 3 40 w.toNat) (bits 3 37 w.toNat))
    | 1 => .ok (.adptUp (bits 6 54 w.toNat) (bits 6 48 w.toNat) (bits 1 47 w.toNat) (bits 3 43 w.toNat) (bits 3 40 w.toNat) (bits 3 37 w.toNat))
    | _ => .error .badSelector
  | 8 =>
    match w.toNat / 70368744177664 % 2 with
    | 0 => .ok (.abftArm (bits 6 54 w.toNat) (bits 6 48 w.toNat) (bits 1 47 w.toNat))
    | 1 => .ok (.abftCheck (bits 6 54 w.toNat) (bits 6 48 w.toNat) (bits 1 47 w.toNat))
    | _ => .error .badSelector
  | 9 => .ok (.loopm (bits 2 58 w.toNat) (bits 1 57 w.toNat) (bits 3 54 w.toNat) (bits 14 40 w.toNat) (bits 14 26 w.toNat))
  | 10 => .ok (.padd (bits 3 57 w.toNat) (bits 1 56 w.toNat) (bits 3 53 w.toNat) (bits 32 21 w.toNat))
  | 11 => .ok .yld
  | 12 => .ok (.fmts (bits 4 56 w.toNat) (bits 4 52 w.toNat) (bits 4 48 w.toNat))
  | 13 =>
    match w.toNat / 288230376151711744 % 4 with
    | 0 => .ok (.hwtWaitf (bits 5 53 w.toNat) (bits 8 45 w.toNat))
    | 1 => .ok (.hwtAdvr (bits 5 53 w.toNat) (bits 8 45 w.toNat))
    | 2 => .ok (.hwtWaitb (bits 5 53 w.toNat))
    | _ => .error .badSelector
  | 14 => .ok .endOp
  | _ => .error .unassigned

/-- The routine-store word of a micro-operation; 0 for any other instruction (R193). -/
def encodeUop : Instr → Word64
  | .afet pa pitch ord swz => BitVec.ofNat 64 (1152921504606846976 + pa.toNat * 144115188075855872 + pitch.toNat * 2199023255552 + ord.toNat * 1099511627776 + swz.toNat * 549755813888)
  | .bsel pb rofs srow ssrow => BitVec.ofNat 64 (2305843009213693952 + pb.toNat * 144115188075855872 + rofs.toNat * 562949953421312 + srow.toNat * 2199023255552 + ssrow.toNat * 8589934592)
  | .macs nr frow wb adv kv => BitVec.ofNat 64 (3458764513820540928 + nr.toNat * 18014398509481984 + frow.toNat * 281474976710656 + wb.toNat * 140737488355328 + adv.toNat * 70368744177664 + kv.toNat * 549755813888)
  | .accz nr frow wb => BitVec.ofNat 64 (4611686018427387904 + nr.toNat * 18014398509481984 + frow.toNat * 281474976710656 + wb.toNat * 140737488355328)
  | .accl nr frow wb pa fx => BitVec.ofNat 64 (5764607523034234880 + nr.toNat * 18014398509481984 + frow.toNat * 281474976710656 + wb.toNat * 140737488355328 + pa.toNat * 17592186044416 + fx.toNat * 8796093022208)
  | .drn nr frow wb dst pa clr => BitVec.ofNat 64 (6917529027641081856 + nr.toNat * 18014398509481984 + frow.toNat * 281474976710656 + wb.toNat * 140737488355328 + dst.toNat * 35184372088832 + pa.toNat * 4398046511104 + clr.toNat * 2199023255552)
  | .adptDown nr frow wb pi pt pd => BitVec.ofNat 64 (8070450532247928832 + nr.toNat * 18014398509481984 + frow.toNat * 281474976710656 + wb.toNat * 140737488355328 + pi.toNat * 8796093022208 + pt.toNat * 1099511627776 + pd.toNat * 137438953472)
  | .adptUp nr frow wb pi pt pd => BitVec.ofNat 64 (8070450532247928832 + nr.toNat * 18014398509481984 + frow.toNat * 281474976710656 + wb.toNat * 140737488355328 + pi.toNat * 8796093022208 + pt.toNat * 1099511627776 + pd.toNat * 137438953472 + 70368744177664)
  | .abftArm nr frow wb => BitVec.ofNat 64 (9223372036854775808 + nr.toNat * 18014398509481984 + frow.toNat * 281474976710656 + wb.toNat * 140737488355328)
  | .abftCheck nr frow wb => BitVec.ofNat 64 (9223372036854775808 + nr.toNat * 18014398509481984 + frow.toNat * 281474976710656 + wb.toNat * 140737488355328 + 70368744177664)
  | .loopm lvl src pr cnt tgt => BitVec.ofNat 64 (10376293541461622784 + lvl.toNat * 288230376151711744 + src.toNat * 144115188075855872 + pr.toNat * 18014398509481984 + cnt.toNat * 1099511627776 + tgt.toNat * 67108864)
  | .padd pd src ps imm => BitVec.ofNat 64 (11529215046068469760 + pd.toNat * 144115188075855872 + src.toNat * 72057594037927936 + ps.toNat * 9007199254740992 + imm.toNat * 2097152)
  | .yld => BitVec.ofNat 64 (12682136550675316736)
  | .fmts mode af bf => BitVec.ofNat 64 (13835058055282163712 + mode.toNat * 72057594037927936 + af.toNat * 4503599627370496 + bf.toNat * 281474976710656)
  | .hwtWaitf hod n => BitVec.ofNat 64 (14987979559889010688 + hod.toNat * 9007199254740992 + n.toNat * 35184372088832)
  | .hwtAdvr hod n => BitVec.ofNat 64 (14987979559889010688 + hod.toNat * 9007199254740992 + n.toNat * 35184372088832 + 288230376151711744)
  | .hwtWaitb hod => BitVec.ofNat 64 (14987979559889010688 + hod.toNat * 9007199254740992 + 576460752303423488)
  | .endOp => BitVec.ofNat 64 (16140901064495857664)
  | _ => 0

/-- The micro-operation a routine-store word is (R193): well formed, every other bit zero. -/
def decodeUop (w : Word64) : Except Reject Instr :=
  match rawUop w with
  | .error e => .error e
  | .ok i => if i.wf && encodeUop i == w then .ok i else .error .badField

/-- The little-endian value of a list of bytes (00_scope.md R8). -/
def bytesToNat : List Byte → Nat
  | [] => 0
  | b :: bs => b.toNat + 256 * bytesToNat bs

/-- The `n` little-endian bytes of a value (00_scope.md R8). -/
def natToBytes : Nat → Nat → List Byte
  | 0, _ => []
  | n + 1, x => BitVec.ofNat 8 x :: natToBytes n (x / 256)

/-- The `n`-byte little-endian number at offset `o` of a record. -/
def leAt (bs : List Byte) (o n : Nat) : Nat := bytesToNat ((bs.drop o).take n)

/-- A host message's fields from its bytes: the 32-byte header of R417, then the payload. -/
def hostMsgOf (bs : List Byte) : HostMsg :=
  { ten := BitVec.ofNat 8 (leAt bs 1 1), len := BitVec.ofNat 16 (leAt bs 2 2), tag := BitVec.ofNat 32 (leAt bs 4 4),
    a0 := BitVec.ofNat 64 (leAt bs 8 8), a1 := BitVec.ofNat 64 (leAt bs 16 8), a2 := BitVec.ofNat 64 (leAt bs 24 8),
    data := bs.drop 32 }

/-- The instruction of a host message (R417). Its limits are judged by its meaning, which answers NACK 7. -/
def decodeMsg (bs : List Byte) : Except Reject Instr :=
  if bs.length < 32 then .error .badLength
  else
    let m := hostMsgOf bs
    match leAt bs 0 1 with
    | 0x01 => .ok (.mwrite m)
    | 0x02 => .ok (.mread m)
    | 0x03 => .ok (.ingress m)
    | 0x04 => .ok (.claim m)
    | 0x05 => if m.a1.getLsbD 0 then .ok (.deadlineExpire m) else .ok (.deadlineRaise m)
    | 0x06 => if m.a2.getLsbD 0 then .ok (.fanswerMapped m) else .ok (.fanswerNone m)
    | 0x07 => .ok (.dread m)
    | 0x08 => .ok (.fmap m)
    | _ => .error .unassigned

/-- The bytes of a host message of a TYPE (R417). -/
def msgBytes (type : Nat) (m : HostMsg) : List Byte :=
  natToBytes 1 type ++ natToBytes 1 m.ten.toNat ++ natToBytes 2 m.len.toNat ++ natToBytes 4 m.tag.toNat
    ++ natToBytes 8 m.a0.toNat ++ natToBytes 8 m.a1.toNat ++ natToBytes 8 m.a2.toNat ++ m.data

/-- A control command's fields from its bytes: the 16-byte header of R436, then the payload. -/
def hostCmdOf (bs : List Byte) : HostCmd :=
  { ten := BitVec.ofNat 8 (leAt bs 1 1), len := BitVec.ofNat 16 (leAt bs 2 2), tag := BitVec.ofNat 32 (leAt bs 4 4),
    rsv := BitVec.ofNat 64 (leAt bs 8 8), data := bs.drop 16 }

/-- The instruction of a control command (R436). Its limits are judged by its meaning, which answers MALFORMED. -/
def decodeCmd (bs : List Byte) : Except Reject Instr :=
  if bs.length < 16 then .error .badLength
  else
    let m := hostCmdOf bs
    match leAt bs 0 1 with
    | 0x10 => .ok (.fwload m)
    | 0x11 => .ok (.fwgo m)
    | 0x20 => .ok (.tenantSet m)
    | 0x21 => .ok (.tenantClr m)
    | 0x22 => .ok (.keyload m)
    | 0x23 => .ok (.keyfree m)
    | 0x30 => .ok (.unlockChal m)
    | 0x31 => .ok (.unlock m)
    | 0x40 => .ok (.quote m)
    | 0x41 => .ok (.extend m)
    | 0x50 => .ok (.lcsAdvance m)
    | 0x60 => .ok (.nodeset m)
    | _ => .error .unassigned

/-- The bytes of a control command (R436). -/
def cmdBytes (cmd : Nat) (m : HostCmd) : List Byte :=
  natToBytes 1 cmd ++ natToBytes 1 m.ten.toNat ++ natToBytes 2 m.len.toNat ++ natToBytes 4 m.tag.toNat
    ++ natToBytes 8 m.rsv.toNat ++ m.data

/-- Where an instruction's bits come from: a bundle slot, the routine store, the host's messages, the control
channel, or nowhere (an event of the part). -/
inductive Source where
  | slot (sl : Slot) | routine | message | command | event
deriving DecidableEq, Repr

/-- The slot a V instruction occupies. -/
def VUnit.slot : VUnit → Slot | .v0 => .v0 | .v1 => .v1

/-- The slot a C instruction occupies. -/
def CUnit.slot : CUnit → Slot | .c0 => .c0 | .c1 => .c1

/-- The source of each instruction's bits. -/
def Instr.source : Instr → Source
  | .nop => .slot .s
  | .add _ _ _ _ => .slot .s
  | .sub _ _ _ _ => .slot .s
  | .and _ _ _ _ => .slot .s
  | .or _ _ _ _ => .slot .s
  | .xor _ _ _ _ => .slot .s
  | .andn _ _ _ _ => .slot .s
  | .shl _ _ _ _ => .slot .s
  | .shr _ _ _ _ => .slot .s
  | .sar _ _ _ _ => .slot .s
  | .rol _ _ _ _ => .slot .s
  | .mins _ _ _ _ => .slot .s
  | .maxs _ _ _ _ => .slot .s
  | .minu _ _ _ _ => .slot .s
  | .maxu _ _ _ _ => .slot .s
  | .mul _ _ _ _ => .slot .s
  | .mulhs _ _ _ _ => .slot .s
  | .mulhu _ _ _ _ => .slot .s
  | .divs _ _ _ _ => .slot .s
  | .divu _ _ _ _ => .slot .s
  | .rems _ _ _ _ => .slot .s
  | .remu _ _ _ _ => .slot .s
  | .mov _ _ _ => .slot .s
  | .clz _ _ _ => .slot .s
  | .ctz _ _ _ => .slot .s
  | .popc _ _ _ => .slot .s
  | .brev _ _ _ => .slot .s
  | .sextb _ _ _ => .slot .s
  | .sexth _ _ _ => .slot .s
  | .sextw _ _ _ => .slot .s
  | .zextb _ _ _ => .slot .s
  | .zexth _ _ _ => .slot .s
  | .zextw _ _ _ => .slot .s
  | .lea _ _ _ _ _ => .slot .s
  | .cmpEq _ _ _ _ => .slot .s
  | .cmpNe _ _ _ _ => .slot .s
  | .cmpLts _ _ _ _ => .slot .s
  | .cmpLtu _ _ _ _ => .slot .s
  | .cmpLes _ _ _ _ => .slot .s
  | .cmpLeu _ _ _ _ => .slot .s
  | .addi _ _ _ _ => .slot .s
  | .andi _ _ _ _ => .slot .s
  | .ori _ _ _ _ => .slot .s
  | .xori _ _ _ _ => .slot .s
  | .shli _ _ _ _ => .slot .s
  | .shri _ _ _ _ => .slot .s
  | .sari _ _ _ _ => .slot .s
  | .cmpeqi _ _ _ _ => .slot .s
  | .cmplti _ _ _ _ => .slot .s
  | .cmpltui _ _ _ _ => .slot .s
  | .ldi _ _ _ => .slot .s
  | .lds _ _ _ _ _ => .slot .s
  | .sts _ _ _ _ _ => .slot .s
  | .pand _ _ _ _ => .slot .s
  | .por _ _ _ _ => .slot .s
  | .pxor _ _ _ _ => .slot .s
  | .pandn _ _ _ _ => .slot .s
  | .pnot _ _ _ => .slot .s
  | .pset _ _ => .slot .s
  | .pclr _ _ => .slot .s
  | .pfrom _ _ _ => .slot .s
  | .pcnt _ _ _ => .slot .s
  | .pfirst _ _ _ => .slot .s
  | .br _ _ => .slot .s
  | .call _ _ => .slot .s
  | .bri _ _ => .slot .s
  | .calli _ _ => .slot .s
  | .ret _ => .slot .s
  | .lset _ _ _ => .slot .s
  | .lseti _ _ _ => .slot .s
  | .ltset _ _ => .slot .s
  | .loopf _ _ _ => .slot .s
  | .loop _ _ _ => .slot .s
  | .movlrRead _ _ => .slot .s
  | .movlrWrite _ _ => .slot .s
  | .vadd un _ _ _ _ _ => .slot un.slot
  | .vsub un _ _ _ _ _ => .slot un.slot
  | .vmul un _ _ _ _ _ => .slot un.slot
  | .vmulhs un _ _ _ _ _ => .slot un.slot
  | .vmulhu un _ _ _ _ _ => .slot un.slot
  | .vand un _ _ _ _ _ => .slot un.slot
  | .vor un _ _ _ _ _ => .slot un.slot
  | .vxor un _ _ _ _ _ => .slot un.slot
  | .vshl un _ _ _ _ _ => .slot un.slot
  | .vshr un _ _ _ _ _ => .slot un.slot
  | .vsar un _ _ _ _ _ => .slot un.slot
  | .vmins un _ _ _ _ _ => .slot un.slot
  | .vmaxs un _ _ _ _ _ => .slot un.slot
  | .vminu un _ _ _ _ _ => .slot un.slot
  | .vmaxu un _ _ _ _ _ => .slot un.slot
  | .vabs un _ _ _ _ => .slot un.slot
  | .vld un _ _ _ _ _ => .slot un.slot
  | .vcmpeq un _ _ _ _ _ => .slot un.slot
  | .vcmplts un _ _ _ _ _ => .slot un.slot
  | .vcmpltu un _ _ _ _ _ => .slot un.slot
  | .vcmples un _ _ _ _ _ => .slot un.slot
  | .vsplat un _ _ _ _ => .slot un.slot
  | .vext un _ _ _ _ _ => .slot un.slot
  | .vfadd un _ _ _ _ _ => .slot un.slot
  | .vfsub un _ _ _ _ _ => .slot un.slot
  | .vfmul un _ _ _ _ _ => .slot un.slot
  | .vfma un _ _ _ _ _ => .slot un.slot
  | .vfms un _ _ _ _ _ => .slot un.slot
  | .vfnma un _ _ _ _ _ => .slot un.slot
  | .vfnms un _ _ _ _ _ => .slot un.slot
  | .vfmin un _ _ _ _ _ => .slot un.slot
  | .vfmax un _ _ _ _ _ => .slot un.slot
  | .vfabs un _ _ _ _ => .slot un.slot
  | .vfneg un _ _ _ _ => .slot un.slot
  | .vfcmpeq un _ _ _ _ _ => .slot un.slot
  | .vfcmplt un _ _ _ _ _ => .slot un.slot
  | .vfcmple un _ _ _ _ _ => .slot un.slot
  | .vfclass un _ _ _ _ => .slot un.slot
  | .viota un _ _ _ => .slot un.slot
  | .vcvt un _ _ _ _ _ => .slot un.slot
  | .vcvts un _ _ _ _ _ => .slot un.slot
  | .vpack un _ _ _ _ _ => .slot un.slot
  | .vunpkl un _ _ _ _ => .slot un.slot
  | .vunpkh un _ _ _ _ => .slot un.slot
  | .vqnf un _ _ _ _ _ => .slot un.slot
  | .vdqnf un _ _ _ _ _ => .slot un.slot
  | .vhash un _ _ _ _ => .slot un.slot
  | .vrcp un _ _ _ => .slot un.slot
  | .vrsq un _ _ _ => .slot un.slot
  | .vsqrt un _ _ _ _ => .slot un.slot
  | .vdiv un _ _ _ _ _ => .slot un.slot
  | .vexp2 un _ _ _ => .slot un.slot
  | .vlog2 un _ _ _ => .slot un.slot
  | .vsinpi un _ _ _ => .slot un.slot
  | .vcospi un _ _ _ => .slot un.slot
  | .vtanh un _ _ _ => .slot un.slot
  | .vrsum un _ _ _ _ => .slot un.slot
  | .vrmax un _ _ _ _ => .slot un.slot
  | .vrmin un _ _ _ _ => .slot un.slot
  | .vramax un _ _ _ _ => .slot un.slot
  | .vperm un _ _ _ _ _ => .slot un.slot
  | .vxcl un _ _ _ _ _ => .slot un.slot
  | .vst un _ _ _ _ _ => .slot un.slot
  | .mcall _ _ _ _ _ => .slot .m
  | .mset _ _ _ => .slot .m
  | .mseti _ _ _ => .slot .m
  | .mldr _ _ _ _ => .slot .m
  | .copy un _ _ _ _ _ _ _ => .slot un.slot
  | .coll un _ _ _ _ _ _ _ => .slot un.slot
  | .rstrp un _ _ _ _ _ _ _ => .slot un.slot
  | .cryp un _ _ _ _ _ _ _ => .slot un.slot
  | .kjoin un _ _ _ _ _ _ _ => .slot un.slot
  | .kcancel un _ _ => .slot un.slot
  | .kdetach un _ _ => .slot un.slot
  | .kprio un _ _ _ => .slot un.slot
  | .kstat un _ _ _ _ => .slot un.slot
  | .kack un _ _ => .slot un.slot
  | .ldr un _ _ _ _ _ => .slot un.slot
  | .str un _ _ _ _ _ => .slot un.slot
  | .vldr un _ _ _ _ _ => .slot un.slot
  | .vstr un _ _ _ _ _ => .slot un.slot
  | .amow un _ _ _ _ _ => .slot un.slot
  | .amod un _ _ _ _ _ => .slot un.slot
  | .cas un _ _ _ _ _ => .slot un.slot
  | .famo un _ _ _ _ _ => .slot un.slot
  | .lda un _ _ _ _ _ => .slot un.slot
  | .strl un _ _ _ _ _ => .slot un.slot
  | .flip _ => .slot .x
  | .fence _ _ _ => .slot .x
  | .kwait _ _ _ => .slot .x
  | .kwaitch _ _ _ => .slot .x
  | .hwaitf _ _ _ => .slot .x
  | .hwaite _ _ _ => .slot .x
  | .hadvr _ _ _ => .slot .x
  | .hadvw _ _ _ => .slot .x
  | .hexpect _ _ _ => .slot .x
  | .hptr _ _ _ _ => .slot .x
  | .bar _ _ => .slot .x
  | .xlat _ _ _ => .slot .x
  | .xmov _ _ _ => .slot .x
  | .srd _ _ _ => .slot .x
  | .swr _ _ _ => .slot .x
  | .trap _ _ => .slot .x
  | .rett _ => .slot .x
  | .hwin _ _ => .slot .x
  | .segb _ => .slot .x
  | .sege _ _ _ => .slot .x
  | .iinv _ _ => .slot .x
  | .xregRd _ _ _ _ _ _ => .slot .x
  | .xregWr _ _ _ _ _ _ => .slot .x
  | .saveph _ _ _ => .slot .x
  | .loadph _ _ _ => .slot .x
  | .wait _ _ _ _ => .slot .x
  | .signal _ _ _ _ => .slot .x
  | .pairset _ _ _ _ => .slot .x
  | .bkpt _ _ => .slot .x
  | .halt _ => .slot .x
  | .pfx _ _ _ _ _ _ => .slot .p
  | .imx _ _ => .slot .p
  | .mark _ _ => .slot .p
  | .fmts _ _ _ => .routine
  | .afet _ _ _ _ => .routine
  | .bsel _ _ _ _ => .routine
  | .macs _ _ _ _ _ => .routine
  | .accz _ _ _ => .routine
  | .accl _ _ _ _ _ => .routine
  | .drn _ _ _ _ _ _ => .routine
  | .adptDown _ _ _ _ _ _ => .routine
  | .adptUp _ _ _ _ _ _ => .routine
  | .abftArm _ _ _ => .routine
  | .abftCheck _ _ _ => .routine
  | .loopm _ _ _ _ _ => .routine
  | .padd _ _ _ _ => .routine
  | .yld => .routine
  | .hwtWaitf _ _ => .routine
  | .hwtAdvr _ _ => .routine
  | .hwtWaitb _ => .routine
  | .endOp => .routine
  | .heldBundleRelease _ _ => .event
  | .flipComplete _ _ => .event
  | .pwqLand _ _ _ => .event
  | .secbndBubble _ => .event
  | .secondaryAccessGrant _ => .event
  | .barRelease _ _ => .event
  | .waitTimeout _ _ => .event
  | .accessPerform _ _ => .event
  | .writeNoticeApply _ _ => .event
  | .xlatWalkComplete _ _ => .event
  | .pageWalkPark _ _ => .event
  | .trapEntry _ _ => .event
  | .refetchDone _ _ => .event
  | .phaseReplay _ _ => .event
  | .preemptRequest _ => .event
  | .gangResume _ => .event
  | .opStart _ _ => .event
  | .copyLineGrant _ => .event
  | .collStep _ => .event
  | .restripeLineMove _ => .event
  | .cryptoOperation _ => .event
  | .kjoinComplete _ _ => .event
  | .adapterFetchComplete _ => .event
  | .hcfgCreate _ _ => .event
  | .hcfgDestroy _ _ => .event
  | .mxcfgWrite _ => .event
  | .intpWrite _ => .event
  | .trrbWrite _ => .event
  | .dtqWrite _ _ => .event
  | .rclsWrite _ _ => .event
  | .queueScan _ => .event
  | .launchSelect => .event
  | .gangPlace _ => .event
  | .fabricGangStart _ => .event
  | .alarmExpire _ => .event
  | .tenantQueueServe _ => .event
  | .tileSpare _ _ => .event
  | .dieSwitch _ => .event
  | .dieLost _ => .event
  | .flitReceive _ _ => .event
  | .laneSpare _ _ => .event
  | .ucieLane _ _ => .event
  | .mwrite _ => .message
  | .mread _ => .message
  | .ingress _ => .message
  | .claim _ => .message
  | .deadlineRaise _ => .message
  | .deadlineExpire _ => .message
  | .fanswerMapped _ => .message
  | .fanswerNone _ => .message
  | .dread _ => .message
  | .fmap _ => .message
  | .fwload _ => .command
  | .fwgo _ => .command
  | .tenantSet _ => .command
  | .tenantClr _ => .command
  | .keyload _ => .command
  | .keyfree _ => .command
  | .unlockChal _ => .command
  | .unlock _ => .command
  | .quote _ => .command
  | .extend _ => .command
  | .lcsAdvance _ => .command
  | .nodeset _ => .command
  | .debugStop _ => .event
  | .debugPortAccess _ _ => .event
  | .traceSample _ => .event
  | .scrubLine _ => .event
  | .ppr _ _ => .event
  | .chanSpare _ _ => .event
  | .pageRetire _ => .event
  | .voltRestore _ => .event
  | .remeasurementEnd _ => .event
  | .dvfsEvaluation => .event
  | .thermalTrip _ => .event
  | .railFault _ => .event
  | .powerUp => .event
  | .runtimeQueueRiAdvance _ _ => .event
  | .fabricPartRejected _ => .event
  | .undervoltExcursion _ _ => .event

/-- The bytes of a well-formed instruction, as memory, the routine store, the mailbox or the control channel holds
them; none for an event, which has no bits. -/
def encode (i : Instr) : List Byte :=
  match i with
  | .mwrite m => msgBytes 1 m
  | .mread m => msgBytes 2 m
  | .ingress m => msgBytes 3 m
  | .claim m => msgBytes 4 m
  | .deadlineRaise m => msgBytes 5 m
  | .deadlineExpire m => msgBytes 5 m
  | .fanswerMapped m => msgBytes 6 m
  | .fanswerNone m => msgBytes 6 m
  | .dread m => msgBytes 7 m
  | .fmap m => msgBytes 8 m
  | .fwload m => cmdBytes 0x10 m
  | .fwgo m => cmdBytes 0x11 m
  | .tenantSet m => cmdBytes 0x20 m
  | .tenantClr m => cmdBytes 0x21 m
  | .keyload m => cmdBytes 0x22 m
  | .keyfree m => cmdBytes 0x23 m
  | .unlockChal m => cmdBytes 0x30 m
  | .unlock m => cmdBytes 0x31 m
  | .quote m => cmdBytes 0x40 m
  | .extend m => cmdBytes 0x41 m
  | .lcsAdvance m => cmdBytes 0x50 m
  | .nodeset m => cmdBytes 0x60 m
  | i => match i.source with
    | .slot _ => natToBytes 4 (encodeWord i).toNat
    | .routine => natToBytes 8 (encodeUop i).toNat
    | _ => []

/-- What bits from a source decode to. -/
def decode (src : Source) (bs : List Byte) : Except Reject Instr :=
  match src with
  | .slot sl => if bs.length = 4 then decodeSlot sl (BitVec.ofNat 32 (bytesToNat bs)) else .error .badLength
  | .routine => if bs.length = 8 then decodeUop (BitVec.ofNat 64 (bytesToNat bs)) else .error .badLength
  | .message => decodeMsg bs
  | .command => decodeCmd bs
  | .event => .error .unassigned

/-- The slots in the order in which a lone table word is tried: the maps whose words fix most bits first. The same
32 bits can be an instruction in several slots, and the opcode table does not say which (log entry 3). -/
def tableSlots : List Slot := [.x, .p, .s, .v0, .m, .c0]

/-- The first slot of a list in which a word is an instruction, with that instruction. -/
def firstSlot (w : Word32) : List Slot → Option (Slot × Instr)
  | [] => none
  | sl :: rest => match decodeSlot sl w with
    | .ok i => some (sl, i)
    | .error _ => firstSlot w rest

/-- The instruction this decoder reads from the bits of an opcode-table row: a 32-bit slot word. -/
def decodeTableWord (nbits w : Nat) : Option Instr :=
  if nbits ≤ 32 then (firstSlot (BitVec.ofNat 32 w) tableSlots).map (·.2) else none

end Sys2Proof
end

