-- ==== Sys2Proof/Machine/Tbl.lean ====
section
/-! DEFINITION. Sparse tables: a list of (key, entry) pairs with keys strictly rising and no entry equal to what an
unlisted key reads as, so that equal tables are equal data. Memories, register files, cores and every other numbered
family of the machine are held so. -/

namespace Sys2Proof.Machine

/-- A table from natural numbers; an unlisted key reads as the default its owner names. -/
abbrev Tbl (α : Type) := List (Nat × α)

/-- The entry at key `q`; `d` when none is listed. -/
def Tbl.get {α : Type} (d : α) : Tbl α → Nat → α
  | [], _ => d
  | (k, v) :: r, q => if q = k then v else Tbl.get d r q

/-- The table with an entry `v` at key `q`, in key order. -/
def Tbl.put {α : Type} : Tbl α → Nat → α → Tbl α
  | [], q, v => [(q, v)]
  | (k, x) :: r, q, v =>
    if q < k then (q, v) :: (k, x) :: r else if q = k then (q, v) :: r else (k, x) :: Tbl.put r q v

/-- The table with key `q` holding `v`; an entry equal to the default is left out. -/
def Tbl.set {α : Type} [DecidableEq α] (d : α) (t : Tbl α) (q : Nat) (v : α) : Tbl α :=
  if v = d then t.filter (fun e => e.1 != q) else Tbl.put t q v

/-- The table with key `q`'s entry changed by `f`. -/
def Tbl.upd {α : Type} [DecidableEq α] (d : α) (t : Tbl α) (q : Nat) (f : α → α) : Tbl α :=
  Tbl.set d t q (f (Tbl.get d t q))

/-- Every key of the list lies above `b`, keys rise strictly, and no entry is the default. -/
def Tbl.above {α : Type} [DecidableEq α] (d : α) : Option Nat → Tbl α → Bool
  | _, [] => true
  | b, (k, v) :: r => (match b with | none => true | some x => decide (x < k)) && decide (v ≠ d)
      && Tbl.above d (some k) r

/-- The canonical form of a table. -/
def Tbl.wf {α : Type} [DecidableEq α] (d : α) (t : Tbl α) : Bool := Tbl.above d none t

/-- Byte memories: an unlisted address reads as zero (log entry 1). -/
abbrev Mem := Tbl Byte

/-- One byte of a memory. -/
def Mem.byte (m : Mem) (a : Nat) : Byte := Tbl.get 0 m a

/-- A memory with one byte written. -/
def Mem.setByte (m : Mem) (a : Nat) (b : Byte) : Mem := Tbl.set 0 m a b

/-- The canonical form of a memory. -/
def Mem.wf (m : Mem) : Bool := Tbl.wf 0 m

/-- The `n`-byte little-endian number at address `a` (00_scope.md R8). -/
def Mem.read (m : Mem) (a : Nat) : Nat → Nat
  | 0 => 0
  | n + 1 => (Mem.byte m a).toNat + 256 * Mem.read m (a + 1) n

/-- The memory with the low `n` bytes of `v` stored little-endian from address `a` (00_scope.md R8). -/
def Mem.write (m : Mem) (a : Nat) : Nat → Nat → Mem
  | 0, _ => m
  | n + 1, v => Mem.write (Mem.setByte m a (BitVec.ofNat 8 v)) (a + 1) n (v / 256)

/-- The `n` bytes from address `a`. -/
def Mem.bytes (m : Mem) (a : Nat) : Nat → List Byte
  | 0 => []
  | n + 1 => Mem.byte m a :: Mem.bytes m (a + 1) n

/-- The memory with a list of bytes stored from address `a`. -/
def Mem.setBytes (m : Mem) (a : Nat) : List Byte → Mem
  | [] => m
  | b :: bs => Mem.setBytes (Mem.setByte m a b) (a + 1) bs

/-- The memory with the addresses from `a` to `a + n - 1` unlisted again. -/
def Mem.clear (m : Mem) (a n : Nat) : Mem := m.filter (fun c => !(decide (a ≤ c.1) && decide (c.1 < a + n)))

end Sys2Proof.Machine
end

