-- ==== Sys2Proof/Machine/State.lean ====
section
/-! DEFINITION. Everything the spec gives one Z12 part, as plain data, and the part right after device reset. Field
defaults are the reset values: a default that the spec does not state is named in a log entry. -/

namespace Sys2Proof.Machine

/-- Why the machine stops. -/
inductive Fault where
  /-- raised by the step when `State.focus` names a core that no part has (R2, R391): no run reaches such a state;
  safe -/
  | noSuchCore
deriving DecidableEq, Repr

/-- Why an instruction has no meaning here. -/
inductive Refusal where
  /-- raised by an arm of `exec` whose instruction has no meaning in this model; safe -/
  | notModelled (mnemonic : String)
deriving DecidableEq, Repr

/-- A two-faced register (R13): both faces, the face selector, the written bit, and the issue stamp of the write that
last set the hidden face in the current phase (R32). Narrower classes use the low bits. -/
structure Two where
  f0    : Vec := 0
  f1    : Vec := 0
  sel   : Bool := false
  w     : Bool := false
  stamp : Option (BitVec 32) := none
deriving DecidableEq, Repr

/-- A pending-write queue entry (R27). `lanes` holds the lanes of a vector result that were active (R37); `acc` is
the number of the access or delayed load that will deliver the value, 0 for none; `org` says which bundle and word a
variable-latency read came from (R375). -/
structure Pwq where
  reg    : Nat := 0
  rem    : Nat := 0
  val    : Option Vec := none
  ready  : Nat := 0
  poison : Bool := false
  stamp  : BitVec 32 := 0
  lanes  : Pred := BitVec.allOnes 128
  acc    : Nat := 0
deriving DecidableEq, Repr

/-- The translation result register XR (R238): four words, and the walk in flight. -/
structure XrReg where
  w0 : Word64 := 0
  w1 : Word64 := 0
  w2 : Word64 := 0
  w3 : Word64 := 0
deriving DecidableEq, Repr

/-- A fill record of one half of a refetchable paired region (R226): the packet and the lines it wrote. -/
structure Fill where
  pkt   : List Byte
  /-- formats resolved at issue: FROM, TO (R331) -/
  fromF : Nat := 0
  toF   : Nat := 0
  first : Nat
  count : Nat
  /-- which of these lines it wrote, a bit each -/
  got   : Nat := 0
  /-- issue order of the operation that made it -/
  order : Nat := 0
deriving DecidableEq, Repr

/-- A paired region (R222, R226, R227). -/
structure Pair where
  en     : Bool := false
  base   : Nat := 0
  half   : Nat := 0
  ref    : Bool := false
  sel    : Bool := false
  dirty0 : Bool := false
  dirty1 : Bool := false
  fill0  : Option Fill := none
  fill1  : Option Fill := none
  /-- the bundle count at its declaration, so that an operation can tell a region declared anew (R265) -/
  born   : Nat := 0
  /-- declared by the bundle whose flip is still owed: that flip leaves it alone (R265) -/
  fresh  : Bool := false
deriving DecidableEq, Repr

/-- A dynamic translation entry (R236). -/
structure Dyn where
  v    : Bool := false
  base : Nat := 0
  size : Nat := 0
  pa   : Nat := 0
  perm : BitVec 3 := 0
  plc  : BitVec 32 := 0
deriving DecidableEq, Repr

/-- A locked translation table entry (R233): its two words. -/
structure Ltt where
  w0 : Word64 := 0
  w1 : Word64 := 0
deriving DecidableEq, Repr

/-- A flip that is owed: its bundle has issued and the flip has not completed (R20, R22, R51, R372). -/
structure Owed where
  issued : Nat := 0
  ftl    : Bool := false
  frot   : Bool := false
deriving DecidableEq, Repr

/-- An XLAT in flight (R262): the address, the slot, and whether its context is parked (R378) or the walk was
abandoned until RETT (R379). -/
structure Walk where
  va     : Word64 := 0
  slot   : Nat := 0
  parked : Bool := false
  abandoned : Bool := false
deriving DecidableEq, Repr

/-- A pending asynchronous fault of a context (R371): code and INFO, oldest first. -/
structure AsyncTrap where
  code : Nat := 0
  info : Word64 := 0
  slot : Nat := 7
deriving DecidableEq, Repr

/-- What a trace sample says of a context in one cycle (R450): the bundle that issued or is held, 0 or the hold reason,
the cycle and the phase number. -/
structure Sample where
  pc    : Word64 := 0
  state : Nat := 0
  at_   : Nat := 0
  phn   : Word64 := 0
deriving DecidableEq, Repr

/-- What a read of the memory that was abandoned needs to be reissued at RETT (R375). -/
structure Origin where
  acc   : Nat := 0
  pc    : Word64 := 0
  word  : Word32 := 0
  slot  : Nat := 0
  imx   : Word32 := 0
  stamp : BitVec 32 := 0
  /-- bundle count of its issue, which keeps its place in the context's order (R259, R260) -/
  bundle : Nat := 0
deriving DecidableEq, Repr

/-- The phase-start checkpoint of a context (R382, R383): everything a replay restores. -/
structure Check where
  regs  : Tbl Two := []
  pwq   : List Pwq := []
  lr    : Word64 := 0
  tail  : BitVec 8 := 0
  rpos  : BitVec 3 := 0
  dw    : Bool := false
  segCnt : BitVec 32 := 0
  segSig : BitVec 32 := 0
  sega  : Bool := false
  seqs  : Tbl (BitVec 32) := []
  dones : Tbl (BitVec 32) := []
  opOrder : Nat := 0
  pairBytes : List (Nat × Byte) := []
deriving DecidableEq, Repr

/-- A release mark: a STRL, or a FENCE that stands before the write it marks (R284, R286): the scope code, the gang and
gang tile of its context, and the writes that an acquire of it is ordered after. -/
structure Rel where
  scope : Nat
  gang  : Nat
  tile  : Nat
  deps  : List (Nat × Nat)
  fence : Bool := false
  plain : Bool := false
deriving DecidableEq, Repr

/-- A stamped write that a context has made or read: the FENCE class of the access, its bundle, and the write as
(component, count) (R260, R271, R284). -/
structure Noted where
  cls    : Nat
  bundle : Nat
  stamp  : Nat × Nat
deriving DecidableEq, Repr

/-- A STRL that has performed while accesses of earlier bundles of its context have not (R274): within its scope nobody
sees it yet. Its context and bundle, the line (0 for device memory, otherwise the core and one), the stamp, and the scope
as it is carried out, with the gang and gang tile. -/
structure Unripe where
  core   : Nat
  cx     : CtxId
  bundle : Nat
  line   : Nat × Nat
  stamp  : Nat × Nat
  scope  : Nat
  gang   : Nat
  tile   : Nat
deriving DecidableEq, Repr

/-- One of a core's three contexts (R12). SVC leaves the strand's fields unused. -/
structure Ctx where
  /-- two-faced registers, keyed 32 × class + index with the classes of R374: 0 s, 1 p, 2 m, 3 k, 4 lc, 5 v -/
  regs     : Tbl Two := []
  lr       : Word64 := 0
  xr       : XrReg := {}
  pc       : Word64 := 0
  pwq      : List Pwq := []
  /-- issue stamp of the next bundle (R32) -/
  stamp    : BitVec 32 := 0
  /-- bundles issued, never wrapping: orders accesses and waits of the context -/
  bundles  : Nat := 0
  /-- `bundles` at the start of the current phase -/
  phase0   : Nat := 0
  rot      : Bool := false
  dwt      : Bool := false
  dw       : Bool := false
  phn      : Word64 := 0
  tail     : BitVec 8 := 0
  rpos     : BitVec 3 := 0
  /-- the flip owed by the last issued bundle -/
  owed     : Option Owed := none
  /-- ready cycle of the latest LAND-0 result of the phase (R22) -/
  ready    : Nat := 0
  /-- the cycle in which the next bundle may issue -/
  clock    : Nat := 0
  /-- the cycle of schedule cycle 0, of SCYC (R125, R447) -/
  start    : Nat := 0
  /-- cycles the present bundle has been held, whether it is held, and the first hold's reason (R450) -/
  held     : Nat := 0
  holding  : Bool := false
  /-- the cycles of them for which a bounded wait has held it (R323), and the cycles that its flip wait skipped before
  (R22) -/
  waited   : Nat := 0
  skipped  : Nat := 0
  why      : Nat := 0
  /-- the bound of the wait that holds it (R323) -/
  bound    : Option Nat := none
  /-- interlock trace is armed (R451) -/
  armed    : Bool := false
  /-- the BAR wait: level, when the context waits in an issued BAR (R132) -/
  barWait  : Option Nat := none
  /-- the FENCE holds still in force: scope, mask and the bundle count of the FENCE (R260) -/
  fences   : List (BitVec 3 × BitVec 5 × Nat) := []
  /-- the IINV hold: the cores that have not yet applied it (R399) -/
  iinv     : List Nat := []
  walk     : Option Walk := none
  pairs    : Tbl Pair := []
  dyn      : Tbl Dyn := []
  taddr    : BitVec 48 := 0
  tvecKind : Bool := false
  tvec     : BitVec 8 := 0
  lttBase  : BitVec 20 := 0
  lttEn    : Bool := false
  lttGran  : BitVec 2 := 0
  fmtt     : Word64 := 0
  wdt      : BitVec 32 := 0
  tfb      : BitVec 20 := 0
  rcnt     : BitVec 8 := 0
  pstart   : Word64 := 0
  esc      : Bool := false
  rpl      : Bool := false
  sega     : Bool := false
  segCnt   : BitVec 32 := 0
  segSig   : BitVec 32 := 0
  wpb0     : Word64 := 0
  wpl0     : Word64 := 0
  wpb1     : Word64 := 0
  wpl1     : Word64 := 0
  /-- identity of the strand (R128 to R131) -/
  lidx     : List (BitVec 16) := []
  lcnt     : List (BitVec 16) := []
  nlev     : Nat := 0
  sidx     : BitVec 32 := 0
  scnt     : BitVec 32 := 0
  gloc     : Word64 := 0
  /-- the gang whose strand the context holds; 0 when it holds none -/
  gang     : Nat := 0
  /-- the strand has halted (R133, R401) -/
  halted   : Bool := false
  mlgr     : Bool := false
  /-- arrivals per level: the epoch of the strand's latest BAR of each level, with the bundle count of the arrival
  (R132) -/
  arrive   : Tbl (Nat × Nat) := []
  /-- sequence number last issued, and DONE, per channel (R301, R303) -/
  seqs     : Tbl (BitVec 32) := []
  dones    : Tbl (BitVec 32) := []
  /-- numbers of level collectives issued (R336) -/
  colls    : Tbl Nat := []
  /-- pending asynchronous traps of the context, oldest first; PREEMPT and PAGE_FAULT apart (R371) -/
  asyncs   : List AsyncTrap := []
  preempt  : Bool := false
  pageFault : Option Word64 := none
  /-- the context has trapped and waits for SVC, or is served by SVC -/
  trapped  : Bool := false
  /-- a trap due at the boundary: code, slot, INFO, resume PC and whether asynchronous (R368) -/
  dueTrap  : Option (Nat × Nat × Word64 × Word64 × Bool) := none
  /-- a trap that an issued bundle raised while SVC was busy, kept as `dueTrap` keeps one (R368, R394) -/
  kept     : Option (Nat × Nat × Word64 × Word64 × Bool) := none
  /-- the reads abandoned at the trap (R375) -/
  origins  : List Origin := []
  check    : Check := {}
  /-- the hidden-half lines that the phase or its child operations have written, and the registers that the checkpoint of
  a loaded image names as written (R382, R397) -/
  hidW     : List Nat := []
  ckKeys   : List Nat := []
  /-- stopped by the debug port, and the port has claimed its breakpoints (R456) -/
  stopped  : Bool := false
  claimed  : Bool := false
  /-- the bundle it tried last, with the cycle, and the cycle up to which its samples are taken (R450) -/
  last     : Sample := {}
  sampledTo : Nat := 0
  /-- the writes that every later access of the context is ordered after, as (component, count) stamps still unapplied
  somewhere, and those that the context has made or read (R271, R284) -/
  must     : List (Nat × Nat) := []
  notes    : List Noted := []
  /-- the FENCEs that are over with ST in their masks: scope, gang, gang tile, and the writes before each (R286) -/
  released : List Rel := []
  /-- the FENCEs of others that stand before a write the context has read (R286) -/
  heard    : List Rel := []
  /-- the writes of its operations whose records are retired, as they still matter (R290) -/
  retired  : List (Nat × Nat) := []
  /-- whether the present phase's attempt is being judged for a transient error, and whether a residue or a register parity
  check has found one (R382, R424) -/
  transient : Bool := false
  resid    : Bool := false
deriving DecidableEq, Repr

/-- A location that an access touches: a byte run of a core's tessera, or of device memory with its placement. -/
inductive Loc where
  | tess (core off : Nat)
  | mem (pa : Nat) (plc : BitVec 32)
deriving DecidableEq, Repr

/-- One indivisible piece of an access: where it lies, its place in the value, and its length in bytes. -/
structure Piece where
  loc : Loc
  pos : Nat
  len : Nat
deriving DecidableEq, Repr

/-- What an outstanding C-slot access does when it performs. -/
inductive AccOp where
  /-- LDR, VLDR, LDA: bind the bytes; `sext` extends by sign from `8 × size` bits -/
  | load (sext : Bool)
  | store
  /-- AMOW, AMOD: FN of R255 -/
  | amo (fn : Nat)
  | cas (cmp : Nat)
  /-- FAMO: FN of R257 -/
  | famo (fn : Nat)
  /-- KSTAT of an operation of another core: token and word -/
  | kstat (token : Word64) (word : Nat)
  /-- KCANCEL 0, KDETACH 1, KPRIO 2, KACK 3 on an operation of another core -/
  | steer (what : Nat) (token : Word64) (pri : Nat)
deriving DecidableEq, Repr

/-- An access that has issued and not yet performed whole (R249 to R259). -/
structure Access where
  id     : Nat
  cx     : CtxId
  un     : CUnit
  /-- bundle count of the issuing bundle -/
  bundle : Nat
  issued : Nat
  op     : AccOp
  size   : Nat
  /-- the value stored, or the operand of an atomic -/
  val    : Nat
  pieces : List Piece
  /-- the bytes bound so far -/
  got    : Nat := 0
  poison : Bool := false
  /-- a line of it was not in the die cache (R453, event 18) -/
  missed : Bool := false
  /-- LDA or STRL: its scope code -/
  scope  : Option Nat := none
  /-- lanes for a vector load -/
  vector : Bool := false
  /-- the destination register takes a PWQ entry with this access's number -/
  writes : Bool := false
  /-- a SIGNAL, which is of FENCE class HOD (R261, R348) -/
  signal : Bool := false
  /-- the bundle's address, the slot word and the IMX word aimed at it (R375) -/
  pc     : Word64 := 0
  word   : Word32 := 0
  imxw   : Word32 := 0
deriving DecidableEq, Repr

/-- A secondary access that met a primary access in a bank (R47). -/
structure Delayed where
  id    : Nat
  cx    : CtxId
  store : Bool
  acm   : Bool
  /-- the read waits for a refetch of its lines (R380), not for a bank -/
  refetch : Bool := false
  banks : List Nat
  /-- the address of its bundle, and the banks that the primary claimed in the first cycle that delayed it (R450) -/
  pc    : Word64 := 0
  hits  : List Nat := []
  /-- bundle count of the issuing bundle -/
  bundle : Nat
  /-- the cycle in which it issued, and the latest cycle in which it was delayed -/
  orig  : Nat
  since : Nat
  lat   : Nat
  pieces : List Piece
  /-- the physical lines that a store writes whole -/
  whole : List Nat := []
  val   : Nat := 0
  sext  : Option Nat := none
  reg   : Nat := 0
  land  : Nat := 0
  stamp : BitVec 32 := 0
  lanes : Pred := BitVec.allOnes 128
  /-- bytes that a store of its own bundle has changed since, as they stood before the bundle (R41) -/
  snap  : List (Nat × Byte) := []
deriving DecidableEq, Repr

/-- The kinds of child operation (R298). -/
inductive OpKind where
  | copy | mcall | coll | rstrp | cryp | kjoin
deriving DecidableEq, Repr

/-- A paired region as a child operation found it at issue (R224, R225): number, base, half size, the half its source
bytes lie in, the half its destination bytes fill, and the region's birth. -/
structure Half where
  idx  : Nat
  base : Nat
  size : Nat
  src  : Bool
  dst  : Bool
  born : Nat
deriving DecidableEq, Repr

/-- A child operation and its record (R302, R305, R386). -/
structure ChildOp where
  token  : Word64
  ch     : Nat
  cx     : CtxId
  kind   : OpKind
  /-- state code of R302 -/
  state  : Nat := 1
  cause  : Nat := 0
  lines  : Nat := 0
  addr   : Word64 := 0
  expck  : BitVec 32 := 0
  runck  : BitVec 32 := 0
  pred   : Word64 := 0
  owner  : Nat := 0
  /-- the strand index that owns it, while owner is 0 or 1 -/
  ownerSidx : Nat := 0
  det    : Bool := false
  pri    : Nat := 0
  land   : Nat := 0
  /-- the packet and its extensions, or for KJOIN nothing -/
  packet : List Byte := []
  /-- a fault recorded at issue (R324) -/
  bad    : Nat := 0
  badAddr : Word64 := 0
  cancel : Bool := false
  suspend : Bool := false
  /-- issue order on the core, over all channels -/
  order  : Nat := 0
  /-- bundle count of the issue -/
  bundle : Nat := 0
  /-- phase number in which the flip waits for it, when its destination lies in a paired region (R225) -/
  due    : Option Word64 := none
  /-- the physical halves bound at issue (R224, R225) -/
  halves : List Half := []
  /-- formats resolved at issue (R331): FROM, TO -/
  fromF  : Nat := 0
  toF    : Nat := 0
  /-- KJOIN's channel mask; the operations it joins are those with a lower issue order -/
  mask   : Nat := 0
  /-- matrix: m registers, FMTT, lc0, watchdog and start word as read by MCALL (R186) -/
  q      : List Word64 := []
  fmtt   : Word64 := 0
  lc0    : Nat := 0
  wdog   : Nat := 0
  start  : Nat := 0
  /-- collective: level and ordinal (R336) -/
  level  : Nat := 0
  nth    : Nat := 0
  /-- steps of a collective whose source lines the other devices have been sent (R336) -/
  told   : Nat := 0
  /-- cycle at which it settled -/
  doneAt : Nat := 0
  /-- newer operations of the same context and channel completed since (R305) -/
  newer  : Nat := 0
  gang   : Nat := 0
  sidx   : Nat := 0
  /-- the writes it has made, for the order a wait gives (R290) -/
  seen   : List (Nat × Nat) := []
deriving DecidableEq, Repr

/-- A hod (R314). -/
structure Hod where
  own   : Nat := 0
  priv  : Bool := false
  en    : Bool := false
  carry : Bool := false
  mode  : Bool := false
  scope : BitVec 3 := 0
  nslot : BitVec 13 := 0
  ssz   : BitVec 11 := 0
  base  : BitVec 20 := 0
  wp    : BitVec 32 := 0
  rp    : BitVec 32 := 0
  ovf   : Bool := false
  xset  : Bool := false
  epoch : BitVec 32 := 0
  /-- accesses that an observed advance is ordered after: context and bundle count (R347) -/
  pend  : List (CtxId × Nat) := []
  seen  : List (Nat × Nat) := []
deriving DecidableEq, Repr

/-- One element of an accumulator bank: an exact value with its flags, or a rounded value in `v` (R176, R179). The
exact sum is kept as an unbounded integer of units 2^-32. -/
structure AccEl where
  v    : Int := 0
  nan  : Bool := false
  pinf : Bool := false
  ninf : Bool := false
  ovp  : Bool := false
  ovn  : Bool := false
deriving DecidableEq, Repr

/-- A running or suspended matrix routine (R188, R213). Bank rows are keyed 64 × row + column. -/
structure Routine where
  run    : Bool := false
  q      : List Word64 := []
  kcur   : Nat := 0
  bcur   : Word64 := 0
  srow   : Nat := 0
  ssrow  : Nat := 0
  abase  : Nat := 0
  pitch  : Nat := 0
  ord    : Bool := false
  swz    : Bool := false
  mode   : Option Nat := none
  afmt   : Nat := 0
  bfmt   : Nat := 0
  lm     : List Nat := [0, 0, 0, 0]
  act    : List Bool := [false, false, false, false]
  w0     : Tbl AccEl := []
  w1     : Tbl AccEl := []
  part   : Tbl AccEl := []
  marks  : List Nat := []
  kv     : Nat := 0
  word   : Nat := 0
  drained : Nat := 0
  waited : Nat := 0
  /-- ABFT (R211): first row, rows and bank of the ARM in force, the word after it, and the state to return to -/
  arm    : Option (Nat × Nat × Bool) := none
  armWord : Nat := 0
  snapW0 : Tbl AccEl := []
  snapW1 : Tbl AccEl := []
  snapKcur : Nat := 0
  snapBcur : Word64 := 0
  snapSrow : Nat := 0
  snapSsrow : Nat := 0
  snapQ  : List Word64 := []
  snapLm : List Nat := []
  snapAct : List Bool := []
  snapStream : Nat × Nat × Bool × Bool := (0, 0, false, false)
  /-- check values by row as the row-steps foretell them, and in NF4W the block partials as they came (R211) -/
  ckA    : Tbl AccEl := []
  ckB    : Tbl AccEl := []
  /-- the span is being run a second time -/
  second : Bool := false
  /-- adapter fetch in progress (R209): up rows, identifier, index, directory base -/
  fetch  : Option (Bool × Nat × Nat × Nat) := none
  /-- an ADPT's round (R209): its marked rows, with their identifiers, and the tags it pins, as identifier and index -/
  round  : List (Nat × Nat) := []
  pins   : List (Nat × Nat) := []
  /-- the half-filled latch entry waits for room at the end of the operation: its state and cause (R200) -/
  ending : Option (Nat × Nat) := none
deriving DecidableEq, Repr

/-- An adapter bay entry (R209): the lintel row that holds it, and its tag (up rows, identifier, index). The list stands in
order of last use. -/
structure BayEntry where
  row   : Nat
  up    : Bool
  id    : Nat
  index : Nat
deriving DecidableEq, Repr

/-- One record in a core's ingress buffer (R398, R421). -/
structure IngRec where
  seq  : BitVec 32
  ofs  : Nat
  tag  : BitVec 32
  data : List Byte
deriving DecidableEq, Repr

/-- What a trace unit works with in a cycle: TRCTL, TRRB and FLT, as they stand in cycle `at_` (R448). -/
structure TraceSet where
  ctl : Word64
  rb  : Word64
  flt : Bool
  at_ : Nat
deriving DecidableEq, Repr

/-- A record that a trace unit has completed and the ring does not yet hold (R449): its cycle, its kind, the ring and its
tenant, and the bytes. -/
structure TraceRec where
  at_   : Nat
  kind  : Nat
  rb    : Word64
  ten   : Nat
  bytes : List Byte
deriving DecidableEq, Repr

/-- One of the cores: 768 tile cores numbered 96 × logical die + logical tile, and control cores 768 to 771. -/
structure Core where
  cb0     : Ctx := {}
  cb1     : Ctx := {}
  svc     : Ctx := {}
  /-- STRM (R49) -/
  prim    : Bool := false
  /-- a value written to PRIM and the cycle of its bundle: it takes effect from the next cycle (R49) -/
  primSet : Option (Bool × Nat) := none
  secbnd  : BitVec 16 := 0
  /-- R48's count, the bubble it calls for, and PRIM before a park (R379) -/
  starve  : Nat := 0
  bubble  : Bool := false
  primWas : Option Bool := none
  parked  : List CtxId := []
  /-- the context SVC serves and the trap's CODE (R367, R368) -/
  serving : Option (CtxId × Nat) := none
  tess    : Mem := []
  acm     : Mem := []
  lintel  : Mem := []
  /-- tessera lines and accumulator lines with an uncorrectable error, and lines read wrong once (R380, R425) -/
  badTess : List Nat := []
  softTess : List Nat := []
  badAcm  : List Nat := []
  badLintel : List Nat := []
  /-- routine-store words with an uncorrectable error; lines of other structures that a second read finds clean, and single-bit
  errors that SECDED corrects, by structure (0 tessera, 1 accumulator memory, 2 lintel, 6 routine store) and line or word; and
  fetched bundles with a parity error, by physical address / 32 (R380, R424) -/
  badStore : List Nat := []
  soft    : List (Nat × Nat) := []
  ce      : List (Nat × Nat) := []
  badIc   : List Nat := []
  accs    : List Access := []
  delayed : List Delayed := []
  nextId  : Nat := 1
  /-- banks claimed by the primary in a cycle (R47) -/
  claims  : List Nat := []
  claimAt : Nat := 0
  /-- the primary's latest issue: its occupancy mask and its cycle (R46) -/
  primMask : Nat := 0
  primAt  : Nat := 0
  ops     : List ChildOp := []
  opOrder : Nat := 0
  /-- the copy engine's grant count and the last grant of each channel (R308) -/
  grants  : Nat := 0
  lastGrant : Tbl Nat := []
  hods    : Tbl Hod := []
  ltt     : Tbl Ltt := []
  store   : Tbl Word64 := []
  mxcfg   : BitVec 2 := 0
  mxUnchk : BitVec 16 := 0
  mxRepl  : BitVec 8 := 0
  mx      : Routine := {}
  latch   : List Vec := []
  halfRow : Option (BitVec 2048) := none
  bay     : List BayEntry := []
  hvb     : Word64 := 0
  intp    : BitVec 16 := 0
  intm    : BitVec 16 := 0
  ingress : List IngRec := []
  /-- the cycle in which ALARM reaches 0; 0 when it does not run (R362) -/
  alarm   : Nat := 0
  quantum : Nat := 0
  secnt   : Tbl (BitVec 8) := []
  trctl   : Word64 := 0
  trrb    : Word64 := 0
  /-- TRST: FLT and DROP -/
  trFault : Bool := false
  trDrop  : Nat := 0
  /-- what the trace unit still works with in the cycle of the latest write of TRCTL or TRRB (R448) -/
  trWas   : Option TraceSet := none
  /-- records completed and not yet in the ring, in its order (R449) -/
  due     : List TraceRec := []
  /-- the cycle up to which event 1 has counted (R453) -/
  tally   : Nat := 0
  pmcsel  : Word64 := 0
  pmc     : Tbl Word64 := []
  /-- MLDR held while it copies and verifies: its context and the cycle in which it may issue (R190) -/
  mldrAt  : Option (CtxId × Nat) := none
  /-- fetched bundles that an IINV has not yet dropped, by physical address / 32 (R399) -/
  icache  : Tbl (Option (BitVec 256)) := []
deriving DecidableEq, Repr

/-- A write notice on its way to a die (R231): the line, the bytes, the writer's component and count, the notices it
comes after, and the release marks of its 8-byte words. -/
structure Notice where
  line  : Nat
  mask  : Nat
  data  : Nat
  comp  : Nat
  count : Nat
  deps  : List (Nat × Nat)
  rels  : Tbl (List Rel) := []
deriving DecidableEq, Repr

/-- A line in a die cache, with the stamp of the latest write it shows (R231) and the release marks of its 8-byte words
(R284). -/
structure CLine where
  data  : Nat
  comp  : Nat
  count : Nat
  rels  : Tbl (List Rel) := []
deriving DecidableEq, Repr

/-- A C1 store that its die's cache shows and that has not yet performed at its home (R231, R274 note 3): the line, the
bytes, its count of the die, for whom and how it is written, the context that made it with its gang and gang tile, the
release marks of its 8-byte words, and the scope within which the die's observers see it: 3 for all of them. -/
structure Buffered where
  line  : Nat
  mask  : Nat
  data  : Nat
  count : Nat
  ten   : Option Nat
  plc   : BitVec 32
  core  : Nat
  cx    : CtxId
  gang  : Nat
  tile  : Nat
  deps  : List (Nat × Nat) := []
  rels  : Tbl (List Rel) := []
  wide  : Nat := 0
deriving DecidableEq, Repr

/-- A logical die's cache and its faults (R231, R432, R463). -/
structure Die where
  lines   : Tbl (Option CLine) := []
  /-- stores of the die's cores on their way to their homes, in the order in which the cache took them -/
  buffer  : List Buffered := []
  notices : List Notice := []
  /-- cached lines with an error that SECDED corrects, and with one that it does not (R424) -/
  ceLines : List Nat := []
  badLines : List Nat := []
  lost    : Bool := false
  /-- a switch-in or a tile sparing waits until the die's gangs are pre-empted (R406 to R408) -/
  leaving : Bool := false
  excursion : Bool := false
  remeasure : Bool := false
  /-- DVFS register: CUR, LOCK, UVX, REQ (R463) -/
  cur     : BitVec 2 := 0
  lock    : Bool := false
  uvx     : BitVec 1 := 0
  req     : BitVec 2 := 0
  /-- the cycle in which nominal voltage was restored for a re-measurement, and the corrected errors of the 2^36 cycles at
  nominal before an excursion (R432) -/
  errs    : Nat := 0
  base    : Nat := 0
deriving DecidableEq, Repr

/-- A level descriptor of a launch (R117, R123). -/
structure Level where
  dom   : Nat := 0
  scope : Nat := 0
  count : Nat := 0
deriving DecidableEq, Repr

/-- The save image of a core by its sections (R385): header, the two context images, tessera, accumulator memory, lintel,
routine store, locked table, hods with the row latch, and operation descriptors (R386). -/
structure SaveImage where
  head   : List Byte := []
  ctx0   : List Byte := []
  ctx1   : List Byte := []
  tess   : Mem := []
  acm    : Mem := []
  lintel : Mem := []
  store  : Tbl Word64 := []
  ltt    : Tbl Ltt := []
  hods   : List Byte := []
  ops    : List Byte := []
deriving DecidableEq, Repr

/-- What the distributor has read for a record: each image's bytes, or none when one does not translate (R123). -/
structure Images where
  timg : Option (List Byte) := some []
  mpb  : Option (List Byte) := some []
  pres : Option (List Byte) := some []
  ltt  : Option (List Byte) := some []
deriving DecidableEq, Repr

/-- A gang: what the distributor holds of a selected launch (R357, R359, R363). State codes: 0 none, 1 selected and
waiting to be placed, 2 placed again and waiting to be restored, 3 running, 4 pre-empting, 5 pre-empted or stopped for
good, 7 done, 8 stopped by the debug port, 9 placed and waiting for its other devices, 10 rejected, expired or discarded, 11 stopping for
the debug port. -/
structure Gang where
  state   : Nat := 0
  ten     : Nat := 0
  cls     : Nat := 0
  /-- the bound priority -/
  bound   : Nat := 0
  claim   : Nat := 0
  /-- the header address of the launch queue that holds its claim (R354, R355) -/
  hdr     : Nat := 0
  /-- of a fabric launch, how many of the same record the device selected before it (R414) -/
  nth     : Nat := 0
  record  : List Byte := []
  recVa   : Word64 := 0
  /-- the images as they were read when the record was accepted (R123) -/
  im      : Images := {}
  levels  : List Level := []
  scnt    : Nat := 0
  /-- gang device number of this device (R412) -/
  gdev    : Nat := 0
  /-- gang tile 96 × gang die + tile to the core that holds its strand (R121) -/
  place   : Tbl (Option Nat) := []
  unhalted : Nat := 0
  /-- the save area: each gang tile's save image, and what of its core the image has no place for (R384 to R386) -/
  area    : Tbl SaveImage := []
  saves   : Tbl Core := []
  /-- the release marks of its tesserae and of the doorbells pending for its cores while it is suspended, by gang tile and
  place (R284, R416) -/
  marks   : List (Nat × Nat × List Rel) := []
  /-- stopped by a trap that firmware cannot go on from (R368, R377): never resumed by the device -/
  escal   : Bool := false
  /-- the debug port has claimed its breakpoints (R456) -/
  claimed : Bool := false
  /-- the tenant's fabric map as the gang found it (R412, R418) -/
  fmap    : Tbl (BitVec 16) := []
deriving DecidableEq, Repr

/-- A tenant queue (R350, R352) as a queue engine holds it. -/
structure TQueue where
  ten    : Nat := 0
  hdr    : Nat := 0
  on     : Bool := false
  busy   : Option ChildOp := none
  claim  : Nat := 0
deriving DecidableEq, Repr

/-- A tenant (R437, R438). -/
structure Tenant where
  on     : Bool := false
  ptb    : Nat := 0
  fqb    : Nat := 0
  rqb    : Nat := 0
  hvec   : Nat := 0
  mlok   : Bool := false
  hvbt   : Nat := 0
  frames : List (Nat × Nat) := []
  wins   : List (Nat × Nat × Bool × Bool) := []
  fmap   : Tbl (BitVec 16) := []
  /-- stride scheduling, and whether the tenant had a candidate at the previous selection (R356) -/
  pass   : Nat := 0
  was    : Bool := false
  /-- the pending slot noticed by the latest scan: claim, PRI and RCLASS (R356) -/
  cand   : Option (Nat × Nat × Nat) := none
  /-- claims completed beyond DONEI of their queue, which does not pass one that is not: header address and claim (R357) -/
  doneC  : List (Nat × Nat) := []
  /-- priorities given by RAISE messages, and pending claims that EXPIRE has ended (R363) -/
  raised : List (Nat × Nat) := []
  expired : List Nat := []
  /-- record addresses of the fabric launches selected (R414) -/
  launched : List Nat := []
  /-- records held while the runtime queue is full, oldest first, with the TAG of each report -/
  rheld  : List (List Byte) := []
  rwi    : Nat := 0
  rri    : Nat := 0
deriving DecidableEq, Repr

/-- A message or reply from the device to the host (R417): TYPE, TEN, TAG, A0, A1, A2, payload. -/
structure Reply where
  type : Nat
  ten  : Nat := 0
  tag  : BitVec 32 := 0
  a0   : Word64 := 0
  a1   : Word64 := 0
  a2   : Word64 := 0
  data : List Byte := []
deriving DecidableEq, Repr

/-- A reply of the control channel (R436): TAG, status and payload. -/
structure CmdReply where
  tag    : BitVec 32
  status : Nat
  data   : List Byte := []
deriving DecidableEq, Repr

/-- A Vafort port (R410, R411): `acked` is the number of the oldest flit that has no acknowledgement, which heads `replay`, so
that the next flit sent has the number `acked` and the length of `replay`. -/
structure Port where
  up     : Bool := false
  spare  : Bool := false
  lanes  : List Nat := []
  /-- flits received, and the lanes that CRC failures are attributed to, with the number of the flit (R431) -/
  flits  : Nat := 0
  crcBad : List (Nat × Nat) := []
  rxSeq  : Nat := 0
  acked  : Nat := 0
  retry  : Nat := 0
  /-- retry requests sent, over all flits -/
  asked  : Nat := 0
  replay : List (List Byte) := []
  /-- the flits sent on the port, in order -/
  sent   : List (List Byte) := []
  inbox  : List (List Byte) := []
deriving DecidableEq, Repr

/-- A UCIe module (R417). -/
structure Module where
  trained : Bool := true
  slow    : Bool := false
  lanes   : List Nat := []
deriving DecidableEq, Repr

/-- What a strand on another device of a fabric gang has told this one: its arrival at a barrier's epoch, or with no level
that it has halted (R132, R133, R414). The gang is named by tenant, record address and the launch's number among those of the
record. -/
structure FarStrand where
  ten   : Nat
  rec_  : Nat
  nth   : Nat
  sidx  : Nat
  level : Option Nat
  epoch : Nat
deriving DecidableEq, Repr

/-- A peer device of the fabric as the links show it: its memory by physical address, its tenants' page-table roots
and whether it can be reached (R412, R413). -/
structure Peer where
  up   : Bool := false
  mem  : Mem := []
  ptb  : Tbl Nat := []
  bells : List (Nat × Nat) := []
  /-- gangs whose part it holds ready, and those whose part it has rejected, by tenant, record address and launch number -/
  parts : List (Nat × Nat × Nat) := []
  rejects : List (Nat × Nat × Nat) := []
deriving DecidableEq, Repr

/-- What a device of the fabric has told of its member's part of a collective (R336): the gang as for a `FarStrand`, the
member, the level and the ordinal; the packet, the lines of its source that have come, by offset / 64, and with 5 or 6 that it
has ended CANCELLED or FAULTED. -/
structure FarColl where
  ten   : Nat
  rec_  : Nat
  nth   : Nat
  sidx  : Nat
  level : Nat
  ord   : Nat
  packet : List Byte := []
  lines : Tbl (Option Nat) := []
  ended : Nat := 0
deriving DecidableEq, Repr

/-- A line of an HBM stack as the controller judges it (R425 to R428): its bytes in error, of the 64 and the 8 of metadata
after them, and whether it is marked. -/
structure LineErr where
  bad  : List Nat := []
  mark : Bool := false
deriving DecidableEq, Repr

/-- An error that R431 counts: logical die and tile (128 for the die's cache), CLASS of R433, the cycle of control core 0,
and whether the die stood at nominal voltage (R432). -/
structure SramErr where
  die     : Nat
  tile    : Nat
  cls     : Nat
  cycle   : Nat
  nominal : Bool
deriving DecidableEq, Repr

/-- A page under re-striping (R244), for the operation `token` of gang `owner`, or with no token for tenant queue `owner`. -/
structure Stripe where
  page  : Nat
  size  : Nat
  geo   : Nat
  done  : Nat
  owner : Nat
  token : Word64
deriving DecidableEq, Repr

/-- A RAS log record (R433). -/
structure LogRec where
  cls   : Nat
  unit  : Nat := 0
  flags : Nat := 0
  seq   : Nat := 0
  loc   : Nat := 0
  addr  : Nat := 0
  stamp : Nat := 0
deriving DecidableEq, Repr

/-- Who is named as the one to move next; plain data that stands for the order the outside world and timing give. -/
inductive Action where
  /-- the contexts of a core: the one whose next bundle comes first tries to issue it -/
  | core (c : Nat)
  /-- the running matrix routine of a core executes its next micro-operation -/
  | micro (c : Nat)
  /-- the `n`-th of a core's own engines and waits makes its next step -/
  | engine (c n : Nat)
  /-- an event of the part, a host message or a control command -/
  | event (i : Instr)
  /-- the bytes of a host message or of a control command, as they arrive -/
  | message (bs : List Byte)
  | command (bs : List Byte)
deriving DecidableEq, Repr

/-- How the slot instruction executed last came out. -/
inductive Verdict where
  /-- it took effect, or was guarded off -/
  | issued
  /-- it raised a trap at a step of R79 -/
  | trapped (stage slot code : Nat) (info : Word64)
  /-- it is held at issue (R40), with the hold reason of R450 -/
  | held (reason : Nat)
deriving DecidableEq, Repr

/-- The issue latch: the bundle being tried and what its slots tell each other (R40, R41, R73, R75). -/
structure Latch where
  words  : List Word32 := []
  /-- PFX of the bundle: RM0, RM1, LAT0, LAT1, RND, RW -/
  rm0    : Nat := 0
  rm1    : Nat := 0
  lat0   : Bool := false
  lat1   : Bool := false
  rnd    : Nat := 0
  rw     : Nat := 0
  /-- IMX of the bundle: target slot and extension -/
  imx    : Option (Nat × BitVec 23) := none
  /-- MARK of the bundle: expected cycle and tag -/
  mark   : Option (BitVec 20 × BitVec 6) := none
  /-- where the context goes on, when a branch has been taken -/
  next   : Option Word64 := none
  taken  : Bool := false
  flip   : Option Owed := none
  esc    : Bool := false
  /-- a vector slot has read the row latch (R144) -/
  latUsed : Bool := false
  /-- the bundle opens or closes a segment, so it is not counted in one (R387) -/
  seg    : Bool := false
  /-- TRAP of the bundle: its service code -/
  svc    : Option Word64 := none
  out    : Verdict := .issued
  /-- the bound of the wait that holds the bundle (R323) -/
  bound  : Option Nat := none
  /-- the cycle in which an MLDR that has begun to copy may issue (R190) -/
  mldr   : Option Nat := none
  /-- the tessera lines that a read of the held bundle waits to have filled again (R380) -/
  refetch : List Nat := []
  /-- every slot of the bundle has been judged on the state before it: what an interlock asks is asked no more (R40) -/
  judged : Bool := false
  /-- the free queue entries that the bundle's own writes leave over (R26, R380); none: all that are free -/
  spare  : Option Nat := none
  /-- the own tessera as it stood before the bundle, which RETT reads its frame from (R41, R395) -/
  before : Option Mem := none
deriving DecidableEq, Repr

/-- What is fused into the part at manufacture or derived from its fused secret: the device identifier, the hashes of
Helnor's key and of the debug key, the secret, and the attestation and key-wrap key pairs, modulus and private exponent, that
firmware derives from it (R419, R440, R444, R445). -/
structure Fuses where
  deviceId   : BitVec 64 := Config.deviceId
  helnorHash : List Nat := Config.helnorHash
  debugHash  : List Nat := Config.debugHash
  secret     : List Nat := Config.deviceSecret
  attKey     : Nat × Nat := Config.rsaGen (Crypto.hkdf32 secret [0x52, 0x53, 0x4E, 0x2D, 0x41, 0x54, 0x54])
  wrapKey    : Nat × Nat := Config.rsaGen (Crypto.hkdf32 secret [0x52, 0x53, 0x4E, 0x2D, 0x57, 0x52, 0x41, 0x50])
deriving DecidableEq, Repr

/-- The part (R2): its cores, memory and every unit the spec gives registers, records or queues. -/
structure State where
  cores  : Tbl Core := []
  /-- the core and context whose slot instruction `exec` runs -/
  focus  : Nat := 0
  cx     : CtxId := .cb0
  iss    : Latch := {}
  agenda : List Action := []
  /-- device memory by physical address, as the stacks hold it -/
  mem    : Mem := []
  lineErr : Tbl LineErr := []
  /-- integrity tags by line: 1 + tag + 2^32 × key slot; 0 for none (R425, R439) -/
  tags   : Tbl Nat := []
  /-- 1 + the geometry code of each 64 KiB frame that a re-stripe has moved; any other has geometry 0 (R242) -/
  frameGeo : Tbl Nat := []
  /-- the release marks of 8-byte locations at their homes: global ones by physical address / 8, those of a tessera by
  2^40 + 2^17 × core + offset / 8 (R284) -/
  rel    : Tbl (List Rel) := []
  /-- the STRLs that are not yet to be seen within their scopes (R274) -/
  unripe : List Unripe := []
  /-- the stamp of the latest write of each line at its home -/
  lastW  : Tbl (Nat × Nat) := []
  /-- the writes that each engine of the bed dies has made or read: 0 the mailbox, 1 the distributor, 2 the fault
  queues, 16 + q tenant queue q, 1024 + c the trace unit of core c, which notes only its own
  writes, 4096 + 16 c + p channel c of a peer at port p (R266, R284, R289, R293, R295) -/
  agentSeen : Tbl (List (Nat × Nat)) := []
  counts : Tbl Nat := []
  dies   : Tbl Die := []
  stripes : List Stripe := []
  /-- GEOT0 to GEOT15 as differences from their reset values (R240) -/
  geot   : Tbl Word64 := []
  gangs  : Tbl Gang := []
  nextGang : Nat := 1
  tenants : Tbl Tenant := []
  queues : Tbl TQueue := []
  /-- the distributor (R355, R356) -/
  dtq    : Tbl Word64 := []
  dtc    : Tbl Word64 := []
  rcls   : Tbl Word64 := []
  /-- tenants whose queue header failed, until the next write of their DTQ (R354) -/
  dtqBad : List Nat := []
  /-- the three registers as the latest selection took them, and the tenants whose DTQ has been written since (R355) -/
  dtqIn  : Tbl Word64 := []
  dtcIn  : Tbl Word64 := []
  rclsIn : Tbl Word64 := []
  dtqNew : List Nat := []
  /-- the candidate, by tenant and claim, that a time slice has made room for (R362) -/
  roomFor : Option (Nat × Nat) := none
  vpass  : Nat := 0
  /-- host memory, and what the device has sent the host -/
  hostMem : Mem := []
  replies : List Reply := []
  cmdReplies : List CmdReply := []
  nodeId : BitVec 16 := 0xFFFF
  ports  : Tbl Port := []
  mods   : Tbl Module := []
  peers  : Tbl Peer := []
  /-- strands of fabric gangs on other devices (R132, R133) -/
  farStrands : List FarStrand := []
  /-- parts of collectives on other devices (R336, R414) -/
  farColls : List FarColl := []
  /-- the die map as a difference from dies 0 to 7 on sites 0 to 3 and 5 to 8, and the failed sites (R404, R419, R460) -/
  dieMap : Tbl Nat := []
  failed : List Nat := []
  /-- the compute sites that have power (R407, R459, R460) -/
  sites  : List Nat := []
  /-- physical tile of each spared logical tile, keyed 96 × site + tile, and spare tiles used by site (R406, R460) -/
  tileMap : Tbl Nat := []
  tilesUsed : Tbl Nat := []
  /-- key slots: owner tenant and 64-byte key (R439) -/
  keys   : Tbl (Option (Nat × List Byte)) := []
  /-- firmware and lifecycle (R440 to R446) -/
  image  : Mem := []
  booted : Bool := false
  svn    : BitVec 32 := 0
  minSvn : BitVec 32 := 0
  lcs    : BitVec 3 := 2
  fuses  : Fuses := {}
  dbg    : Bool := false
  meas   : Tbl Nat := []
  /-- the challenge of the last UNLOCK_CHAL, until it has served -/
  chal   : Option Nat := none
  /-- scrubbing and repair (R427 to R433): the next line of each bed die's scrub and its passes; the rows moved to spare
  rows, by stack and place in it; the channel of each stack that its spare has taken; retired frames -/
  scrbPer : BitVec 16 := 0
  scrbEn : Bool := false
  scrbPass : BitVec 16 := 0
  scrubPos : Tbl (Nat × Nat) := []
  rowsMoved : List (Nat × Nat) := []
  chanMoved : List (Nat × Nat) := []
  retired : List Nat := []
  /-- stacks, dies and the like that PRED_FAIL has been logged for: UNIT and LOC -/
  flagged : List (Nat × Nat) := []
  /-- rows that have met errors: LOC, with none for an uncorrectable one or the scrub pass of a corrected one (R430) -/
  rowErrs : List (Nat × Option Nat) := []
  /-- errors of tiles and dies, and the tiles that a re-measurement has found to need sparing (R431, R432) -/
  sramErrs : List SramErr := []
  demand : List (Nat × Nat) := []
  /-- the service log: host address of its ring's header, the last SEQ, and records dropped on a full ring (R433) -/
  logRing : Nat := 0
  logSeq : Nat := 0
  logDrop : Nat := 0
  /-- power (R459 to R464): limits, the hottest junction and package power, and the thermal state number -/
  powered : Bool := true
  plim   : BitVec 12 := 0xA28
  tlim   : BitVec 8 := 100
  temp   : Nat := 0
  watts  : Nat := 0
  thermal : Nat := 0
  /-- values that the debug port has read (R457) -/
  dbgOut : List Vec := []
  /-- free-value counter of the model -/
  freeN  : Nat := 0
deriving DecidableEq, Repr

/-- The part right after device reset: every field at its default. -/
def State.reset : State := {}

end Sys2Proof.Machine
end

