-- ==== Sys2Proof/Machine/Ops.lean ====
section
/-! DEFINITION. The named operations over registers, pending writes, flips, the own tessera and the runtime queue,
and the one way a trap is taken and left (01_the_sequential_machine.md, 10 R222 to R226, 18 R367 to R377). -/

namespace Sys2Proof.Machine

/-- How a meaning ends. -/
abbrev Out := Host.Outcome State Fault Refusal

/-! ### Cores and contexts -/

/-- A core's record. -/
def State.core (s : State) (c : Nat) : Core := Tbl.get {} s.cores c

/-- The part with one core's record replaced. -/
def State.setCore (s : State) (c : Nat) (k : Core) : State := { s with cores := Tbl.set {} s.cores c k }

/-- One context of a core (R12). -/
def Core.ctx (k : Core) : CtxId → Ctx
  | .cb0 => k.cb0
  | .cb1 => k.cb1
  | .svc => k.svc

/-- The core with one context replaced. -/
def Core.setCtx (k : Core) (cx : CtxId) (x : Ctx) : Core :=
  match cx with
  | .cb0 => { k with cb0 := x }
  | .cb1 => { k with cb1 := x }
  | .svc => { k with svc := x }

/-- The core in focus. -/
def State.kore (s : State) : Core := s.core s.focus

/-- The part with the core in focus replaced. -/
def State.setKore (s : State) (k : Core) : State := s.setCore s.focus k

/-- The context in focus: the one whose slot instruction runs. -/
def State.me (s : State) : Ctx := s.kore.ctx s.cx

/-- The part with the context in focus replaced. -/
def State.setMe (s : State) (x : Ctx) : State := s.setKore (s.kore.setCtx s.cx x)

/-- Any context of any core. -/
def State.ctxAt (s : State) (c : Nat) (cx : CtxId) : Ctx := (s.core c).ctx cx

/-- The part with a context of a core replaced. -/
def State.setCtxAt (s : State) (c : Nat) (cx : CtxId) (x : Ctx) : State := s.setCore c ((s.core c).setCtx cx x)

/-- The full context that SVC serves; CB0 when it serves none (R367). -/
def Core.servedId (k : Core) : CtxId := (k.serving.map (·.1)).getD .cb0

/-- The context whose strand registers an instruction in focus reads: in SVC the served one (R388). -/
def State.strandId (s : State) : CtxId := if s.cx = .svc then s.kore.servedId else s.cx

/-- The strand's context: the served one when SVC is in focus (R388). -/
def State.strand (s : State) : Ctx := s.kore.ctx s.strandId

/-- The part with the strand's context replaced. -/
def State.setStrand (s : State) (x : Ctx) : State := s.setKore (s.kore.setCtx s.strandId x)

/-- The other full context. -/
def otherCtx : CtxId → CtxId
  | .cb0 => .cb1
  | .cb1 => .cb0
  | .svc => .svc

/-- The token BANK code of a context (R300). -/
def bankOf : CtxId → Nat
  | .cb0 => 0
  | .cb1 => 1
  | .svc => 2

/-- The context of a BANK code. -/
def ctxOfBank : Nat → CtxId
  | 0 => .cb0
  | 1 => .cb1
  | _ => .svc

/-- The primary full context of a core: STRM.PRIM names it (R49). -/
def Core.primary (k : Core) : CtxId := if k.prim then .cb1 else .cb0

/-- The context of the core that issues as primary: SVC takes the role of the context it serves (R46, R367). -/
def Core.isPrimary (k : Core) (cx : CtxId) : Bool :=
  match cx with
  | .svc => k.servedId = k.primary
  | c => c = k.primary

/-- A core is one of the four control cores (R391). -/
def isControl (c : Nat) : Bool := decide (768 ≤ c)

/-- An event of R453 is counted `n` times in every counter that selects it; `cx` is the context it belongs to, none
for an event of the core. -/
def Core.count (k : Core) (ev : Nat) (cx : Option CtxId) (n : Nat) : Core :=
  if k.pmcsel = 0 ∨ n = 0 ∨ ev = 0 then k
  else
    let mine := match k.pmcsel.toNat / 2 ^ 32 % 4, cx with
      | _, none => true
      | 0, some c => c != .svc
      | 1, some c => c == .cb0
      | 2, some c => c == .cb1
      | _, some c => c == .svc
    if !mine then k
    else { k with pmc := (List.range 4).foldl (fun (t : Tbl Word64) i =>
      if k.pmcsel.toNat / 2 ^ (8 * i) % 256 = ev then
        Tbl.upd 0 t i (fun v => BitVec.ofNat 64 ((v.toNat + n) % 2 ^ 48)) else t) k.pmc }

/-- `n` free bytes, where the spec gives a read no data. -/
def State.freeBytes (s : State) (n : Nat) : State × List Byte :=
  ({ s with freeN := s.freeN + n }, (List.range n).map (fun i => Config.freeByte (s.freeN + i)))

/-- The part with another issue latch. -/
def State.setIss (s : State) (l : Latch) : State := { s with iss := l }

/-- A gang's record. -/
def State.gang (s : State) (g : Nat) : Gang := Tbl.get {} s.gangs g

/-- The part with a gang's record replaced. -/
def State.setGang (s : State) (g : Nat) (x : Gang) : State := { s with gangs := Tbl.set {} s.gangs g x }

/-- A tenant's record. -/
def State.tenant (s : State) (t : Nat) : Tenant := Tbl.get {} s.tenants t

/-- The part with a tenant's record replaced. -/
def State.setTenant (s : State) (t : Nat) (x : Tenant) : State := { s with tenants := Tbl.set {} s.tenants t x }

/-- A die's record. -/
def State.die (s : State) (d : Nat) : Die := Tbl.get {} s.dies d

/-- The part with a die's record replaced. -/
def State.setDie (s : State) (d : Nat) (x : Die) : State := { s with dies := Tbl.set {} s.dies d x }

/-- The gang of the context in focus; in SVC, of the served context. -/
def State.myGang (s : State) : Gang := s.gang s.strand.gang

/-! ### Two-faced registers (R13 to R19) -/

/-- The visible face (R18). -/
def Two.vis (t : Two) : Vec := if t.sel then t.f1 else t.f0

/-- The hidden face (R18). -/
def Two.hid (t : Two) : Vec := if t.sel then t.f0 else t.f1

/-- The register with its hidden face set. -/
def Two.setHid (t : Two) (v : Vec) : Two := if t.sel then { t with f0 := v } else { t with f1 := v }

/-- The register with its visible face set. -/
def Two.setVis (t : Two) (v : Vec) : Two := if t.sel then { t with f1 := v } else { t with f0 := v }

/-- The table key of a register: class code of R374, then the physical index. -/
def regKey (cls idx : Nat) : Nat := 32 * cls + idx

/-- A two-faced register. -/
def Ctx.two (x : Ctx) (key : Nat) : Two := Tbl.get {} x.regs key

/-- The context with one two-faced register replaced. -/
def Ctx.setTwo (x : Ctx) (key : Nat) (t : Two) : Ctx := { x with regs := Tbl.set {} x.regs key t }

/-- The visible face of a register by its key. -/
def Ctx.vis (x : Ctx) (key : Nat) : Vec := (x.two key).vis

/-- The physical index of a logical vector register (R50). -/
def Ctx.physV (x : Ctx) (n : Nat) : Nat :=
  if x.rot && decide (24 ≤ n) then 24 + (n - 24 + 8 - x.rpos.toNat) % 8 else n

/-- The physical index of a logical predicate (R50). -/
def Ctx.physP (x : Ctx) (n : Nat) : Nat :=
  if x.rot && decide (8 ≤ n) then 8 + (n - 8 + 8 - x.rpos.toNat) % 8 else n

/-- Visible scalar; s0 reads zero (R14). -/
def Ctx.s (x : Ctx) (n : Nat) : Word64 := if n = 0 then 0 else (x.vis (regKey 0 n)).setWidth 64

/-- Visible predicate, by its logical number. -/
def Ctx.p (x : Ctx) (n : Nat) : Pred := (x.vis (regKey 1 (x.physP n))).setWidth 128

/-- Visible matrix parameter. -/
def Ctx.m (x : Ctx) (n : Nat) : Word64 := (x.vis (regKey 2 n)).setWidth 64

/-- Visible token register. -/
def Ctx.k (x : Ctx) (n : Nat) : Word64 := (x.vis (regKey 3 n)).setWidth 64

/-- Visible loop counter. -/
def Ctx.lc (x : Ctx) (n : Nat) : BitVec 32 := (x.vis (regKey 4 n)).setWidth 32

/-- Visible vector register, by its logical number. -/
def Ctx.v (x : Ctx) (n : Nat) : Vec := x.vis (regKey 5 (x.physV n))

/-- The destination key of scalar `n`. -/
def keyS (n : Nat) : Nat := regKey 0 n
/-- The destination key of logical predicate `n`. -/
def Ctx.keyP (x : Ctx) (n : Nat) : Nat := regKey 1 (x.physP n)
/-- The destination key of matrix parameter `n`. -/
def keyM (n : Nat) : Nat := regKey 2 n
/-- The destination key of token register `n`. -/
def keyK (n : Nat) : Nat := regKey 3 n
/-- The destination key of loop counter `n`. -/
def keyLc (n : Nat) : Nat := regKey 4 n
/-- The destination key of logical vector `n`. -/
def Ctx.keyV (x : Ctx) (n : Nat) : Nat := regKey 5 (x.physV n)

/-- The width mask of a predicate over 32-bit lanes: lane n's 32 bits are ones when bit n is set. -/
def laneMask (p : Pred) : Vec :=
  if p = BitVec.allOnes 128 then BitVec.allOnes 4096
  else BitVec.ofNat 4096 ((List.range 128).foldl
    (fun acc i => if p.getLsbD i then acc + 0xFFFFFFFF * 2 ^ (32 * i) else acc) 0)

/-- `new` in the active lanes, `old` in the others (R37). -/
def mergeLanes (p : Pred) (new old : Vec) : Vec :=
  if p = BitVec.allOnes 128 then new else (new &&& laneMask p) ||| (old &&& ~~~ laneMask p)

/-- A value with some lanes active over the visible value: bits of a predicate, 32-bit lanes otherwise (R37, R140). -/
def mergeFor (key : Nat) (p : Pred) (new old : Vec) : Vec :=
  if key / 32 = 1 then (new &&& p.setWidth 4096) ||| (old &&& ~~~ (p.setWidth 4096)) else mergeLanes p new old

/-! ### Writes, double writes and the pending-write queue (R25 to R35) -/

/-- Stamp `q` is older than `t` (R32). -/
def olderStamp (q t : BitVec 32) : Bool := q != t && decide ((t - q).toNat < 2147483648)

/-- A write to `key` with delay `land` meets a write due in the same phase (R33, R34). -/
def Ctx.collides (x : Ctx) (key land : Nat) : Bool :=
  (decide (land = 0) && (x.two key).w) || x.pwq.any (fun e => e.reg == key && e.rem == land)

/-- A later write stands in the hidden face of a register, so that one with stamp `stamp` is discarded (R32). -/
def Ctx.overtaken (x : Ctx) (key : Nat) (stamp : BitVec 32) : Bool :=
  match (x.two key).stamp with
  | some q => olderStamp stamp q
  | none => false

/-- A value arrives in the hidden face of a register that is due: inactive lanes take the visible values, and a write
with an older stamp than the face's is discarded (R28, R32, R37). -/
def Ctx.landIn (x : Ctx) (key : Nat) (v : Vec) (lanes : Pred) (stamp : BitVec 32) : Ctx :=
  if x.overtaken key stamp then x
  else
    let t := x.two key
    x.setTwo key { (t.setHid (mergeFor key lanes v t.vis)) with stamp := some stamp }

/-- A fixed-latency result (R18, R25, R26): with LAND 0 into the hidden face, with LAND n through a queue entry. A
write to s0 is discarded (R14). `ready` is the cycle of R45. A write due in the same phase as one of an earlier phase makes
its double write known as it issues (R33, log entry 109). -/
def Ctx.writeReg (x : Ctx) (key : Nat) (v : Vec) (lanes : Pred) (land ready : Nat) : Ctx :=
  if key = 0 then x
  else
    let x := { x with dw := x.dw || x.collides key land }
    if land = 0 then
      let y := x.landIn key v lanes x.stamp
      { (y.setTwo key { (y.two key) with w := true }) with ready := max y.ready ready }
    else
      { x with pwq := x.pwq ++ [{ reg := key, rem := land, val := some v, ready := ready, stamp := x.stamp,
                                  lanes := lanes }] }

/-- An entry takes its place in the queue, which stands in the order of the stamps (R373). -/
def queueEntry (e : Pwq) : List Pwq → List Pwq
  | [] => [e]
  | f :: r => if olderStamp e.stamp f.stamp then e :: f :: r else f :: queueEntry e r

/-- A poisoned result of LAND 0 and fixed latency takes an entry made for it, if one of the `free` entries is left (R26, R380
step 3); with none left its register takes the value and UE_DATA is pending at once (log entry 126). -/
def Ctx.poisoned (x : Ctx) (e : Pwq) (free : Nat) : Ctx :=
  if 0 < free then { x with pwq := queueEntry e x.pwq }
  else { (x.landIn e.reg (e.val.getD 0) e.lanes e.stamp) with asyncs := x.asyncs ++ [{ code := 13 }] }

/-- A variable-latency read takes a queue entry whatever its LAND (R26, R29). A read into s0 takes none (R249). -/
def Ctx.expect (x : Ctx) (key : Nat) (lanes : Pred) (land acc : Nat) : Ctx :=
  if key = 0 then x
  else
    let x := { x with dw := x.dw || x.collides key land }
    let x := if land = 0 then x.setTwo key { (x.two key) with w := true } else x
    { x with pwq := x.pwq ++ [{ reg := key, rem := land, stamp := x.stamp, lanes := lanes, acc := acc }] }

/-- A value arrives for the entry that waits for access `acc`, in the queue and, for a read of an earlier phase, in the
phase-start checkpoint (R382). -/
def Ctx.deliver (x : Ctx) (acc : Nat) (v : Vec) (ready : Nat) (poison : Bool) : Ctx :=
  let take := fun (e : Pwq) =>
    if e.acc == acc && e.val.isNone then { e with val := some v, ready := ready, poison := e.poison || poison } else e
  { x with pwq := x.pwq.map take, check := { x.check with pwq := x.check.pwq.map take } }

/-- A due entry with its value at hand, and clean, at cycle `now`. -/
def Pwq.canLand (e : Pwq) (now : Nat) : Bool :=
  e.rem == 0 && e.val.isSome && decide (e.ready ≤ now) && !e.poison

/-- The entry's value lands (R28). -/
def Ctx.landEntry (x : Ctx) (e : Pwq) : Ctx := x.landIn e.reg (e.val.getD 0) e.lanes e.stamp

/-- Every entry that can land by cycle `now` lands, in queue order, and is freed (R26, R28). -/
def Ctx.settle (x : Ctx) (now : Nat) : Ctx :=
  let y := (x.pwq.filter (·.canLand now)).foldl Ctx.landEntry x
  { y with pwq := x.pwq.filter (fun e => !e.canLand now) }

/-- The DESC word of an entry (R374). -/
def Pwq.desc (e : Pwq) (ldx : Option Nat) : Nat :=
  e.reg / 32 + 8 * (e.reg % 32) + 256 * e.rem + 1024 * e.poison.toNat + 2048 * e.val.isSome.toNat
    + 4096 * (decide (e.reg / 32 = 5) && e.val.isSome).toNat
    + (match ldx with | some j => 8192 + 16384 * j | none => 0)

/-- The table with every entry changed by `f`, in canonical form. -/
def Tbl.mapVals {α : Type} [DecidableEq α] (d : α) (f : α → α) (t : Tbl α) : Tbl α :=
  t.filterMap (fun e => if f e.2 = d then none else some (e.1, f e.2))

/-- A register at the flip: the faces exchange when W is set (R20 step 2). -/
def Two.flip (t : Two) : Two :=
  if t.w then { t with sel := !t.sel, w := false, stamp := none } else { t with stamp := none }

/-- R20 step 4: every entry comes one flip nearer, and one that becomes due sets W, or DW when it finds W set. -/
def Ctx.nearer (x : Ctx) : List Pwq → Ctx
  | [] => x
  | e :: es =>
    if e.rem = 0 then Ctx.nearer { x with pwq := x.pwq ++ [e] } es
    else if e.rem = 1 then
      let t := x.two e.reg
      let y := (x.setTwo e.reg { t with w := true })
      Ctx.nearer { y with dw := y.dw || t.w, pwq := y.pwq ++ [{ e with rem := 0 }] } es
    else Ctx.nearer { x with pwq := x.pwq ++ [{ e with rem := e.rem - 1 }] } es

/-- A region at the flip (R20 step 3, R222). -/
def Pair.flip (p : Pair) : Pair := if p.fresh then { p with fresh := false } else if p.en then { p with sel := !p.sel } else p

/-- The flip of R20, steps 2 to 5, with everything due landed first. -/
def Ctx.flip (x : Ctx) : Ctx :=
  let due := x.pwq.filter (fun e => e.rem == 0 && e.val.isSome)
  let rest := x.pwq.filter (fun e => !(e.rem == 0 && e.val.isSome))
  let y := due.foldl Ctx.landEntry x
  let z := { y with regs := Tbl.mapVals {} Two.flip y.regs, pairs := Tbl.mapVals {} Pair.flip y.pairs, pwq := [] }
  let z := z.nearer rest
  { z with phn := z.phn + 1 }

/-! ### Paired regions of the own tessera (R222 to R226) -/

/-- The region of the context that holds a logical offset, in either half. -/
def Ctx.pairAt (x : Ctx) (off : Nat) : Option (Nat × Pair) :=
  x.pairs.find? (fun e => e.2.en && decide (e.2.base ≤ off) && decide (off < e.2.base + 2 * e.2.half))

/-- The physical offset behind a logical byte of an S or V0 access, for a load or a store; none in the range that
raises PERM (R223). -/
def Ctx.mapOwn (x : Ctx) (store : Bool) (off : Nat) : Option Nat :=
  match x.pairAt off with
  | none => some off
  | some (_, p) =>
    if off < p.base + p.half then some (if p.sel != store then off + p.half else off) else none

/-- No byte of the `n` bytes from `off` lies in a hidden range (R223). -/
def Ctx.ownOk (x : Ctx) (off n : Nat) : Bool :=
  x.pairs.isEmpty || (List.range n).all (fun i => (x.mapOwn false (off + i)).isSome)

/-- The `n`-byte number that the context's S or V0 slot loads from logical offset `off` (R99, R223). -/
def Core.loadOwn (k : Core) (x : Ctx) (off n : Nat) : Nat :=
  if x.pairs.isEmpty then Mem.read k.tess off n
  else (List.range n).foldr (fun i acc =>
    (Mem.byte k.tess ((x.mapOwn false (off + i)).getD 0)).toNat + 256 * acc) 0

/-- The tessera after the context's S or V0 slot stores the low `n` bytes of `v` at logical offset `off`. -/
def storeBytes (x : Ctx) : Mem → Nat → Nat → Nat → Mem
  | m, _, 0, _ => m
  | m, off, n + 1, v =>
    storeBytes x (Mem.setByte m ((x.mapOwn true off).getD off) (BitVec.ofNat 8 v)) (off + 1) n (v / 256)

/-- The regions after a store by the declaring context to logical bytes: the hidden half becomes DIRTY (R226). -/
def Ctx.dirtied (x : Ctx) (off n : Nat) : Ctx :=
  { x with pairs := Tbl.mapVals {} (fun p =>
      if p.en && p.ref && decide (off < p.base + p.half) && decide (p.base < off + n) then
        (if p.sel then { p with dirty0 := true } else { p with dirty1 := true })
      else p) x.pairs }

/-- The physical lines that `n` bytes from a logical offset reach as a store. -/
def Ctx.storeLines (x : Ctx) (off n : Nat) : List Nat :=
  ((List.range n).map (fun i => (x.mapOwn true (off + i)).getD (off + i) / 64)).dedup

/-- A physical line lies in a hidden half of the context. -/
def Ctx.inHidden (x : Ctx) (l : Nat) : Bool :=
  x.pairs.any (fun e =>
    let lo := if e.2.sel then e.2.base else e.2.base + e.2.half
    e.2.en && decide (lo ≤ 64 * l) && decide (64 * l < lo + e.2.half))

/-- The phase has written physical lines: those of hidden halves belong to what a replay takes back (R382, R397). -/
def Ctx.wrote (x : Ctx) (ls : List Nat) : Ctx :=
  if x.pairs.isEmpty then x else { x with hidW := (x.hidW ++ ls.filter x.inHidden).dedup }

/-- The core after a store of the context to its own tessera (R100, R223, R226). -/
def Core.storeOwn (k : Core) (cx : CtxId) (off n v : Nat) : Core :=
  let x := k.ctx cx
  let k := { k with tess := if x.pairs.isEmpty then Mem.write k.tess off n v else storeBytes x k.tess off n v }
  if x.pairs.isEmpty then k else k.setCtx cx ((x.dirtied off n).wrote (x.storeLines off n))

/-- The regions after a write to physical bytes by someone other than the declaring context's slots, and not a fill from
global memory: a refetchable half that it meets becomes DIRTY (R226). -/
def Ctx.spoiled (x : Ctx) (off n : Nat) : Ctx :=
  if x.pairs.isEmpty then x
  else
    let spoil := fun (p : Pair) =>
      let hit := fun (lo : Nat) => decide (off < lo + p.half) && decide (lo < off + n)
      if p.en && p.ref then { p with dirty0 := p.dirty0 || hit p.base, dirty1 := p.dirty1 || hit (p.base + p.half) } else p
    { x with pairs := Tbl.mapVals {} spoil x.pairs }

/-- The store lies wholly inside paired regions of the context (R381). -/
def Ctx.inPair (x : Ctx) (off n : Nat) : Bool :=
  (List.range n).all (fun i => (x.pairAt (off + i)).isSome)

/-- The bytes of every hidden half, as the phase-start checkpoint keeps them (R382). -/
def Core.hiddenBytes (k : Core) (x : Ctx) : List (Nat × Byte) :=
  if x.pairs.isEmpty then []
  else x.pairs.flatMap (fun e =>
    let p := e.2
    let lo := if p.sel then p.base else p.base + p.half
    if p.en then k.tess.filter (fun c => decide (lo ≤ c.1) && decide (c.1 < lo + p.half)) else [])

/-! ### When an owed flip completes (R20 step 1, R22) -/

/-- Whether a state code is settled (R302). -/
def settledCode (n : Nat) : Bool := decide (4 ≤ n)
/-- Whether a state code is complete (R302). -/
def completeCode (n : Nat) : Bool := n == 4 || n == 5 || n == 7

/-- The operations of a context that its current phase's flip waits for (R225). -/
def Core.flipOps (k : Core) (cx : CtxId) : List ChildOp :=
  k.ops.filter (fun o => o.cx == cx && o.due == some (k.ctx cx).phn)

/-- The cycle in which the owed flip of a context completes; none while something it waits for is missing, or a read of
the context is being redone (R22, R380). -/
def Core.flipTime (k : Core) (cx : CtxId) : Option Nat :=
  let x := k.ctx cx
  match x.owed with
  | none => none
  | some o =>
    if k.delayed.any (fun d => d.cx == cx && !d.store && ((d.land == 0 && d.reg != 0) || d.refetch)) then none
    else if x.pwq.any (fun e => e.rem == 0 && e.val.isNone) then none
    else if (k.flipOps cx).any (fun p => !settledCode p.state) then none
    else some ((x.pwq.filter (·.rem == 0)).foldl (fun t e => max t e.ready)
      ((k.flipOps cx).foldl (fun t p => max t p.doneAt) (max (o.issued + 1) x.ready)))

/-- The first due entry that is poisoned: its flip raises UE_DATA and stays owed (R380). -/
def Ctx.poisonDue (x : Ctx) : Option Pwq := x.pwq.find? (fun e => e.rem == 0 && e.poison)

/-- The phase-start checkpoint of a context (R382). -/
def Core.checkpoint (k : Core) (x : Ctx) : Check :=
  { regs := x.regs, pwq := x.pwq, lr := x.lr, tail := x.tail, rpos := x.rpos, dw := x.dw, segCnt := x.segCnt,
    segSig := x.segSig, sega := x.sega, seqs := x.seqs, dones := x.dones, opOrder := k.opOrder, pairBytes := k.hiddenBytes x }

/-- The context at the start of a phase whose flip completed in cycle `t` (R383). -/
def Core.newPhase (k : Core) (x : Ctx) (t : Nat) : Ctx :=
  let x := { x with owed := none, ready := 0, clock := max x.clock t, pstart := x.pc, esc := false, rpl := false,
                    phase0 := x.bundles, transient := false, resid := false, hidW := [], ckKeys := [],
                    skipped := x.skipped + (t - x.clock) }
  { x with check := k.checkpoint x }

/-- A context takes on the order of an acquire: the writes `deps` come before every later access of it (R271, R284). -/
def Ctx.acquire (x : Ctx) (deps : List (Nat × Nat)) : Ctx :=
  if deps.isEmpty then x else { x with must := (x.must ++ deps).dedup }

/-- The stamped writes that a context has made or read. -/
def Ctx.seen (x : Ctx) : List (Nat × Nat) := (x.notes.map (·.stamp)).dedup

/-- A value that SVC has written to PRIM takes effect (R49). -/
def Core.settlePrim (k : Core) : Core :=
  match k.primSet with
  | some (b, _) => { k with prim := b, primSet := none }
  | none => k

/-- The owed flip completes: R20, then LOOPF's TAIL and RPOS (R51), then the new phase; the context comes after the
operations that the flip waited for (R291), and a partner's flip gives PRIM back to a context that was parked (R379).
The decrement of TAIL was decided as the LOOPF issued and finds TAIL as it then stands, which an SWR may have written in
between (log entry 102). -/
def Core.doFlip (k : Core) (cx : CtxId) (t : Nat) : Core :=
  let x := k.ctx cx
  let o := x.owed.getD {}
  let y := x.flip.acquire ((k.flipOps cx).flatMap (·.seen))
  let y := { y with tail := if o.ftl && y.tail != 0 then y.tail - 1 else y.tail,
                    rpos := if o.frot then y.rpos + 1 else y.rpos }
  let k := (k.count 3 (some cx) (t - x.clock)).setCtx cx (k.newPhase y t)
  match k.primWas with
  | some b => if k.parked.isEmpty && cx != .svc && k.isPrimary cx then { k with prim := b, primWas := none } else k
  | none => k

/-- The owed flip of a context tries to complete. It stays owed while the context is stopped by a trap (R372) and while a
transient of its phase is still to be judged (R382); with a poisoned entry due, UE_DATA is raised and it stays owed
(R380); otherwise it completes once nothing is awaited (R20, R22). -/
def Core.tryFlip (k : Core) (cx : CtxId) : Core :=
  let x := k.ctx cx
  if x.trapped && cx != .svc || x.transient || x.resid then k
  else match k.flipTime cx with
  | none => k
  | some t =>
    match x.poisonDue with
    | some e =>
      if x.asyncs.any (·.code == 13) then k
      else k.setCtx cx { x with asyncs := x.asyncs ++ [{ code := 13, info := BitVec.ofNat 64 (e.desc none) }] }
    | none => k.doFlip cx t

/-! ### Guards and the three ways a slot instruction comes out (R36 to R42) -/

/-- The guard of a slot other than a vector slot is on (R36). -/
def State.guardOn (s : State) (h : Hdr) : Bool :=
  !h.ge || ((s.me.p h.g.toNat).getLsbD 0 != h.gn)

/-- The active lanes of a vector instruction (R37). -/
def State.lanes (s : State) (h : Hdr) : Pred :=
  if h.ge then (if h.gn then ~~~ (s.me.p h.g.toNat) else s.me.p h.g.toNat) else BitVec.allOnes 128

/-- The instruction has taken effect, or was guarded off. -/
def State.done (s : State) : Out := .next (s.setIss { s.iss with out := .issued })

/-- The instruction holds its bundle at issue (R40), for a reason of R450. -/
def State.hold (s : State) (reason : Nat) : Out := .next (s.setIss { s.iss with out := .held reason })

/-- LIM, as a bound: none when waits are not bounded (R321, R323). -/
def State.lim (s : State) : Option Nat := if s.strand.wdt = 0 then none else some s.strand.wdt.toNat

/-- A wait holds its bundle, for at most `bound` cycles (R323, R450). -/
def State.waitFor (s : State) (bound : Option Nat) : Out :=
  .next (s.setIss { s.iss with out := .held 5, bound := bound })

/-- A guarded instruction of slots S, M, C and X: guarded off it has no effect (R38). -/
def State.whenOn (s : State) (h : Hdr) (k : State → Out) : Out := if s.guardOn h then k s else s.done

/-! ### The tenant runtime queue (R418) -/

/-- The bytes of a runtime record. -/
def runtimeBytes (kind gang token code : Nat) (tail : List Byte) : List Byte :=
  natToBytes 8 kind ++ natToBytes 8 gang ++ natToBytes 8 token ++ natToBytes 8 code
    ++ (tail ++ List.replicate 32 0).take 32

/-- A record appended to a tenant's runtime ring, and its REPORT sent; the ring is full when no slot is free. -/
def State.putRuntime (s : State) (ten : Nat) (r : List Byte) : State :=
  let t := s.tenant ten
  let slotb := Mem.read s.hostMem (t.rqb + 0x20) 8
  let nslot := max 1 (Mem.read s.hostMem (t.rqb + 0x18) 4)
  let m := Mem.setBytes s.hostMem (slotb + 64 * (t.rwi % nslot)) r
  let s := { s with hostMem := Mem.write m t.rqb 8 (t.rwi + 1) }
  { (s.setTenant ten { t with rwi := t.rwi + 1 }) with
      replies := s.replies ++ [{ type := 0x85, ten := ten, tag := BitVec.ofNat 32 t.hvec,
                                 a0 := BitVec.ofNat 64 t.rwi }] }

/-- The runtime ring of a tenant has a free slot. -/
def State.runtimeRoom (s : State) (ten : Nat) : Bool :=
  let t := s.tenant ten
  decide (t.rwi - t.rri < Mem.read s.hostMem (t.rqb + 0x18) 4)

/-- A runtime record: written and reported when there is room and nothing is held back, held in order otherwise. -/
def State.runtimeRecord (s : State) (ten kind gang token code : Nat) (tail : List Byte) : State :=
  let t := s.tenant ten
  let r := runtimeBytes kind gang token code tail
  if !t.on then s
  else if t.rheld.isEmpty && s.runtimeRoom ten then s.putRuntime ten r
  else s.setTenant ten { t with rheld := t.rheld ++ [r] }

/-- The 32 bytes of a record of the service log (R433). -/
def LogRec.bytes (r : LogRec) : List Byte :=
  natToBytes 1 r.cls ++ natToBytes 1 r.unit ++ natToBytes 2 r.flags ++ natToBytes 4 r.seq ++ natToBytes 8 r.loc
    ++ natToBytes 8 r.addr ++ natToBytes 8 r.stamp

/-- Free slots of the service log ring in host memory, by its header (R350, R433); a header without a number of slots that
R350 allows has none. -/
def State.logRoom (s : State) : Nat :=
  let n := Mem.read s.hostMem (s.logRing + 0x18) 4
  if 2 ≤ n ∧ n ≤ 65536 ∧ 2 ^ Nat.log2 n = n then n - (Mem.read s.hostMem s.logRing 8 - Mem.read s.hostMem (s.logRing + 8) 8)
  else 0

/-- A record is written into the next slot of the service log ring, numbered and stamped with control core 0's CYC (R433). -/
def State.putLog (s : State) (r : LogRec) : State :=
  let wi := Mem.read s.hostMem s.logRing 8
  let slot := Mem.read s.hostMem (s.logRing + 0x20) 8 + 32 * (wi % Mem.read s.hostMem (s.logRing + 0x18) 4)
  let r := { r with seq := s.logSeq + 1, stamp := (s.core 768).cb0.clock }
  { s with hostMem := Mem.write (Mem.setBytes s.hostMem slot r.bytes) s.logRing 8 (wi + 1), logSeq := s.logSeq + 1 }

/-- A record of the service log (R433): dropped and counted while the ring is full, and the first record that finds room
again is LOST. -/
def State.logErr (s : State) (cls unit flags loc addr : Nat) : State :=
  let s := if s.logDrop = 0 ∨ s.logRoom = 0 then s
    else { (s.putLog { cls := 19, addr := s.logDrop }) with logDrop := 0 }
  if s.logRoom = 0 then { s with logDrop := s.logDrop + 1 }
  else s.putLog { cls := cls, unit := unit, flags := flags, loc := loc, addr := addr }

/-- The logical die of a core; control cores stand on bed die 0. -/
def dieOf (c : Nat) : Nat := if isControl c then 8 else c / 96

/-- The site of a logical die (R404). -/
def State.siteOf (s : State) (d : Nat) : Nat := Tbl.get 0 s.dieMap d ^^^ (if d < 4 then d else d + 1)

/-- SRAM error counters of SECNT (R429), by field: 0 DCE, 1 ICE, 2 TCE, 3 ACE, 4 LCE, 5 UE; saturating. -/
def Core.countErr (k : Core) (field : Nat) : Core :=
  { k with secnt := Tbl.upd 0 k.secnt field (fun n => if n = 255 then n else n + 1) }

/-- The LOC word of a structure of a core's tile (R433): 0 tessera, 1 accumulator memory, 2 lintel, with which the routine
store is counted (R429, DESIGN CHOICE: the rule has no code for it), 3 instruction cache, 5 datapath. -/
def State.sramLoc (s : State) (c st : Nat) : Nat :=
  let site := s.siteOf (dieOf c)
  let t := Tbl.get 0 s.tileMap (96 * site + c % 96)
  site + 16 * (if t = 0 then c % 96 else t) + 2048 * (if st = 6 then 2 else st)

/-- An error of a class at a tile of a die, 128 for its cache, is noted for the thresholds (R431, R432). -/
def State.noteErr (s : State) (die tile cls : Nat) : State :=
  { s with sramErrs := s.sramErrs ++ [⟨die, tile, cls, (s.core 768).cb0.clock, !(s.die die).excursion⟩] }

/-- An uncorrectable SRAM read of a core's tile is counted and logged (R429, R431, R433). -/
def State.sramUe (s : State) (c st addr flags : Nat) : State :=
  ((s.setCore c ((s.core c).countErr 5)).noteErr (dieOf c) (c % 96) 5).logErr 5 2 flags (s.sramLoc c st) addr

/-- A corrected SRAM read of a core's tile is counted in a field of SECNT and logged (R380, R429, R431, R433). -/
def State.sramCe (s : State) (c st field addr : Nat) : State :=
  ((s.setCore c ((s.core c).countErr field)).noteErr (dieOf c) (c % 96) 4).logErr 4 2 1 (s.sramLoc c st) addr

/-- Lines of a structure of a core are read: single-bit errors are corrected in place, counted and logged, at no cost (R424,
R429). -/
def State.corrected (s : State) (c st : Nat) (lines : List Nat) : State :=
  if (s.core c).ce.isEmpty then s
  else (lines.filter (fun l => (s.core c).ce.contains (st, l))).dedup.foldl (fun (s : State) l =>
    (s.setCore c { s.core c with ce := (s.core c).ce.filter (· != (st, l)) }).sramCe c st
      (if st = 0 then 2 else if st = 1 then 3 else 4) (if st = 0 then 64 * l else 0)) s

/-- A residue or register parity error of a core is counted and logged, as repaired when a replay cures it (R424, R429, R431,
R433). -/
def State.residue (s : State) (c : Nat) (cured : Bool) : State :=
  let s := s.setCore c ((s.core c).countErr 0)
  (if cured then s else s.noteErr (dieOf c) (c % 96) 6).logErr 6 3 (if cured then 1 else 0) (s.sramLoc c 5) 0

/-! ### Taking a trap (R367 to R375) -/

/-- An access is a variable-latency read. -/
def AccOp.isRead : AccOp → Bool
  | .load _ => true
  | .kstat _ _ => true
  | _ => false

/-- An access is an atomic. -/
def AccOp.isAtomic : AccOp → Bool
  | .amo _ => true
  | .cas _ => true
  | .famo _ => true
  | _ => false

/-- An access is a store. -/
def AccOp.isStore : AccOp → Bool
  | .store => true
  | _ => false

/-- The reads of the context still unbound that a trap abandons (R372 step 4): those with a queue entry. -/
def Core.unbound (k : Core) (cx : CtxId) : List Access :=
  k.accs.filter (fun a => a.cx == cx && a.op.isRead && a.writes)

/-- The trap's waits are over: no outstanding atomic, no unbound read of an earlier phase, at most 16 of this one, and
no own-memory access delayed (R372 steps 2 to 4). -/
def Core.entryReady (k : Core) (cx : CtxId) : Bool :=
  let x := k.ctx cx
  !k.accs.any (fun a => a.cx == cx && a.op.isAtomic) && !k.delayed.any (fun d => d.cx == cx)
    && (k.unbound cx).all (fun a => decide (x.phase0 ≤ a.bundle)) && decide ((k.unbound cx).length ≤ 16)

/-- PHS as SRD reads it (R54); PWQN has six bits. -/
def Ctx.phs (x : Ctx) : Word64 := BitVec.ofNat 64 (x.dw.toNat + 256 * (x.pwq.length % 64))

/-- LPST as SRD reads it (R56). -/
def Ctx.lpst (x : Ctx) : Word64 := BitVec.ofNat 64 (x.rpos.toNat + 256 * x.tail.toNat)

/-- SEGST as SRD reads it (R369). -/
def Ctx.segst (x : Ctx) : Word64 := BitVec.ofNat 64 (x.segCnt.toNat + 4294967296 * x.segSig.toNat)

/-- RPST as SRD reads it (R369). -/
def Ctx.rpst (x : Ctx) : Word64 :=
  BitVec.ofNat 64 (4 * x.sega.toNat + 8 * x.rpl.toNat + 16 * x.esc.toNat
    + 32 * (x.pstart.toNat / 32 % 2 ^ 43) + 2 ^ 56 * x.rcnt.toNat)

/-- The index of the abandoned read that an entry waits for. -/
def ldxOf (loads : List Origin) (e : Pwq) : Option Nat :=
  if e.val.isSome then none else loads.findIdx? (fun o => o.acc == e.acc)

/-- TINFO of a frame (R373). -/
def tinfo (cx : CtxId) (x : Ctx) (code slot : Nat) (async : Bool) (nld : Nat) : Nat :=
  code + 256 * slot + 2048 * bankOf cx + 8192 * async.toNat
    + 16384 * x.owed.isSome.toNat + 32768 * ((x.owed.map (·.ftl)).getD false).toNat
    + 65536 * ((x.owed.map (·.frot)).getD false).toNat
    + 131072 * x.barWait.isSome.toNat + 262144 * x.barWait.getD 0
    + 2097152 * x.pwq.length + 134217728 * nld

/-- The 32 bytes of a saved entry (R374). A vector value stays resident. -/
def Pwq.save (e : Pwq) (loads : List Origin) : List Byte :=
  let v := if e.reg / 32 = 5 then 0 else (e.val.getD 0).toNat
  natToBytes 8 v ++ natToBytes 8 (if e.reg / 32 = 1 then v / 2 ^ 64 else 0)
    ++ natToBytes 8 (e.desc (ldxOf loads e)) ++ natToBytes 8 e.stamp.toNat

/-- The 32 bytes of a saved abandoned read, with the index of its entry (R375). -/
def Origin.save (o : Origin) (i : Nat) : List Byte :=
  natToBytes 8 o.pc.toNat ++ natToBytes 4 o.word.toNat ++ natToBytes 4 (o.slot + 8 * i)
    ++ natToBytes 8 o.stamp.toNat ++ natToBytes 8 o.imx.toNat

/-- The frame of a trap in the tessera, at physical offsets (R373). -/
def Ctx.writeFrame (x : Ctx) (m : Mem) (cx : CtxId) (code slot : Nat) (info pc : Word64) (async : Bool) : Mem :=
  let b := x.tfb.toNat
  let hdr := natToBytes 8 (tinfo cx x code slot async x.origins.length) ++ natToBytes 8 pc.toNat
    ++ natToBytes 8 info.toNat ++ natToBytes 8 x.stamp.toNat ++ natToBytes 8 x.phn.toNat
    ++ natToBytes 8 x.phs.toNat ++ natToBytes 8 x.lpst.toNat
    ++ natToBytes 4 (x.lc 0).toNat ++ natToBytes 4 (x.lc 1).toNat
    ++ natToBytes 4 (x.lc 2).toNat ++ natToBytes 4 (x.lc 3).toNat
    ++ natToBytes 8 x.segst.toNat ++ List.replicate 48 0
  let m := Mem.setBytes m b hdr
  let m := Mem.setBytes m (b + 0x80) (x.pwq.flatMap (·.save x.origins))
  Mem.setBytes m (b + 0x680) (x.origins.flatMap (fun o =>
    o.save ((x.pwq.findIdx? (fun e => e.acc == o.acc && e.val.isNone)).getD 0)))

/-- What a read that is abandoned leaves for its reissue (R375). -/
def Access.origin (a : Access) (stamp : BitVec 32) : Origin :=
  { acc := a.id, pc := a.pc, word := a.word, slot := if a.un = .c0 then 4 else 5, imx := a.imxw, stamp := stamp,
    bundle := a.bundle }

/-- Trap entry, R372 steps 4 to 6: the unbound reads are abandoned, the frame is written, and SVC begins at the
handler of the code. A breakpoint that the debug port has claimed stops the context instead (R456). -/
def Core.enter (k : Core) (cx : CtxId) (code slot : Nat) (info pc : Word64) (async : Bool) : Core :=
  let x := k.ctx cx
  let un := k.unbound cx
  let stampOf := fun (id : Nat) => ((x.pwq.find? (fun e => e.acc == id)).map (·.stamp)).getD 0
  let x := { x with walk := x.walk.map (fun (w : Walk) => if w.parked then { w with parked := false, abandoned := true } else w) }
  let all := x.origins ++ un.map (fun (a : Access) => a.origin (stampOf a.id))
  let x := { x with origins := x.pwq.filterMap (fun (e : Pwq) => if e.val.isSome then none else all.find? (fun o => o.acc == e.acc)),
                    trapped := true, dueTrap := none, holding := false, held := 0, skipped := 0,
                    pwq := x.pwq.map (fun (e : Pwq) => { e with ready := min e.ready x.clock }),
                    ready := min x.ready x.clock }
  let port := code == 16 && x.claimed
  let sv : Option (CtxId × Nat) := if port then none else some (cx, code)
  let k := { k with accs := k.accs.filter (fun a => !(a.cx == cx && a.op.isRead && a.writes)),
                    tess := x.writeFrame k.tess cx code slot info pc async,
                    serving := sv }
  let k := k.setCtx cx { x with stopped := port }
  let v := k.svc
  if port then k
  else
    let pc := BitVec.ofNat 64 (k.hvb.toNat / 8192 * 8192 + 256 * code)
    let w : Ctx := { v with pc := pc, trapped := false, clock := max v.clock x.clock, gang := x.gang, gloc := x.gloc,
                            start := x.start, holding := false, held := 0, waited := 0, skipped := 0,
                            pstart := pc, esc := false, rpl := false, transient := false, phase0 := v.bundles }
    { k with svc := { w with check := k.checkpoint w } }

/-- A trap that is due at a context's boundary is taken when SVC is free and its waits are over (R368, R372). -/
def Core.tryEnter (k : Core) (cx : CtxId) : Core :=
  match (k.ctx cx).dueTrap with
  | none => k
  | some (code, slot, info, pc, async) =>
    if k.serving.isNone && k.entryReady cx then k.enter cx code slot info pc async else k

/-- SVC is not free for a trap of a context: it serves one, or the other context's trap is being taken (R368). -/
def Core.busy (k : Core) (cx : CtxId) : Bool := k.serving.isSome || (k.ctx (otherCtx cx)).dueTrap.isSome

/-- The context stops with a trap due, and takes it at once when it can. While SVC is busy it only stops: a precise trap
is raised again when its bundle tries again, an asynchronous one is still pending then and is judged anew, and the trap of
an issued bundle is kept (R368, R371). -/
def Core.takeTrap (k : Core) (cx : CtxId) (code slot : Nat) (info pc : Word64) (async precise : Bool) : Core :=
  let x := k.ctx cx
  let x := { x with trapped := true, holding := false, held := 0, skipped := 0 }
  let due := some (code, slot, info, pc, async)
  let x := if !k.busy cx then { x with dueTrap := due } else if precise || async then x else { x with kept := due }
  let k := { k with mldrAt := match k.mldrAt with | some (c, t) => if c = cx then none else some (c, t) | none => none }
  (k.setCtx cx x).tryEnter cx

/-! ### The links to peers (R410, R411, R414) -/

/-- The bits of one byte through the reflected CRC-32C polynomial. -/
def crcByte (st b : Nat) : Nat :=
  (List.range 8).foldl (fun c _ => if c % 2 = 1 then c / 2 ^^^ 0x82F63B78 else c / 2) (st ^^^ b)

/-- CRC-32C over bytes (R410). -/
def crc32c (b : List Byte) : Nat := (b.foldl (fun c x => crcByte c x.toNat) 0xFFFFFFFF) ^^^ 0xFFFFFFFF

/-- Strands in one instance of a level (R119). -/
def perInstance (levels : List Level) (l : Nat) : Nat := (levels.drop (l + 1)).foldl (fun a v => a * v.count) 1

/-- The launch is submitted on several devices, or names the fabric (R414). -/
def isFabric (ls : List Level) : Bool :=
  match ls with
  | l :: _ => decide (l.dom = 7) || (decide (l.dom = 6) && decide (1 < l.count))
  | [] => false

/-- A flit is sent on a port, and kept until it is acknowledged: body, ACK, SEQ and CRC (R410, R411). -/
def Port.send (p : Port) (m : FlitMsg) : Port :=
  let b := (Config.flitBody m ++ List.replicate 248 0).take 248 ++ natToBytes 2 ((p.rxSeq + 65535) % 65536)
    ++ natToBytes 2 ((p.acked + p.replay.length) % 65536)
  let f := b ++ natToBytes 4 (crc32c b)
  { p with replay := p.replay ++ [f], sent := p.sent ++ [f] }

/-- The other devices are sent a message on the first port that is up (log entry 51). -/
def State.sendPeers (s : State) (m : FlitMsg) : State :=
  match (List.range 16).find? (fun q => (Tbl.get ({} : Port) s.ports q).up) with
  | none => s
  | some q => { s with ports := Tbl.set {} s.ports q ((Tbl.get {} s.ports q).send m) }

/-- The other devices of a fabric gang are told something of it, named by tenant, record and launch number (R414). -/
def State.tellPeers (s : State) (n : Nat) (m : Nat → Nat → Nat → FlitMsg) : State :=
  let g := s.gang n
  if isFabric g.levels then s.sendPeers (m g.ten g.recVa.toNat g.nth) else s

/-- This device's part of a fabric gang stops: the others are told, and their parts are ready again only once they say so
(R135, R414). -/
def State.partStops (s : State) (n : Nat) : State :=
  let g := s.gang n
  if isFabric g.levels then
    ({ s with peers := Tbl.mapVals {} (fun (p : Peer) =>
        { p with parts := p.parts.filter (· != (g.ten, g.recVa.toNat, g.nth)) }) s.peers } : State).tellPeers n
      (fun t r i => .part s.nodeId.toNat t r i 1)
  else s

/-- A pre-emption request reaches every core of a running gang (R384): each context has PREEMPT pending, and its running
operations suspend at their next boundaries (R313). -/
def State.requestPreempt (s : State) (n : Nat) : State :=
  let g := s.gang n
  if g.state ≠ 3 then s
  else
    let s := (s.setGang n { g with state := 4 }).partStops n
    g.place.foldl (fun (s : State) e =>
      match e.2 with
      | none => s
      | some c =>
        let k := s.core c
        let ask := fun (x : Ctx) => if x.gang = n ∧ !x.halted then { x with preempt := true } else x
        let ops := k.ops.map (fun (o : ChildOp) => if o.gang = n ∧ o.owner ≠ 2 ∧ o.state = 2 then { o with suspend := true } else o)
        s.setCore c { k with cb0 := ask k.cb0, cb1 := ask k.cb1, ops := ops }) s

/-- A gang whose firmware cannot go on: it is pre-empted, and never resumed by the device (R368, R377). -/
def State.stopGang (s : State) (g : Nat) : State :=
  if g = 0 then s else (s.requestPreempt g).setGang g { (s.requestPreempt g).gang g with escal := true }

/-- An SVC fault (R368): reported as a record of kind 4, and the gang is stopped. `sub` is the trap code of SVC's
bundle, or a sub-code. -/
def State.svcFault (s : State) (sub : Nat) : State :=
  let k := s.kore
  let served := k.serving.map (·.1)
  let g := (k.ctx (served.getD .cb0)).gang
  let frame := match served with
    | some c => Mem.bytes k.tess (k.ctx c).tfb.toNat 32
    | none => []
  let s := s.setKore { k with svc := { k.svc with trapped := true } }
  if g = 0 then s
  else (s.runtimeRecord (s.gang g).ten 4 g 0 (21 + 256 * sub + 65536 * (k.serving.map (·.2)).getD 0) frame).stopGang g

/-- A trap of the bundle in focus: precise (the bundle has not issued) or issued, with its frame PC. In SVC it is an
SVC fault (R42, R368, R370). -/
def State.trap (s : State) (code slot : Nat) (info pc : Word64) (precise : Bool) : State :=
  if s.cx = .svc then s.svcFault (if code = 16 || code = 17 then 0x83 else code)
  else s.setKore (s.kore.takeTrap s.cx code slot info pc false precise)

/-- A precise trap found at step `stage` of R79: no slot of the bundle takes effect, and the trap is taken (R42). -/
def State.raise (s : State) (stage code slot : Nat) (info : Word64) : Out :=
  let t := s.trap code slot info s.me.pc true
  .next (t.setIss { t.iss with out := .trapped stage slot code info })

/-! ### Return from a trap (R376) -/

/-- The entry that a frame's words describe, with the resident value and lanes of the entry in that place (R376). -/
def Pwq.restore (old : Pwq) (v0 v1 desc stamp : Nat) (now : Nat) : Pwq :=
  let rdy := desc / 2048 % 2 == 1
  let res := desc / 4096 % 2 == 1
  let cls := desc % 8
  { reg := regKey cls (desc / 8 % 32), rem := desc / 256 % 4, poison := desc / 1024 % 2 == 1,
    val := if res then old.val
      else if rdy then some (BitVec.ofNat 4096 (if cls = 1 then v0 + 2 ^ 64 * v1 else v0)) else none,
    ready := now, stamp := BitVec.ofNat 32 stamp, lanes := old.lanes, acc := old.acc }

/-- The entries of a frame, put back into the queue (R376). -/
def Ctx.restoreEntries (x : Ctx) (m : Mem) (n now : Nat) : Ctx :=
  { x with pwq := (List.range n).map (fun i =>
      let b := x.tfb.toNat + 0x80 + 32 * i
      Pwq.restore ((x.pwq[i]?).getD {}) (Mem.read m b 8) (Mem.read m (b + 8) 8) (Mem.read m (b + 16) 8)
        (Mem.read m (b + 24) 4) now) }

/-- RETT checks a frame (R376): the codes, the counts, and every entry and load record by R374 and R375. -/
def frameOk (m : Mem) (b : Nat) : Bool :=
  let t := Mem.read m b 8
  let np := t / 2097152 % 64
  let nl := t / 134217728 % 32
  decide (1 ≤ t % 256) && decide (t % 256 ≤ 20) && decide (np ≤ 48) && decide (nl ≤ 16) && decide (t < 2 ^ 32)
    && (List.range np).all (fun i =>
      let e := b + 0x80 + 32 * i
      let d := Mem.read m (e + 16) 8
      let cls := d % 8
      let idx := d / 8 % 32
      let rdy := d / 2048 % 2
      let res := d / 4096 % 2
      let ldp := d / 8192 % 2
      decide (d < 2 ^ 18) && decide (cls ≤ 5)
        && decide (idx < (if cls = 0 then 32 else if cls = 1 then 16 else if cls = 2 then 8 else if cls = 3 then 16
            else if cls = 4 then 4 else 32))
        && (res == 0 || (cls == 5 && rdy == 1)) && (ldp == 0 || (rdy == 0 && decide (d / 16384 % 16 < nl)))
        && decide (Mem.read m (e + 28) 4 = 0))
    && (List.range nl).all (fun j =>
      let l := b + 0x680 + 32 * j
      let w := Mem.read m (l + 12) 4
      (w % 8 == 4 || w % 8 == 5) && decide (w < 2 ^ 9) && decide (w / 8 % 64 < np)
        && decide (Mem.read m (l + 20) 4 = 0) && decide (Mem.read m (l + 28) 4 = 0))

/-- What the frame in `f` leaves owed, and the place where the served context goes on, a bundle address (R57, R376). The
count of a bounded wait goes on when its bundle does (R323). -/
def Core.refill (k : Core) (f : Mem) (cx : CtxId) (now : Nat) : Core :=
  let x := k.ctx cx
  let b := x.tfb.toNat
  let t := Mem.read f b 8
  k.setCtx cx { x with
      pc := BitVec.ofNat 64 (Mem.read f (b + 8) 8 / 32 * 32), stamp := BitVec.ofNat 32 (Mem.read f (b + 24) 4),
      waited := if x.pc.toNat = Mem.read f (b + 8) 8 / 32 * 32 then x.waited else 0, clock := max x.clock now,
      owed := if t / 16384 % 2 = 1 then
          some { issued := now - 1, ftl := t / 32768 % 2 == 1, frot := t / 65536 % 2 == 1 } else none,
      barWait := if t / 131072 % 2 = 1 then some (t / 262144 % 8) else none,
      walk := x.walk.map (fun (w : Walk) => { w with abandoned := false }) }

/-- SVC serves no trap any more: it issues nothing until the next, and a context that waits for it goes on (R368,
R395). -/
def Core.freeSvc (k : Core) (cx : CtxId) (now : Nat) : Core :=
  let k := { k with serving := none, svc := { k.svc with trapped := true } }
  let o := k.ctx (otherCtx cx)
  let k := if o.trapped && o.dueTrap.isNone && !o.stopped then
      k.setCtx (otherCtx cx) { o with trapped := false, clock := max o.clock now } else k
  k.tryEnter (otherCtx cx)

/-- A context goes on from its frame, once every read of the frame is reissued: what the trap left owed goes on, and its
next bundle stands at the frame's PC with the frame's stamp, no earlier than `now` (R376). -/
def Core.goOn (k : Core) (f : Mem) (cx : CtxId) (now : Nat) : Core :=
  let k := k.refill f cx now
  k.setCtx cx (({ k.ctx cx with trapped := false, origins := [] } : Ctx).settle now)

/-- A context one of whose reads failed its checks: what was owed stays owed, and the fault is due before it issues any
bundle (R376). -/
def Core.goOnFailed (k : Core) (f : Mem) (cx : CtxId) (now code slot : Nat) (info : Word64) : Core :=
  let k := k.refill f cx now
  let x := k.ctx cx
  k.setCtx cx { x.settle now with trapped := true, dueTrap := some (code, slot, info, x.pc, true) }

/-- The end of a return: the context goes on, and SVC serves no trap any more (R376, R395). -/
def Core.leave (k : Core) (f : Mem) (cx : CtxId) (now : Nat) : Core := ((k.goOn f cx now).freeSvc cx now).tryFlip cx

/-- The end of a return that failed: SVC is free for the fault that it raised (R376). -/
def Core.leaveFailed (k : Core) (f : Mem) (cx : CtxId) (now code slot : Nat) (info : Word64) : Core :=
  ({ k.goOnFailed f cx now code slot info with serving := none, svc := { k.svc with trapped := true } } : Core).tryEnter cx

end Sys2Proof.Machine
end

