-- ==== Sys2Proof/Machine/Flags.lean ====
section
/-! DEFINITION. Truth values: the compares of R97, the predicate words they make (R39), and the double-write check
that stands ahead of every register write (R33, R34, R79 step 5). The Z12 has no condition flags (R89). -/

namespace Sys2Proof.Machine

/-- All 128 bits equal to a truth value (R39). -/
def predOf (t : Bool) : Pred := if t then BitVec.allOnes 128 else 0

/-- `a = b` (R97). -/
def cmpEqW (a b : Word64) : Bool := a == b
/-- `a < b`, signed (R97). -/
def cmpLtS (a b : Word64) : Bool := BitVec.slt a b
/-- `a < b`, unsigned (R97). -/
def cmpLtU (a b : Word64) : Bool := BitVec.ult a b
/-- `a ≤ b`, signed (R97). -/
def cmpLeS (a b : Word64) : Bool := BitVec.sle a b
/-- `a ≤ b`, unsigned (R97). -/
def cmpLeU (a b : Word64) : Bool := BitVec.ule a b

/-- The INFO word of DOUBLE_WRITE: the DESC of the register (R370, R374). -/
def doubleWriteInfo (key : Nat) : Word64 := BitVec.ofNat 64 (key / 32 + 8 * (key % 32))

/-- A register result's conditions: held while the queue has no room for an entry it needs (R26), DOUBLE_WRITE when
PHCTL.DWT is set and it collides (R34); a write to s0 meets neither (R14). `entry` says that it needs an entry. -/
def State.dest (s : State) (key land : Nat) (entry : Bool) (k : State → Out) : Out :=
  if key = 0 then k s
  else if entry && decide (Config.pwqDepth ≤ s.me.pwq.length) then s.hold 2
  else if s.me.dwt && s.me.collides key land then s.raise 5 3 7 (doubleWriteInfo key)
  else k s

/-- A fixed-latency register result of the instruction in focus (R18, R25, R45). -/
def State.putReg (s : State) (key : Nat) (v : Vec) (lanes : Pred) (land lat : Nat) : Out :=
  s.dest key land (decide (0 < land)) fun s =>
    (s.setMe (s.me.writeReg key v lanes land (s.me.clock + lat))).done

/-- A scalar result. -/
def State.putS (s : State) (d : BitVec 5) (v : Word64) (land : BitVec 2) (lat : Nat) : Out :=
  s.putReg (keyS d.toNat) (v.setWidth 4096) (BitVec.allOnes 128) land.toNat lat

/-- A predicate result; the destination is logical (R50). -/
def State.putP (s : State) (d : BitVec 4) (v : Pred) (land : BitVec 2) (lat : Nat) : Out :=
  s.putReg (s.me.keyP d.toNat) (v.setWidth 4096) (BitVec.allOnes 128) land.toNat lat

/-- A loop counter result. -/
def State.putLc (s : State) (d : BitVec 2) (v : BitVec 32) (land : BitVec 2) (lat : Nat) : Out :=
  s.putReg (keyLc d.toNat) (v.setWidth 4096) (BitVec.allOnes 128) land.toNat lat

/-- A matrix parameter result. -/
def State.putM (s : State) (d : BitVec 3) (v : Word64) (land : BitVec 2) (lat : Nat) : Out :=
  s.putReg (keyM d.toNat) (v.setWidth 4096) (BitVec.allOnes 128) land.toNat lat

end Sys2Proof.Machine
end

