-- ==== Sys2Proof/Machine/Home.lean ====
section
/-! DEFINITION. Global memory at its homes and in the die caches, remote tesserae, translation, and what release and
acquire make visible (10 R217 to R219, R231 to R243, 12 R266 to R287, 23 R425, R426, 24 R438, R439). -/

namespace Sys2Proof.Machine

/-! ### Placement words (R239) -/

/-- Geometry code of a placement word. -/
def plcGeo (p : BitVec 32) : Nat := p.toNat % 16
/-- Page size code of a placement word. -/
def plcPs (p : BitVec 32) : Nat := p.toNat / 16 % 4
/-- The lines are encrypted. -/
def plcEnc (p : BitVec 32) : Bool := p.getLsbD 6
/-- Integrity tags are kept. -/
def plcInt (p : BitVec 32) : Bool := p.getLsbD 7
/-- Key slot of a placement word. -/
def plcKey (p : BitVec 32) : Nat := p.toNat / 256 % 64

/-- GEOT entry `g` (R240): entry 0 resets to all stacks, 32 channels, 256-byte granule, hashed. -/
def State.geotAt (s : State) (g : Nat) : Word64 :=
  Tbl.get 0 s.geot g ^^^ (if g = 0 then 0x00000001FFF05001 else 0)

/-- The geometry code of a 64 KiB frame (R242). -/
def State.geoAt (s : State) (frame : Nat) : Nat := Tbl.get 0 s.frameGeo frame - 1

/-- A page is being re-striped (R244). -/
def Stripe.covers (t : Stripe) (pa : Nat) : Bool := decide (t.page ≤ pa) && decide (pa < t.page + t.size)

/-- The placement word of a page as translation gives it now: a page that a re-stripe has moved has its new geometry, and
one that is being moved shows MIG (R238, R244, R246). -/
def State.plcNow (s : State) (pa plc : Nat) : Nat :=
  let g := Tbl.get 0 s.frameGeo (pa / 65536)
  let w := if g = 0 then plc else plc / 16 * 16 + (g - 1)
  if s.stripes.any (·.covers pa) then w % 2 ^ 14 + 2 ^ 14 else w

/-- A geometry entry is valid (R240). -/
def geoOk (g : Word64) : Bool :=
  g.getLsbD 32 && decide (g.toNat / 2 ^ 20 % 4096 ≠ 0) && decide (g.toNat / 2 ^ 12 % 8 ≤ 5)
    && decide (g.toNat / 256 % 16 ≤ 8) && decide (g.toNat % 4 ≤ 1)

/-- A placement word from a table is valid: R239's layout, a valid geometry, MIG clear. -/
def State.plcOk (s : State) (p : Nat) : Bool :=
  decide (p < 2 ^ 14) && decide (p / 16 % 4 ≠ 3) && (p / 64 % 2 == 1 || (p / 128 % 2 == 0 && p / 256 % 64 == 0))
    && geoOk (s.geotAt (p % 16))

/-- Bytes of a page size code (R239). -/
def pageBytes (ps : Nat) : Nat := if ps = 0 then 0x10000 else if ps = 1 then 0x200000 else 0x40000000

/-- The stacks of a geometry, ascending. -/
def geoStacks (g : Word64) : List Nat := (List.range 12).filter (fun i => g.getLsbD (20 + i))

/-- The stack that holds a physical address under a geometry (R241). -/
def stackOf (g : Word64) (a : Nat) : Nat :=
  let st := geoStacks g
  st.getD (a / 2 ^ (8 + g.toNat / 256 % 16) % max 1 st.length) 0

/-- The channel that holds a physical address under a geometry (R241). -/
def channelOf (g : Word64) (a : Nat) : Nat :=
  let u := a / 2 ^ (8 + g.toNat / 256 % 16)
  let nc := 2 ^ (g.toNat / 2 ^ 12 % 8)
  u / max 1 (geoStacks g).length % nc * (32 / nc) + a / 2 ^ 16 % (32 / nc)

/-- A page of this geometry is half-homed in a half (R243). -/
def halfHomed (g : Word64) (half : Nat) : Bool :=
  (geoStacks g).all (fun i => decide (i / 6 = half)) && !(geoStacks g).isEmpty

/-! ### Gang coordinates and scopes (R115, R120, R121, R267, R268) -/

/-- The gang tile of a context's strand, as 96 × gang die + tile (R131). -/
def Ctx.gtile (x : Ctx) : Nat := 96 * (x.gloc.toNat / 256 % 8) + x.gloc.toNat % 128

/-- The quad of a tile (R115). -/
def quadOf (t : Nat) : Nat := 6 * (t / 24) + t % 12 / 2

/-- Scope `sc` of one gang tile contains another, by gang coordinates (R267). -/
def inScope (sc g a h b : Nat) : Bool :=
  decide (5 ≤ sc) || (decide (g = h) && (match sc with
    | 0 => decide (a = b)
    | 1 => decide (a / 96 = b / 96) && decide (quadOf (a % 96) = quadOf (b % 96))
    | 2 => decide (a / 96 = b / 96) && decide (a % 96 / 24 = b % 96 / 24)
    | 3 => decide (a / 96 = b / 96)
    | _ => decide (a / 384 = b / 384)))

/-- The placement of a gang splits the gang half of a gang tile over both halves of the device (R121). -/
def State.halfSplit (s : State) (g tile : Nat) : Bool :=
  let mine := fun (h : Nat) => (s.gang g).place.any (fun e =>
    decide (e.1 / 384 = tile / 384) && (match e.2 with | some c => decide (c / 384 = h) | none => false))
  mine 0 && mine 1

/-- The scope at which a release, acquire or fence of a context is carried out: a HALF that the placement splits is
carried out at DEV (R268). Narrower scopes never reach beyond one die, where gang coordinates judge them. -/
def State.actual (s : State) (sc g tile : Nat) : Nat := if sc = 4 && s.halfSplit g tile then 5 else sc

/-- The dies whose observers lie within a scope, as it is carried out, of an agent on die `d`; 8 stands for the
observers at the homes (R267, R268). -/
def reachOf (sc d e : Nat) : Bool :=
  decide (5 ≤ sc) || (if sc = 4 then decide (e / 4 = d / 4) else decide (e = d))

/-- The component that stamps a core's writes (R231): its die, or the host's for the control complex. -/
def compOf (c : Nat) : Nat := dieOf c

/-- The tenant whose requests a core's context makes; none for the control complex (R391, R438). -/
def State.tenOf (s : State) (c : Nat) (cx : CtxId) : Option Nat :=
  let k := s.core c
  if isControl c then none else some (s.gang (k.ctx (if cx = .svc then k.servedId else cx)).gang).ten

/-! ### Homes (R231, R425, R426, R438, R439) -/

/-- A key slot: its owner and key. -/
def State.keySlot (s : State) (k : Nat) : Option (Nat × List Byte) := Tbl.get none s.keys k

/-- The bytes of a key slot's key as numbers. -/
def State.keyBytes (s : State) (k : Nat) : List Nat :=
  match s.keySlot k with
  | some (_, b) => b.map (·.toNat)
  | none => []

/-- The tenant owns the frame of a physical address. -/
def State.ownsFrame (s : State) (ten pa : Nat) : Bool :=
  (s.tenant ten).frames.any (fun f => decide (f.1 ≤ pa / 65536) && decide (pa / 65536 < f.1 + f.2))

/-- The bed die serves the request: frame and key slot belong to the tenant; the control complex is not judged (R391,
R438). -/
def State.serves (s : State) (ten : Option Nat) (pa : Nat) (plc : BitVec 32) : Bool :=
  match ten with
  | none => true
  | some t => s.ownsFrame t pa
      && (!plcEnc plc || (match s.keySlot (plcKey plc) with | some (o, _) => decide (o = t) | none => false))

/-- The tag of a line's ciphertext (R439). -/
def State.lineTag (s : State) (line : Nat) (plc : BitVec 32) (ct : Nat) : Nat :=
  let key := Crypto.hkdf32 (s.keyBytes (plcKey plc)) [0x52, 0x53, 0x4E, 0x2D, 0x54, 0x41, 0x47]
  Crypto.leNat ((Crypto.cmac key (Crypto.leBytes 64 ct ++ Crypto.leBytes 8 (64 * line))).take 4)

/-- A line's plain bytes from what the stack holds. -/
def State.plain (s : State) (line : Nat) (plc : BitVec 32) (ct : Nat) : Nat :=
  if plcEnc plc then Crypto.leNat (Crypto.xts false (s.keyBytes (plcKey plc)) line (Crypto.leBytes 64 ct)) else ct

/-- The place of a line as the service log's LOC: its stack, channel, bank and row (R433). -/
def State.lineLoc (s : State) (pa : Nat) : Nat :=
  let g := s.geotAt (s.geoAt (pa / 65536))
  let k := stackOf g pa
  k + 16 * (if s.chanMoved.contains (k, channelOf g pa) then 32 else channelOf g pa)
    + 2 ^ 10 * (Config.hbmBank pa % 32) + 2 ^ 15 * (Config.hbmRow pa % 2 ^ 17)

/-- Erroneous symbols of a line: of 8 bits with INT = 1, of 16 with INT = 0. The code corrects one and detects two; more are
detected here too (R425, DESIGN CHOICE: the rule says nothing of three). -/
def LineErr.symbols (e : LineErr) (int : Bool) : Nat :=
  if int then e.bad.dedup.length else ((e.bad.map (· / 2)).dedup).length

/-- An error of a line's row is noted for R430: none for an uncorrectable one, or the scrub pass of a corrected one. -/
def State.noteRow (s : State) (line : Nat) (pass : Option Nat) : State :=
  { s with rowErrs := s.rowErrs ++ [(s.lineLoc (64 * line), pass)] }

/-- A home read judges the line (R425): a correctable error is corrected, written back and logged; an uncorrectable one or
a wrong tag marks the line and is logged. -/
def State.judgeLine (s : State) (line : Nat) (plc : BitVec 32) : State :=
  let e := Tbl.get {} s.lineErr line
  let n := e.symbols (plcInt plc)
  let log := fun (s : State) (cls flags : Nat) => s.logErr cls 0 flags (s.lineLoc (64 * line)) (64 * line)
  if 2 ≤ n then
    log (({ s with lineErr := Tbl.set {} s.lineErr line { bad := [], mark := true } } : State).noteRow line none) 2 0
  else
    let s := if n = 1 then
        log (({ s with lineErr := Tbl.set {} s.lineErr line { e with bad := [] } } : State).noteRow line (some s.scrbPass.toNat)) 1 1
      else s
    let tag := Tbl.get 0 s.tags line
    if plcInt plc && !e.mark && s.lineTag line plc (Mem.read s.mem (64 * line) 64) != (tag - 1) % 2 ^ 32 then
      log { s with lineErr := Tbl.set {} s.lineErr line { mark := true } } 3 0
    else s

/-- The line is marked (R426). -/
def State.marked (s : State) (line : Nat) : Bool := (Tbl.get {} s.lineErr line).mark

/-- A read at the home: the plain line, or none when the request is refused or the line is marked (R425, R426,
R438). A refusal is logged. -/
def State.homeRead (s : State) (ten : Option Nat) (line : Nat) (plc : BitVec 32) : State × Option Nat :=
  if !s.serves ten (64 * line) plc then (s.logErr 0 1 0 0 (64 * line), none)
  else
    let s := s.judgeLine line plc
    if s.marked line then (s, none) else (s, some (s.plain line plc (Mem.read s.mem (64 * line) 64)))

/-- The low byte of a number repeated over the set bits of a byte mask. -/
def byteMask (mask : Nat) : Nat :=
  (List.range 64).foldl (fun a i => if mask.testBit i then a + 255 * 256 ^ i else a) 0

/-- A line with the bytes of `mask` taken from `data`. -/
def mergeLine (old mask data : Nat) : Nat :=
  let m := byteMask mask
  (old &&& (2 ^ 512 - 1 - m)) + (data &&& m)

/-- The memory with the bytes of `mask` of one line written. -/
def writeMasked (m : Mem) (line mask data : Nat) : Mem :=
  (List.range 64).foldl (fun m i =>
    if mask.testBit i then Mem.setByte m (64 * line + i) (BitVec.ofNat 8 (data / 256 ^ i)) else m) m

/-! ### Release marks (R284, R286) -/

/-- A buffered store of die `e` has some way to go before it has performed within scope `sc`, whose dies `far` names; 8
stands for the observers at the homes. -/
def Buffered.open_ (b : Buffered) (e sc : Nat) (far : Nat → Bool) : Bool :=
  decide (b.wide < min sc 3) || (List.range 9).any (fun x => x != e && far x)

/-- A stamped write has not performed for every observer within scope `sc`, whose dies `far` names. A STRL that is not yet
to be seen within its own scope counts as such (R274). -/
def State.pending (s : State) (sc : Nat) (far : Nat → Bool) (w : Nat × Nat) : Bool :=
  s.unripe.any (fun u => u.stamp == w) || s.dies.any (fun e =>
    (e.1 == w.1 && e.2.buffer.any (fun b => b.count == w.2 && b.open_ e.1 sc far))
      || (far e.1 && e.2.notices.any (fun n => n.comp == w.1 && n.count == w.2)))

/-- The stamps of a list that have some way to go somewhere. -/
def State.prune (s : State) (l : List (Nat × Nat)) : List (Nat × Nat) :=
  (l.filter (s.pending 7 (fun _ => true))).dedup

/-- Marks with writes that matter no more left out. -/
def State.pruneRels (s : State) (rs : List Rel) : List Rel :=
  if rs.isEmpty then [] else (rs.map (fun r => { r with deps := s.prune r.deps })).filter (fun r => !r.deps.isEmpty)


/-- The marks of a line's 8-byte words after a write of the bytes of `mask` that carries `rels`: a word it touches has
the marks of the write and no others. -/
def markWords (old : Tbl (List Rel)) (mask : Nat) (rels : Tbl (List Rel)) : Tbl (List Rel) :=
  if old.isEmpty && rels.isEmpty then []
  else rels.foldl (fun (t : Tbl (List Rel)) e => Tbl.set [] t e.1 e.2)
    (old.filter (fun e => decide (mask / 2 ^ (8 * e.1) % 256 = 0)))

/-- The marks of a line's words at its home. -/
def State.homeRels (s : State) (line : Nat) : Tbl (List Rel) :=
  (s.rel.filter (fun e => decide (e.1 / 8 = line))).map (fun e => (e.1 % 8, e.2))

/-- What the marks of an overwritten word are to the write that follows in home order: writes before it, with which nothing
synchronises any more (R271 item 3). -/
def State.inherited (s : State) (old : List Rel) : List Rel :=
  s.pruneRels (old.map (fun r => { r with fence := false, plain := true }))

/-- The marks that a write of the bytes of `mask` of a line brings there: its own, and what stood before it in home order. -/
def State.withInherited (s : State) (line mask : Nat) (rels : Tbl (List Rel)) : Tbl (List Rel) :=
  if s.rel.isEmpty then rels
  else (s.homeRels line).foldl (fun (t : Tbl (List Rel)) e =>
    let old := if mask / 2 ^ (8 * e.1) % 256 = 0 then [] else s.inherited e.2
    if old.isEmpty then t else Tbl.set [] t e.1 (Tbl.get [] t e.1 ++ old).dedup) rels

/-- The marks at the home after a write of the bytes of `mask` that carries `rels`. -/
def State.markHome (s : State) (line mask : Nat) (rels : Tbl (List Rel)) : State :=
  if s.rel.isEmpty && rels.isEmpty then s
  else
    let rest := s.rel.filter (fun e => !(decide (e.1 / 8 = line) && decide (mask / 2 ^ (8 * (e.1 % 8)) % 256 ≠ 0)))
    { s with rel := rels.foldl (fun (t : Tbl (List Rel)) e => Tbl.set [] t (8 * line + e.1) e.2) rest }

/-! ### A write at its home (R231, R269) -/

/-- Write `n` of component `comp` performs at its home: the stored bytes, tag, mark and release marks, and a notice for
every other die that holds the line. The writing die's copy shows the line as it now stands, or with `own` false is
given up. -/
def State.homePut (s : State) (comp n line : Nat) (plc : BitVec 32) (mask data : Nat) (deps : List (Nat × Nat))
    (own : Bool) (rels : Tbl (List Rel)) : State :=
  let full := mask % 2 ^ 64 = 2 ^ 64 - 1
  let rels := s.withInherited line mask rels
  -- a write of the whole line clears its errors and its mark; one of fewer bytes reads the line first (R425, R426)
  let s := if full then { s with lineErr := Tbl.set {} s.lineErr line {} } else s.judgeLine line plc
  let s := if plcEnc plc then
      let ct0 := Mem.read s.mem (64 * line) 64
      let p := if full then data else mergeLine (s.plain line plc ct0) mask data
      let ct := Crypto.leNat (Crypto.xts true (s.keyBytes (plcKey plc)) line (Crypto.leBytes 64 p))
      { s with mem := Mem.write s.mem (64 * line) 64 ct,
               tags := if plcInt plc then Tbl.set 0 s.tags line (s.lineTag line plc ct + 2 ^ 32 * plcKey plc + 1)
                       else Tbl.set 0 s.tags line 0 }
    else { s with mem := writeMasked s.mem line mask data, tags := Tbl.set 0 s.tags line 0 }
  let s := { (s.markHome line mask rels) with lastW := Tbl.set (0, 0) s.lastW line (comp, n) }
  let now := s.plain line plc (Mem.read s.mem (64 * line) 64)
  let notice : Notice := { line := line, mask := mask, data := data, comp := comp, count := n, deps := deps, rels := rels }
  let dies := s.dies.map (fun (e : Nat × Die) =>
    match Tbl.get none e.2.lines line with
    | none => e
    | some _ =>
      if e.1 = comp then
        (e.1, { e.2 with lines := Tbl.set none e.2.lines line (if own then some ⟨now, comp, n, s.homeRels line⟩ else none),
                         notices := e.2.notices.filter (fun x => decide (x.line ≠ line)) })
      else (e.1, { e.2 with notices := e.2.notices ++ [notice] }))
  { s with dies := Tbl.mapVals {} id dies }

/-- The next count of a component's writes. -/
def State.nextCount (s : State) (comp : Nat) : Nat := Tbl.get 0 s.counts comp + 1

/-- The part with one more write of a component counted. -/
def State.counted (s : State) (comp : Nat) : State := { s with counts := Tbl.set 0 s.counts comp (s.nextCount comp) }

/-! ### Stores between a die's cache and the homes (R231, R274 notes 3) -/

/-- A buffered store is seen by an observer of the die: a context or operation of gang `g` and gang tile `t`. -/
def Buffered.seenBy (b : Buffered) (g t : Nat) : Bool := decide (3 ≤ b.wide) || inScope b.wide b.gang b.tile g t

/-- Buffered stores, with those that `hit` names, and the earlier ones of their contexts, seen at least within scope
`lvl`: the stores of a context reach the observers of its die in issue order (R274 note 3). -/
def widen (hit : Buffered → Bool) (lvl : Nat) : List Buffered → List Buffered
  | [] => []
  | b :: r =>
    (if hit b || r.any (fun c => hit c && c.core == b.core && c.cx == b.cx) then { b with wide := max b.wide lvl } else b)
      :: widen hit lvl r

/-- The buffered stores to a line among the first `n` of a die perform at the home, in their order. -/
def State.flushLine (s : State) (d line n : Nat) : State :=
  let die := s.die d
  if die.buffer.isEmpty then s
  else
    let head := widen (fun b => b.line == line) 3 (die.buffer.take n)
    let s := s.setDie d { die with buffer := head.filter (fun b => b.line != line) ++ die.buffer.drop n }
    (head.filter (fun b => b.line == line)).foldl
      (fun (s : State) b => s.homePut d b.count b.line b.plc b.mask b.data b.deps true b.rels) s

/-- Every buffered store of a die to a line performs at the home. -/
def State.flushAll (s : State) (d line : Nat) : State := s.flushLine d line (s.die d).buffer.length

/-- A write of component `comp` that performs at its home at once, after what its die has buffered for the line: its
stamp, or (0, 0) when the request is refused, logged and discarded (R438). -/
def State.homeWrite (s : State) (comp : Nat) (ten : Option Nat) (line : Nat) (plc : BitVec 32) (mask data : Nat)
    (deps : List (Nat × Nat)) (own : Bool) (rels : Tbl (List Rel)) : State × (Nat × Nat) :=
  if !s.serves ten (64 * line) plc then (s.logErr 0 1 0 0 (64 * line), (0, 0))
  else
    let n := s.nextCount comp
    (((s.counted comp).flushAll comp line).homePut comp n line plc mask data deps own rels, (comp, n))

/-- A C1 store of a die's core enters its die's cache, seen at first within scope `b.wide` only; its stamp, or (0, 0)
when the request is refused, logged and discarded (R231, R438). -/
def State.bufferStore (s : State) (d : Nat) (b : Buffered) : State × (Nat × Nat) :=
  if !s.serves b.ten (64 * b.line) b.plc then (s.logErr 0 1 0 0 (64 * b.line), (0, 0))
  else
    let n := s.nextCount d
    let s := s.counted d
    (s.setDie d { s.die d with buffer := (s.die d).buffer ++ [{ b with count := n }] }, (d, n))

/-! ### Die caches (R231) -/

/-- A die with one notice applied to its copy. -/
def Die.applyNotice (d : Die) (n : Notice) : Die :=
  { d with notices := d.notices.filter (fun x => !(x.comp == n.comp && x.count == n.count)),
           lines := match Tbl.get none d.lines n.line with
             | none => d.lines
             | some l => Tbl.set none d.lines n.line
                 (some ⟨mergeLine l.data n.mask n.data, n.comp, n.count, markWords l.rels n.mask n.rels⟩) }

/-- The notices of a list up to the last one that `need` names. -/
def neededPrefix (need : List (Nat × Nat)) : List Notice → List Notice
  | [] => []
  | n :: r =>
    match neededPrefix need r with
    | [] => if need.contains (n.comp, n.count) then [n] else []
    | l => n :: l

/-- A die with the writes of `need` applied, and the notices before them. -/
def Die.catchUp (d : Die) (need : List (Nat × Nat)) : Die :=
  if need.isEmpty then d else (neededPrefix need d.notices).foldl Die.applyNotice d

/-- Stamped writes perform for every observer within scope `sc`, whose dies `far` names: what a later access that comes
after them waits for (R259, R260, R271, R284). Nothing else of the part changes. -/
def State.bring (s : State) (sc : Nat) (far : Nat → Bool) (need : List (Nat × Nat)) : State :=
  if need.isEmpty then s
  else
    let s := s.dies.foldl (fun (s : State) e =>
      let hit := fun (b : Buffered) => need.contains (e.1, b.count) && b.open_ e.1 sc far
      if !e.2.buffer.any hit then s
      else if (List.range 9).any (fun x => x != e.1 && far x) then
        (e.2.buffer.filter hit).foldl (fun (s : State) b => s.flushAll e.1 b.line) s
      else s.setDie e.1 { s.die e.1 with buffer := widen hit (min sc 3) (s.die e.1).buffer }) s
    { s with dies := Tbl.mapVals {} id (s.dies.map (fun e => if far e.1 then (e.1, e.2.catchUp need) else e)) }

/-- Stamped writes perform for every observer. -/
def State.bringAll (s : State) (need : List (Nat × Nat)) : State := s.bring 7 (fun _ => true) need

/-- A line as an observer finds it: its bytes, the writes that it shows last, and the release marks of its words. -/
structure Shown where
  data   : Nat
  stamps : List (Nat × Nat)
  rels   : Tbl (List Rel)
deriving DecidableEq, Repr

/-- A cached line with the buffered stores of its die that an observer sees. -/
def Die.overlay (d : Die) (n line g t : Nat) (l : CLine) : Shown :=
  d.buffer.foldl (fun (v : Shown) b =>
    if b.line == line && b.seenBy g t then
      { data := mergeLine v.data b.mask b.data, stamps := v.stamps ++ [(n, b.count)], rels := markWords v.rels b.mask b.rels }
    else v) { data := l.data, stamps := [(l.comp, l.count)], rels := l.rels }

/-- A line enters a die's cache; a full cache gives up one of its lines, and which one is free (R4, log entry 101). -/
def State.fillLine (s : State) (d line : Nat) (l : CLine) : State :=
  let die := s.die d
  let die := { die with notices := die.notices.filter (fun n => decide (n.line ≠ line)) }
  if die.lines.length < Config.dieLines then s.setDie d { die with lines := Tbl.set none die.lines line (some l) }
  else
    let v := (Config.freeWord s.freeN).toNat % die.lines.length
    ({ s with freeN := s.freeN + 1 } : State).setDie d
      { die with lines := Tbl.set none (die.lines.eraseIdx v) line (some l) }

/-- A line of a die's cache is read there (R424): a single-bit error is corrected in place and logged; a line with a double-bit
error, which its home holds as well (R231), is given up and read again, which finds it clean (R380 step 2). Both are SRAM_CE
of the die's cache, structure 4. -/
def State.scanLine (s : State) (d line : Nat) : State :=
  let die := s.die d
  let bad := die.badLines.contains line
  if !bad && !die.ceLines.contains line then s
  else
    let s := s.setDie d { die with ceLines := die.ceLines.filter (· != line), badLines := die.badLines.filter (· != line),
                                   lines := if bad then Tbl.set none die.lines line none else die.lines,
                                   notices := if bad then die.notices.filter (fun n => decide (n.line ≠ line)) else die.notices }
    (s.noteErr d 128 4).logErr 4 2 1 (s.siteOf d + 2048 * 4) (64 * line)

/-- A read through a die's cache by an observer of gang `g` and gang tile `t`: the line as the die shows it to the
observer once the writes of `must` have performed there, filled from its home on a miss; none when the home refuses or
the line is marked. -/
def State.dieRead (s : State) (d g t : Nat) (ten : Option Nat) (line : Nat) (plc : BitVec 32) (must : List (Nat × Nat)) :
    State × Option Shown :=
  let s := (s.bring 3 (fun e => e == d) must).scanLine d line
  if !s.serves ten (64 * line) plc then (s.logErr 0 1 0 0 (64 * line), none)
  else match Tbl.get none (s.die d).lines line with
  | some l => (s, some ((s.die d).overlay d line g t l))
  | none =>
    let (s, v) := s.homeRead ten line plc
    match v with
    | none => (s, none)
    | some x =>
      let w := Tbl.get (0, 0) s.lastW line
      let l : CLine := ⟨x, w.1, w.2, s.homeRels line⟩
      let s := s.fillLine d line l
      (s, some ((s.die d).overlay d line g t l))

/-- A read at the home for an agent of component `d`, after what its die has buffered for the line (R270, R285). -/
def State.homeReadW (s : State) (d : Nat) (ten : Option Nat) (line : Nat) (plc : BitVec 32) : State × Option Shown :=
  let (s, v) := (s.flushAll d line).homeRead ten line plc
  (s, v.map (fun x => ⟨x, [Tbl.get (0, 0) s.lastW line], s.homeRels line⟩))

/-! ### Translation (R219, R232 to R237, R391) -/

/-- A translation: the physical address and the placement word, or the trap code. -/
abbrev Xlated := Except Nat (Nat × BitVec 32)

/-- Permission bits: R 1, W 2, X 4. -/
def permOk (have_ need : Nat) : Bool := decide (have_ &&& need = need)

/-- A dynamic entry that covers an address, lowest slot first. -/
def dynAt (t : Tbl Dyn) (v : Nat) : Option Dyn :=
  (t.find? (fun e => e.2.v && decide (e.2.base ≤ v) && decide (v < e.2.base + e.2.size))).map (·.2)

/-- Translation of a virtual address for a context of a core (R232). The control complex uses physical addresses
(R391); SVC uses the entries of the context it serves (log entry 12). -/
def State.translate (s : State) (c : Nat) (cx : CtxId) (v need : Nat) : Xlated :=
  let k := s.core c
  let x := k.ctx (if cx = .svc then k.servedId else cx)
  if isControl c then (if v < Config.memSize then .ok (v, 0) else .error 4)
  else if 2 ^ 48 ≤ v then .error 4
  else
    let g := pageBytes x.lttGran.toNat
    let w := x.lttBase.toNat * 2 ^ 28
    let viaDyn := fun (_ : Unit) =>
      match dynAt x.dyn v with
      | none => (.error 4 : Xlated)
      | some d => if permOk d.perm.toNat need then .ok (d.pa + (v - d.base), d.plc) else .error 5
    if x.lttEn && decide (w ≤ v) && decide (v < w + 4096 * g) then
      let e := Tbl.get {} k.ltt ((v - w) / g)
      if e.w0.getLsbD 0 then
        if permOk (e.w0.toNat / 2 % 8) need then
          .ok (e.w0.toNat / 2 ^ 16 % 2 ^ 24 * 2 ^ 16 + (v - w) % g, e.w1.setWidth 32)
        else .error 5
      else viaDyn ()
    else viaDyn ()

/-- A tenant owns every frame of a page, and the key slot that its placement word names (R438). -/
def State.pageOwned (s : State) (ten pa size plc : Nat) : Bool :=
  (List.range (size / 65536)).all (fun i => s.ownsFrame ten (pa + 65536 * i)) && s.serves (some ten) pa (BitVec.ofNat 32 plc)

/-- A tenant's locked table entry is valid for its granule: its layout (R233), its frames and its key slot (R438). -/
def State.lttOk (s : State) (ten w0 w1 gran : Nat) : Bool :=
  w0 % 2 == 0 || (decide (w0 < 2 ^ 40) && w0 / 16 % 2 ^ 12 == 0 && decide (w1 < 2 ^ 32)
    && decide (w0 / 2 ^ 16 * 2 ^ 16 % pageBytes gran = 0)
    && decide (w0 / 2 ^ 16 * 2 ^ 16 + pageBytes gran ≤ Config.memSize) && s.plcOk w1 && plcPs (BitVec.ofNat 32 w1) == gran
    && s.pageOwned ten (w0 / 2 ^ 16 * 2 ^ 16) (pageBytes gran) w1)

/-- What a walk finds: a leaf (page base, page size, page address, permissions, placement word), nothing, or an entry
that breaks the layout, with its level and words. -/
inductive WalkEnd where
  | leaf (base size pa perm plc : Nat)
  | missing
  | broken (level w0 w1 : Nat)
deriving DecidableEq, Repr

/-- Bits of the address and entries that a level of the page table indexes (R237). -/
def levelShift (l : Nat) : Nat := if l = 0 then 39 else if l = 1 then 30 else if l = 2 then 21 else 16
/-- Entries of a level's table. -/
def levelCount (l : Nat) : Nat := if l = 3 then 32 else 512
/-- Size of a level's leaf. -/
def levelSize (l : Nat) : Nat := if l = 1 then 0x40000000 else if l = 2 then 0x200000 else 0x10000

/-- A physical address lies in the doorbell space (R415). -/
def isBell (pa : Nat) : Bool := decide (Config.bellBase ≤ pa) && decide (pa < Config.bellBase + Config.bellSize)

/-- The leaf of a tenant's doorbell page (R415): level 3, the tenant's own page, no fetch, placement word 0. -/
def bellLeafOk (ten l adr perm plc : Nat) : Bool :=
  decide (l = 3) && decide (adr = Config.bellBase + 0x10000 * ten) && decide (perm < 4) && decide (plc = 0)

/-- The table walk of R237 from one level on, over a memory; `ok` judges the frames and key slot of a leaf (R438). -/
def walkFrom (m : Mem) (plcOk : Nat → Bool) (ok : Nat → Nat → Nat → Bool) (ten v : Nat) : Nat → Nat → Nat → WalkEnd
  | 0, _, _ => .missing
  | fuel + 1, l, table =>
    let a := table + 16 * (v / 2 ^ levelShift l % levelCount l)
    let w0 := Mem.read m a 8
    let w1 := Mem.read m (a + 8) 8
    let adr := w0 / 512 % 2 ^ 39 * 512
    let perm := w0 / 4 % 8
    if w0 % 2 = 0 then .missing
    else if w0 / 2 ^ 48 ≠ 0 ∨ w0 / 32 % 16 ≠ 0 ∨ w1 / 2 ^ 32 ≠ 0 then .broken l w0 w1
    else if w0 / 2 % 2 = 0 then
      if l = 3 ∨ perm ≠ 0 ∨ w1 ≠ 0 ∨ adr % (if l = 2 then 512 else 8192) ≠ 0
          ∨ Config.memSize < adr + 16 * levelCount (l + 1) then .broken l w0 w1
      else walkFrom m plcOk ok ten v fuel (l + 1) adr
    else if Config.memSize ≤ adr then
      if bellLeafOk ten l adr perm w1 then .leaf (v / 65536 * 65536) 65536 adr perm w1 else .broken l w0 w1
    else if l = 0 ∨ adr % levelSize l ≠ 0 ∨ Config.memSize < adr + levelSize l ∨ !plcOk w1
        ∨ pageBytes (w1 / 16 % 4) ≠ levelSize l ∨ !ok adr (levelSize l) w1 then .broken l w0 w1
    else .leaf (v / levelSize l * levelSize l) (levelSize l) adr perm w1

/-- The walk of a tenant's page table for a virtual address (R237); a leaf has its placement word as it stands now. -/
def State.walk (s : State) (ten v : Nat) : WalkEnd :=
  match walkFrom s.mem s.plcOk (s.pageOwned ten) ten v 4 0 (s.tenant ten).ptb with
  | .leaf base size pa perm plc => .leaf base size pa perm (s.plcNow pa plc)
  | e => e

/-! ### Remote tesserae (R218) -/

/-- The core and offset of a remote tessera address for a strand of a gang; none when R218 calls it unmapped. -/
def State.remote (s : State) (g a len : Nat) : Option (Nat × Nat) :=
  let gt := a / 2 ^ 20 % 128
  if 2 ^ 30 ≤ a ∨ 95 < gt ∨ Config.tessSize < a % 2 ^ 20 + len then none
  else
    match Tbl.get none (s.gang g).place (96 * (a / 2 ^ 27 % 8) + gt) with
    | none => none
    | some c => if (s.gang g).state ≠ 7 ∧ (s.gang g).state ≠ 10 then some (c, a % 2 ^ 20) else none

/-- A location is marked, in the table of the homes, where there is a mark or was one. -/
def State.remark (s : State) (key : Nat) (rs : List Rel) : State :=
  if s.rel.isEmpty && rs.isEmpty then s else { s with rel := Tbl.set [] s.rel key rs }

/-- The release key of a tessera byte. -/
def tessRel (c off : Nat) : Nat := 2 ^ 40 + 2 ^ 17 * c + off / 8

/-- Bytes written to a core's tessera at physical offsets by someone other than its S and V0 slots: release marks of
the bytes fall, and a refetchable half they lie in is DIRTY (R226). -/
def State.writeTess (s : State) (c off n v : Nat) : State :=
  let k := s.core c
  let k := { k with tess := Mem.write k.tess off n v,
                    badTess := if off % 64 = 0 ∧ 64 ≤ n then k.badTess.filter (· != off / 64) else k.badTess,
                    softTess := if off % 64 = 0 ∧ 64 ≤ n then k.softTess.filter (· != off / 64) else k.softTess,
                    ce := if off % 64 = 0 ∧ 64 ≤ n then k.ce.filter (· != (0, off / 64)) else k.ce }
  let s := s.setCore c { k with cb0 := k.cb0.spoiled off n, cb1 := k.cb1.spoiled off n }
  if s.rel.isEmpty then s
  else { s with rel := s.rel.filter (fun e => !(decide (tessRel c off ≤ e.1) && decide (e.1 ≤ tessRel c (off + n - 1)))) }

/-! ### Acquire and release (R284 to R287) -/

/-- The release key of an interrupt source of a core, for the acquire of R416. -/
def bellRel (c n : Nat) : Nat := 2 ^ 50 + 16 * c + n

/-- A location has these release marks. -/
def State.setRel (s : State) (key : Nat) (r : List Rel) : State := { s with rel := Tbl.set [] s.rel key r }

/-- The release marks of a location at its home. -/
def State.relAt (s : State) (key : Nat) : List Rel := Tbl.get [] s.rel key

/-- The marks that a synchronising read may take on: those of STRLs (R284), or those of FENCEs (R286). -/
def Rel.meets (r : Rel) (sc g tile : Nat) : Bool := inScope sc g tile r.gang r.tile && inScope r.scope r.gang r.tile g tile

/-- What an acquire at scope `sc` by a context is ordered after, when the releases that mark a location synchronise with
it (R284). -/
def acquired (rs : List Rel) (sc g tile : Nat) : List (Nat × Nat) :=
  (rs.filter (fun r => !r.fence && !r.plain && r.meets sc g tile)).flatMap (·.deps)

/-- The writes that come before a marked write for an observer of gang `g` and gang tile `t`: whoever reads it, or reads
after it, comes after them there (R271 items 1 to 3). -/
def carried (rs : List Rel) (g t : Nat) : List (Nat × Nat) :=
  (rs.filter (fun r => inScope r.scope r.gang r.tile g t)).flatMap (·.deps)

/-- Those for every agent of the device (R281). -/
def carriedDev (rs : List Rel) : List (Nat × Nat) := (rs.filter (fun r => decide (5 ≤ r.scope))).flatMap (·.deps)

/-- A context has made or read stamped writes, with an access of FENCE class `cls` of bundle `n`. -/
def Ctx.note (x : Ctx) (cls n : Nat) (ws : List (Nat × Nat)) : Ctx :=
  let l := (ws.filter (fun w => decide (w.2 ≠ 0))).dedup.map (fun w => (⟨cls, n, w⟩ : Noted))
  { x with notes := x.notes ++ l.filter (fun e => !x.notes.contains e) }

/-- A context has read a location: the FENCEs that stand before the write it returned may synchronise with a FENCE of
its own (R286). -/
def Ctx.hear (x : Ctx) (rs : List Rel) : Ctx :=
  let l := rs.filter (fun r => r.fence && !r.plain && !x.heard.contains r)
  if l.isEmpty then x else { x with heard := x.heard ++ l }

/-- What a context has made, read or acquired. -/
def Ctx.known (x : Ctx) : List (Nat × Nat) := (x.seen ++ x.must).dedup

/-- What a context has made or read with accesses of bundles before `n`, or acquired (R284). -/
def Ctx.knownBefore (x : Ctx) (n : Nat) : List (Nat × Nat) :=
  ((x.notes.filter (fun e => decide (e.bundle < n))).map (·.stamp) ++ x.must).dedup

/-- What a context has made or read with accesses of the classes of a FENCE's mask of bundles before `n` (R260). -/
def Ctx.masked (x : Ctx) (mask n : Nat) : List (Nat × Nat) :=
  ((x.notes.filter (fun e => decide (e.bundle < n) && decide (e.cls &&& mask ≠ 0))).map (·.stamp)).dedup

/-- A FENCE of a context is over: its mask with ST leaves a mark for the writes that follow, and with LD it takes on what
the FENCEs that the context has heard of come after (R286). `g` and `t` are its gang and gang tile. -/
def Ctx.fenced (x : Ctx) (sc : Nat) (mask : BitVec 5) (g t : Nat) : Ctx :=
  let x := if mask.getLsbD 0 then
      x.acquire ((x.heard.filter (fun r => r.meets sc g t)).flatMap (·.deps))
    else x
  if mask.getLsbD 1 && !x.known.isEmpty then { x with released := x.released ++ [⟨sc, g, t, x.known, true, false⟩] } else x

/-- The context with the order it carries reduced to the writes that have some way to go. -/
def State.pruneCtx (s : State) (x : Ctx) : Ctx :=
  { x with notes := x.notes.filter (fun e => s.pending 7 (fun _ => true) e.stamp), must := s.prune x.must, retired := s.prune x.retired,
           released := s.pruneRels x.released, heard := s.pruneRels x.heard }

/-! ### The own tessera among the other locations (R271, R274 note 1, R286) -/

/-- The keys of the words of own-tessera bytes. -/
def tessKeys (c : Nat) (offs : List Nat) : List Nat := (offs.map (tessRel c)).dedup

/-- A STRL in a line that is not yet to be seen within its scope counts as read by whoever has read the line (R274). -/
def State.unripeAt (s : State) (line : Nat × Nat) : List (Nat × Nat) :=
  (s.unripe.filter (fun u => u.line == line)).map (·.stamp)

/-- An S or V0 load of a context of bundle `n` has read tessera bytes: their marks give it what comes before the writes it
has read, and the FENCEs it may synchronise with. -/
def State.heardOwn (s : State) (c : Nat) (cx : CtxId) (n : Nat) (acm : Bool) (offs : List Nat) : State :=
  if acm || s.rel.isEmpty then s
  else
    let k := s.core c
    let str := k.ctx (if cx = .svc then k.servedId else cx)
    let rs := (tessKeys c offs).flatMap s.relAt
    let ws := ((offs.map (· / 64)).dedup).flatMap (fun l => s.unripeAt (c + 1, l))
    s.setCore c (k.setCtx cx (((k.ctx cx).hear rs).note 1 n (carried rs str.gang str.gtile ++ ws)))

/-- An S, V0 or V1 store of a context to own bytes performs, after what the context must keep before it: the words of the
tessera have the marks of the FENCEs before it, and what stood there comes before it. -/
def State.storedOwn (s : State) (c : Nat) (cx : CtxId) (acm : Bool) (offs : List Nat) : State :=
  let x := s.ctxAt c cx
  let s := s.bringAll x.must
  if acm || (s.rel.isEmpty && x.released.isEmpty) then s
  else (tessKeys c offs).foldl (fun (s : State) key => s.remark key (x.released ++ s.inherited (s.relAt key)).dedup) s

/-! ### Doorbells (R415, R416) -/

/-- A doorbell write to a line of a tenant's page, for one gang: its bits join INTP.PEND of the target core, if the
gang runs here and occupies the tile; `mailbox` may set bits 0 to 3 as well. -/
def State.ring (s : State) (g line word : Nat) (mailbox : Bool) (deps : List (Nat × Nat)) : State :=
  let gg := s.gang g
  if gg.state ≠ 3 ∨ 768 ≤ line then s
  else
    match Tbl.get none gg.place line with
    | none => s
    | some c =>
      let v : BitVec 16 := BitVec.ofNat 16 word &&& (if mailbox then 0xFF0F else 0xFF00)
      let was := (s.core c).intp
      let s := s.setCore c { s.core c with intp := was ||| v }
      -- an interrupt that is still pending comes after every doorbell that has set it
      let before := fun (n : Nat) => if was.getLsbD n then (s.relAt (bellRel c n)).flatMap (·.deps) else []
      (List.range 16).foldl (fun (s : State) n =>
        if v.getLsbD n then s.setRel (bellRel c n) [⟨7, g, line, (before n ++ deps).dedup, false, false⟩] else s) s

/-- The doorbell line of a physical address. -/
def bellLine (pa : Nat) : Nat := (pa - Config.bellBase) % 0x10000 / 64

end Sys2Proof.Machine
end

