-- ==== Sys2Proof/Machine/Operands.lean ====
section
/-! DEFINITION. Operand forms: immediates and their IMX extension (R64, R75), FM and FVM addresses (R64, R67, R163),
and the accesses of a context to its own tessera and accumulator memory (R43, R47, R98, R163, R223, R380). -/

namespace Sys2Proof.Machine

/-- The IMX extension aimed at a slot of the bundle (R75). -/
def State.imxOf (s : State) (slot : Nat) : Option (BitVec 23) :=
  match s.iss.imx with
  | some (t, e) => if t = slot then some e else none
  | none => none

/-- A signed immediate field of `n` bits, extended by IMX to `n + 23` (R64, R75). -/
def State.immS (s : State) (slot : Nat) {n : Nat} (f : BitVec n) : Word64 :=
  match s.imxOf slot with
  | some e => (e ++ f).signExtend 64
  | none => f.signExtend 64

/-- An unsigned immediate field of `n` bits, extended by IMX to `n + 23` (R64, R75). -/
def State.immU (s : State) (slot : Nat) {n : Nat} (f : BitVec n) : Nat :=
  match s.imxOf slot with
  | some e => e.toNat * 2 ^ n + f.toNat
  | none => f.toNat

/-- The access size of a W code: b, h, w, d, bu, hu, wu (R64). -/
def sizeOfW (w : BitVec 3) : Nat := 2 ^ (w.toNat % 4)

/-- A loaded number of `n` bytes in a scalar register: sign-extended for W 0 to 2, zero-extended otherwise (R99). -/
def extendW (w : BitVec 3) (v : Nat) : Word64 :=
  match w.toNat with
  | 0 => (BitVec.ofNat 8 v).signExtend 64
  | 1 => (BitVec.ofNat 16 v).signExtend 64
  | 2 => (BitVec.ofNat 32 v).signExtend 64
  | _ => BitVec.ofNat 64 v

/-- The effective address of an FM form: base plus the scaled offset, modulo 2^64 (R64, R98, R247). -/
def State.addrFM (s : State) (slot : Nat) (a : BitVec 5) (o : BitVec 5) (size : Nat) : Word64 :=
  s.me.s a.toNat + BitVec.ofNat 64 (s.immU slot o * size)

/-- A branch target: the bundle's address plus 32 times the signed offset, modulo 2^64 (R64, R103). -/
def State.target (s : State) {n : Nat} (o : BitVec n) : Word64 :=
  s.me.pc + 32 * s.immS 0 o

/-- Lane `j` of a vector (R139). -/
def laneOf (v : Vec) (j : Nat) : BitVec 32 := BitVec.ofNat 32 (v.toNat / 2 ^ (32 * j))

/-- The address of lane `j` of an FVM form (R163). -/
def laneAddr (m : Nat) (e stride : Word64) (idx : Vec) (j : Nat) : Word64 :=
  match m with
  | 1 => e + BitVec.ofNat 64 j * stride
  | 2 => e + (laneOf idx j).setWidth 64
  | 3 => e
  | 5 => e + BitVec.ofNat 64 (4 * (j - 64))
  | _ => e + BitVec.ofNat 64 (4 * j)

/-- The lanes that take part in an FVM access (R163): for a broadcast store the lowest active lane only. -/
def partLanes (m : Nat) (store : Bool) (act : Pred) : Pred :=
  match m with
  | 3 => if store then act &&& (0 - act) else act
  | 4 => act &&& BitVec.ofNat 128 (2 ^ 64 - 1)
  | 5 => act &&& BitVec.ofNat 128 (2 ^ 128 - 2 ^ 64)
  | _ => act

/-- Lane and address of every lane that takes part, ascending. -/
def laneAddrs (m : Nat) (e stride : Word64) (idx : Vec) (part : Pred) : List (Nat × Word64) :=
  ((List.range 128).filter part.getLsbD).map (fun j => (j, laneAddr m e stride idx j))

/-- The FVM operands of the instruction in focus: base, stride and index vector (R67). -/
def State.fvm (s : State) (m : BitVec 3) (a b : BitVec 5) : Word64 × Word64 × Vec :=
  (s.me.s a.toNat, if m = 1 then s.me.s b.toNat else 0, if m = 2 then s.me.v b.toNat else 0)

/-! ### Watchpoints (25 R454, R455) -/

/-- A watchpoint matches an access: class bit (60 loads, 61 stores, 62 atomics), space, first byte and length. -/
def watchMatch (wpb wpl : Word64) (cls sp lo len : Nat) : Bool :=
  wpl.getLsbD 63 && wpl.getLsbD cls && decide (wpl.toNat % 2 ^ 32 ≠ 0) && decide (wpb.toNat / 2 ^ 61 = sp)
    && decide (lo < wpb.toNat % 2 ^ 48 + wpl.toNat % 2 ^ 32) && decide (wpb.toNat % 2 ^ 48 < lo + len)

/-- The lowest watchpoint of the full context in focus that any of the byte runs touches (R455). -/
def State.watch (s : State) (cls sp : Nat) (runs : List (Nat × Nat)) : Option Nat :=
  let x := s.me
  if s.cx = .svc then none
  else if runs.any (fun r => watchMatch x.wpb0 x.wpl0 cls sp r.1 r.2) then some 0
  else if runs.any (fun r => watchMatch x.wpb1 x.wpl1 cls sp r.1 r.2) then some 1
  else none

/-- The firing of a watchpoint, after every check of R79 (R455); otherwise the access goes on. -/
def State.watched (s : State) (cls sp : Nat) (runs : List (Nat × Nat)) (k : State → Out) : Out :=
  match s.watch cls sp runs with
  | some n => s.raise (9 + n) 16 7 (BitVec.ofNat 64 (2 ^ 63 + n))
  | none => k s

/-! ### The own tessera and accumulator memory -/

/-- A run of bytes of an own-memory access: logical offset, place in the value, length. -/
structure OwnRun where
  off : Nat
  pos : Nat
  len : Nat
deriving DecidableEq, Repr

/-- The physical bytes of own-tessera runs, as offsets (R223). -/
def Ctx.physOffs (x : Ctx) (store : Bool) (rs : List OwnRun) : List Nat :=
  rs.flatMap (fun r => (List.range r.len).map (fun i => (x.mapOwn store (r.off + i)).getD (r.off + i)))

/-- The 64-byte lines that runs touch at their offsets. -/
def runLines (rs : List OwnRun) : List Nat :=
  (rs.flatMap (fun r => (List.range ((r.off + r.len + 63) / 64 - r.off / 64)).map (r.off / 64 + ·))).dedup

/-- The 64-byte lines that own-tessera runs touch (R220). -/
def Ctx.physLines (x : Ctx) (store : Bool) (rs : List OwnRun) : List Nat :=
  if x.pairs.isEmpty then runLines rs
  else ((x.physOffs store rs).map (· / 64)).dedup

/-- The runs as places of the own memory with the halves as they stand (R223): physical bytes. -/
def Ctx.physPieces (x : Ctx) (core : Nat) (store acm : Bool) (rs : List OwnRun) : List Piece :=
  if acm || x.pairs.isEmpty then rs.map (fun r => ⟨.tess core r.off, r.pos, r.len⟩)
  else rs.flatMap (fun r => (List.range r.len).map (fun i =>
    ⟨.tess core ((x.mapOwn store (r.off + i)).getD (r.off + i)), r.pos + i, 1⟩))

/-- The number that the runs hold in memory. -/
def Core.gather (k : Core) (x : Ctx) (acm : Bool) (rs : List OwnRun) : Nat :=
  rs.foldl (fun acc r =>
    acc + (if acm then Mem.read k.acm r.off r.len else k.loadOwn x r.off r.len) * 256 ^ r.pos) 0

/-- The core after the runs are stored, in order, so that a later run prevails (R164). -/
def Core.scatter (k : Core) (cx : CtxId) (acm : Bool) (rs : List OwnRun) (v : Nat) : Core :=
  rs.foldl (fun k r =>
    let b := v / 256 ^ r.pos % 256 ^ r.len
    if acm then { k with acm := Mem.write k.acm r.off r.len b } else k.storeOwn cx r.off r.len b) k

/-- The physical lines that a store of the runs writes whole. -/
def Ctx.wholeLines (x : Ctx) (acm : Bool) (rs : List OwnRun) : List Nat :=
  rs.flatMap (fun r =>
    let first := (r.off + 63) / 64
    (List.range ((r.off + r.len) / 64 - first)).map (fun i =>
      if acm then first + i else (x.mapOwn true (64 * (first + i))).getD (64 * (first + i)) / 64))

/-- Lines stored whole are good again: their error lay in the old bytes. -/
def Core.heal (k : Core) (acm : Bool) (ls : List Nat) : Core :=
  let k := { k with ce := k.ce.filter (fun e => !(e.1 == (if acm then 1 else 0) && ls.contains e.2)) }
  if acm then { k with badAcm := k.badAcm.filter (fun l => !ls.contains l),
                       soft := k.soft.filter (fun e => !(e.1 == 1 && ls.contains e.2)) }
  else { k with badTess := k.badTess.filter (fun l => !ls.contains l), softTess := k.softTess.filter (fun l => !ls.contains l) }

/-- An own-memory access of an earlier bundle of the context in focus waits, for a bank or a refetch: the context's later
accesses come after it (R43, R47). -/
def State.behindDelayed (s : State) : Bool := s.kore.delayed.any (fun d => d.cx == s.cx && decide (d.bundle < s.me.bundles))

/-- Banks that the primary has claimed in this cycle are among those that an access of the secondary needs (R47). -/
def State.meetsPrimary (s : State) (banks : List Nat) : Bool :=
  let k := s.kore
  !k.isPrimary s.cx && k.claimAt == s.me.clock && banks.any (fun b => k.claims.contains b)

/-- The access meets a bank that the primary has claimed in this cycle, or an access of an earlier bundle of its context
already waits (R43, R47). -/
def State.mustWait (s : State) (banks : List Nat) : Bool := s.behindDelayed || s.meetsPrimary banks

/-- The banks of an access that the primary has claimed in this cycle (R450). -/
def State.hitsOf (s : State) (banks : List Nat) : List Nat :=
  if s.kore.claimAt = s.me.clock then banks.filter (fun b => s.kore.claims.contains b) else []

/-- The primary claims the banks of its access for this cycle (R47). -/
def State.claimBanks (s : State) (banks : List Nat) : State :=
  let k := s.kore
  if k.isPrimary s.cx then
    let now := s.me.clock
    s.setKore { k with
      claims := if k.claimAt = now then k.claims ++ banks else banks, claimAt := now,
      delayed := k.delayed.map (fun (d : Delayed) =>
        if d.since < now && banks.any (fun b => d.banks.contains b) then
          { d with since := now, hits := if d.hits.isEmpty then d.banks.filter (fun b => banks.contains b) else d.hits }
        else d) }
  else s

/-- The lines of a read that cannot be corrected, among its physical lines. -/
def Core.badLines (k : Core) (acm : Bool) (lines : List Nat) : List Nat :=
  lines.filter (fun l => if acm then k.badAcm.contains l else k.badTess.contains l)

/-- A line lies in the visible half of a refetchable region that is not DIRTY and whose fill record covers it
(R380 step 1). -/
def Ctx.refetchable (x : Ctx) (line : Nat) : Bool :=
  x.pairs.any (fun e =>
    let p := e.2
    let lo := if p.sel then p.base + p.half else p.base
    p.en && p.ref && decide (lo ≤ 64 * line) && decide (64 * line < lo + p.half)
      && !(if p.sel then p.dirty1 else p.dirty0)
      && (match (if p.sel then p.fill1 else p.fill0) with
          | some f => f.got.testBit ((64 * line - lo) / 64)
          | none => false))

/-- The lines of a read that a second read finds clean, among those not bad (R380 step 2). -/
def Core.softLines (k : Core) (acm : Bool) (lines : List Nat) : List Nat :=
  lines.filter (fun l => (if acm then k.soft.contains (1, l) else k.softTess.contains l) && !(k.badLines acm [l]).contains l)

/-- The erroneous lines among those that a read of the core in focus meets are corrected where they can be, counted and
logged; those that a second read finds clean are clean from now on (R380 steps 2 and 3, R424, R429). -/
def State.readErrors (s : State) (acm : Bool) (lines bad soft : List Nat) : State :=
  let s := s.corrected s.focus (if acm then 1 else 0) lines
  let s := bad.foldl (fun (s : State) l => s.sramUe s.focus (if acm then 1 else 0) (if acm then 0 else 64 * l) 0) s
  if soft.isEmpty then s
  else
    let s := soft.foldl (fun (s : State) l =>
      s.sramCe s.focus (if acm then 1 else 0) (if acm then 3 else 2) (if acm then 0 else 64 * l)) s
    if acm then s.setKore { s.kore with soft := s.kore.soft.filter (fun e => !(e.1 == 1 && soft.contains e.2)) }
    else s.setKore { s.kore with softTess := s.kore.softTess.filter (fun l => !soft.contains l) }

/-- A transient error of the context's current phase is noted; the boundary judges it (R382, R383). -/
def State.noteTransient (s : State) : State := s.setMe { s.me with transient := true }

/-- A read of own-tessera lines that delivers no register value, of a packet, a routine or a flag word (R326, R190, R349),
goes on once its lines that a refetch repairs are filled again; a transient is noted, and a line still bad raises UE_DATA
at the boundary (R380, log entry 40). -/
def State.ownClean (s : State) (lines : List Nat) (k : State → Out) : Out :=
  let bad := s.kore.badLines false lines
  let soft := s.kore.softLines false lines
  let again := (bad ++ soft).filter s.me.refetchable
  if bad.isEmpty && soft.isEmpty then k (s.corrected s.focus 0 lines)
  else if !again.isEmpty then .next (s.setIss { s.iss with out := .held 12, refetch := again })
  else
    let s := s.readErrors false lines bad soft
    let s := if soft.isEmpty then s else s.noteTransient
    k (if bad.isEmpty then s else s.setMe { s.me with asyncs := s.me.asyncs ++ [{ code := 13 }] })

/-- The banks of physical lines (R220). -/
def banksOf (lines : List Nat) : List Nat := (lines.map (· % 96)).dedup

/-- An own-tessera access without a delivered value takes its turn among the context's accesses (R43, R47): its bundle is
held while an earlier access waits or the primary claims a bank of it (log entry 113), and its own banks are claimed. -/
def State.inTurn (s : State) (lines : List Nat) (k : State → Out) : Out :=
  if s.behindDelayed || s.meetsPrimary (banksOf lines) then s.hold 10 else k (s.claimBanks (banksOf lines))

/-- Such an access reads the lines (R380). -/
def State.ownRead (s : State) (lines : List Nat) (k : State → Out) : Out := s.inTurn lines fun s => s.ownClean lines k

/-- The value of a scalar or vector result in a register, from the bytes read. -/
def loadValue (sext : Option Nat) (v : Nat) : Vec :=
  match sext with
  | some w => (extendW (BitVec.ofNat 3 w) v).setWidth 4096
  | none => BitVec.ofNat 4096 v

/-- An own-memory load whose checks have passed: read in its issue cycle and delivered after `lat`, or queued behind
a bank or a refetch (R43, R47, R99, R164, R380). `sext` is the W code of a scalar load. -/
def State.ownLoad (s : State) (acm : Bool) (rs : List OwnRun) (sext : Option Nat) (key land lat : Nat)
    (lanes : Pred) : State :=
  let x := s.me
  let lines := if acm then runLines rs else x.physLines false rs
  let banks := if acm then [] else (lines.map (· % 96)).dedup
  let bad := s.kore.badLines acm lines
  let soft := s.kore.softLines acm lines
  let refetch := !acm && (bad.any x.refetchable || soft.any x.refetchable)
  if s.mustWait banks || refetch then
    let k := s.kore
    let d : Delayed := { id := k.nextId, cx := s.cx, store := false, acm := acm, refetch := refetch, banks := banks,
                         pc := x.pc, hits := if refetch then [] else s.hitsOf banks, bundle := x.bundles, orig := x.clock,
                         since := x.clock, lat := lat, pieces := x.physPieces s.focus false acm rs,
                         sext := sext, reg := key, land := land, stamp := x.stamp, lanes := lanes }
    let s := s.setKore { k with delayed := k.delayed ++ [d], nextId := k.nextId + 1 }
    let s := s.claimBanks banks
    if land = 0 && key ≠ 0 then
      let x := s.me
      s.setMe ({ x with dw := x.dw || x.collides key 0 }.setTwo key { (x.two key) with w := true })
    else s.setMe (s.me.expect key lanes land k.nextId)
  else
    let v := loadValue sext (s.kore.gather x acm rs)
    let s := (s.claimBanks banks).heardOwn s.focus s.cx x.bundles acm (if acm then [] else x.physOffs false rs)
    let s := s.readErrors acm lines bad soft
    if !bad.isEmpty && land = 0 && key ≠ 0 then
      let x := s.me
      let free := s.iss.spare.getD (Config.pwqDepth - x.pwq.length)
      let x := { x with dw := x.dw || x.collides key 0 }.setTwo key { (x.two key) with w := true }
      let e : Pwq := { reg := key, val := some v, ready := x.clock + lat, poison := true, stamp := x.stamp, lanes := lanes }
      { s.setMe (x.poisoned e free) with iss := { s.iss with spare := some (free - 1) } }
    else if !bad.isEmpty then
      -- R380 step 3: a poisoned result keeps its queue entry until it is due
      let y := s.me.expect key lanes land s.kore.nextId
      let s := s.setMe (y.deliver s.kore.nextId v (x.clock + lat) true)
      s.setKore { s.kore with nextId := s.kore.nextId + 1 }
    else
      let s := s.setMe (s.me.writeReg key v lanes land (x.clock + lat))
      -- R380 step 2: the second read is clean
      if soft.isEmpty then s else s.noteTransient

/-- A delayed load covers byte `o` of its memory. -/
def Delayed.covers (d : Delayed) (o : Nat) : Bool :=
  d.pieces.any (fun p => match p.loc with
    | .tess _ a => decide (a ≤ o) && decide (o < a + p.len)
    | .mem _ _ => false)

/-- A store of bundle `n` of a context is about to change bytes `offs`: the delayed loads of that bundle keep them as they
stand (R41). -/
def Core.keepFor (k : Core) (cx : CtxId) (n : Nat) (acm : Bool) (offs : List Nat) : Core :=
  if !k.delayed.any (fun d => d.cx == cx && d.bundle == n && d.acm == acm && !d.store) then k
  else { k with delayed := k.delayed.map (fun (d : Delayed) =>
    if d.cx == cx && d.bundle == n && d.acm == acm && !d.store then
      { d with snap := d.snap ++ ((offs.filter (fun o => d.covers o && !d.snap.any (·.1 == o))).dedup.map (fun o =>
          (o, Mem.byte (if acm then k.acm else k.tess) o))) }
    else d) }

/-- An own-memory store whose checks have passed: written in its issue cycle, or queued behind a bank (R43, R47). A
line stored whole again is good again. -/
def State.ownStore (s : State) (acm : Bool) (rs : List OwnRun) (v : Nat) : State :=
  let x := s.me
  let banks := if acm then [] else ((x.physLines true rs).map (· % 96)).dedup
  if s.mustWait banks then
    let k := s.kore
    let d : Delayed := { id := k.nextId, cx := s.cx, store := true, acm := acm, banks := banks, pc := x.pc, hits := s.hitsOf banks,
                         bundle := x.bundles, orig := x.clock, since := x.clock, lat := 0, pieces := x.physPieces s.focus true acm rs, whole := x.wholeLines acm rs, val := v,
                         stamp := x.stamp }
    let y := if acm then x else rs.foldl (fun (y : Ctx) r => y.dirtied r.off r.len) x
    (s.setKore { k with delayed := k.delayed ++ [d], nextId := k.nextId + 1 }).setMe y
  else
    let offs := if acm then rs.flatMap (fun r => (List.range r.len).map (r.off + ·)) else x.physOffs true rs
    ((s.setKore (((s.kore.keepFor s.cx x.bundles acm offs).scatter s.cx acm rs v).heal acm (x.wholeLines acm rs))).claimBanks
      banks).storedOwn s.focus s.cx acm offs

/-- The instruction in focus is an escaping operation of its phase (R381). -/
def State.escape (s : State) : State := { s with iss := { s.iss with esc := true } }

/-- A store of the S or V0 slot escapes unless it lies wholly inside a paired region (R381). -/
def State.escapeStore (s : State) (rs : List OwnRun) : State :=
  if rs.all (fun r => s.me.inPair r.off r.len) then s else s.escape

/-- The runs of lanes at their addresses, contiguous lanes joined. -/
def joinRuns : List (Nat × Nat) → List OwnRun
  | [] => []
  | (j, a) :: rest =>
    match joinRuns rest with
    | [] => [⟨a, 4 * j, 4⟩]
    | r :: rs => if r.off = a + 4 && r.pos = 4 * j + 4 then ⟨a, 4 * j, r.len + 4⟩ :: rs else ⟨a, 4 * j, 4⟩ :: r :: rs

end Sys2Proof.Machine
end

