-- ==== Sys2Proof/Machine/Scalar.lean ====
section
/-! DEFINITION. The S slot's arithmetic, compares, tessera accesses and predicate logic (03 R89 to R102). -/

namespace Sys2Proof.Machine

/-- A two-operand scalar instruction (R91). -/
def State.scalar2 (s : State) (h : Hdr) (d a b : BitVec 5) (f : Word64 → Word64 → Word64) (lat : Nat) : Out :=
  s.whenOn h fun s => s.putS d (f (s.me.s a.toNat) (s.me.s b.toNat)) h.land lat

/-- A one-operand scalar instruction (R93). -/
def State.scalar1 (s : State) (h : Hdr) (d a : BitVec 5) (f : Word64 → Word64) : Out :=
  s.whenOn h fun s => s.putS d (f (s.me.s a.toNat)) h.land 1

/-- An instruction with an extendable signed immediate (R95). -/
def State.scalarI (s : State) (h : Hdr) (d a : BitVec 5) (i : BitVec 8) (f : Word64 → Word64 → Word64) : Out :=
  s.whenOn h fun s => s.putS d (f (s.me.s a.toNat) (s.immS 0 i)) h.land 1

/-- A shift by an immediate (R95). -/
def State.shiftI (s : State) (h : Hdr) (d a : BitVec 5) (i : BitVec 8) (f : Word64 → Nat → Word64) : Out :=
  s.whenOn h fun s => s.putS d (f (s.me.s a.toNat) i.toNat) h.land 1

/-- A scalar compare (R97). -/
def State.scalarCmp (s : State) (h : Hdr) (d : BitVec 4) (a b : BitVec 5) (t : Word64 → Word64 → Bool) : Out :=
  s.whenOn h fun s => s.putP d (predOf (t (s.me.s a.toNat) (s.me.s b.toNat))) h.land 1

/-- A scalar compare with an extendable signed immediate (R97). -/
def State.scalarCmpI (s : State) (h : Hdr) (d : BitVec 4) (a : BitVec 5) (i : BitVec 8)
    (t : Word64 → Word64 → Bool) : Out :=
  s.whenOn h fun s => s.putP d (predOf (t (s.me.s a.toNat) (s.immS 0 i))) h.land 1

/-- A predicate instruction of two predicates (R101). -/
def State.plog (s : State) (h : Hdr) (d a b : BitVec 4) (f : Pred → Pred → Pred) : Out :=
  s.whenOn h fun s => s.putP d (f (s.me.p a.toNat) (s.me.p b.toNat)) h.land 1

/-- The shift count of a register form: bits 5 to 0 (R91). -/
def count6 (b : Word64) : Nat := b.toNat % 64

/-- Rotate left (R91). -/
def rolW (a b : Word64) : Word64 := a.rotateLeft (count6 b)

/-- Smaller and larger, signed and unsigned (R91). -/
def minS (a b : Word64) : Word64 := if BitVec.slt a b then a else b
/-- Larger, signed (R91). -/
def maxS (a b : Word64) : Word64 := if BitVec.slt a b then b else a
/-- Smaller, unsigned (R91). -/
def minU (a b : Word64) : Word64 := if BitVec.ult a b then a else b
/-- Larger, unsigned (R91). -/
def maxU (a b : Word64) : Word64 := if BitVec.ult a b then b else a

/-- High half of the signed product (R92). -/
def mulHighS (a b : Word64) : Word64 := BitVec.ofInt 64 (a.toInt * b.toInt / 18446744073709551616)
/-- High half of the unsigned product (R92). -/
def mulHighU (a b : Word64) : Word64 := BitVec.ofNat 64 (a.toNat * b.toNat / 18446744073709551616)

/-- Signed quotient, truncated toward zero, with the corners of R92. -/
def divS (a b : Word64) : Word64 := if b = 0 then -1 else BitVec.ofInt 64 (Int.tdiv a.toInt b.toInt)
/-- Unsigned quotient (R92). -/
def divU (a b : Word64) : Word64 := if b = 0 then -1 else BitVec.ofNat 64 (a.toNat / b.toNat)
/-- Signed remainder, with the sign of the dividend (R92). -/
def remS (a b : Word64) : Word64 := if b = 0 then a else BitVec.ofInt 64 (Int.tmod a.toInt b.toInt)
/-- Unsigned remainder (R92). -/
def remU (a b : Word64) : Word64 := if b = 0 then a else BitVec.ofNat 64 (a.toNat % b.toNat)

/-- Leading zero bits; 64 for zero (R93). -/
def clzW (a : Word64) : Word64 := if a = 0 then 64 else BitVec.ofNat 64 (63 - Nat.log2 a.toNat)
/-- The index of the lowest set bit below `n`; `n` when there is none. -/
def lowestBit {w : Nat} (a : BitVec w) (n : Nat) : Nat := ((List.range n).find? a.getLsbD).getD n
/-- The number of set bits below `n`. -/
def countBits {w : Nat} (a : BitVec w) (n : Nat) : Nat := ((List.range n).filter a.getLsbD).length
/-- Trailing zero bits; 64 for zero (R93). -/
def ctzW (a : Word64) : Word64 := BitVec.ofNat 64 (lowestBit a 64)
/-- Set bits (R93). -/
def popcW (a : Word64) : Word64 := BitVec.ofNat 64 (countBits a 64)

/-- PFROM: bit n is bit n mod 64 of the scalar (R101). -/
def pfromW (a : Word64) : Pred := a ++ a

/-- ADD (R91). -/
def execAdd (h : Hdr) (d a b : BitVec 5) (s : State) : Out :=
  s.scalar2 h d a b (fun a b => a + b) 1

/-- SUB (R91). -/
def execSub (h : Hdr) (d a b : BitVec 5) (s : State) : Out :=
  s.scalar2 h d a b (fun a b => a - b) 1

/-- AND (R91). -/
def execAnd (h : Hdr) (d a b : BitVec 5) (s : State) : Out :=
  s.scalar2 h d a b (fun a b => a &&& b) 1

/-- OR (R91). -/
def execOr (h : Hdr) (d a b : BitVec 5) (s : State) : Out :=
  s.scalar2 h d a b (fun a b => a ||| b) 1

/-- XOR (R91). -/
def execXor (h : Hdr) (d a b : BitVec 5) (s : State) : Out :=
  s.scalar2 h d a b (fun a b => a ^^^ b) 1

/-- ANDN (R91). -/
def execAndn (h : Hdr) (d a b : BitVec 5) (s : State) : Out :=
  s.scalar2 h d a b (fun a b => a &&& ~~~ b) 1

/-- SHL (R91). -/
def execShl (h : Hdr) (d a b : BitVec 5) (s : State) : Out :=
  s.scalar2 h d a b (fun a b => a <<< count6 b) 1

/-- SHR (R91). -/
def execShr (h : Hdr) (d a b : BitVec 5) (s : State) : Out :=
  s.scalar2 h d a b (fun a b => a >>> count6 b) 1

/-- SAR (R91). -/
def execSar (h : Hdr) (d a b : BitVec 5) (s : State) : Out :=
  s.scalar2 h d a b (fun a b => a.sshiftRight (count6 b)) 1

/-- ROL (R91). -/
def execRol (h : Hdr) (d a b : BitVec 5) (s : State) : Out :=
  s.scalar2 h d a b (rolW) 1

/-- MINS (R91). -/
def execMins (h : Hdr) (d a b : BitVec 5) (s : State) : Out :=
  s.scalar2 h d a b (minS) 1

/-- MAXS (R91). -/
def execMaxs (h : Hdr) (d a b : BitVec 5) (s : State) : Out :=
  s.scalar2 h d a b (maxS) 1

/-- MINU (R91). -/
def execMinu (h : Hdr) (d a b : BitVec 5) (s : State) : Out :=
  s.scalar2 h d a b (minU) 1

/-- MAXU (R91). -/
def execMaxu (h : Hdr) (d a b : BitVec 5) (s : State) : Out :=
  s.scalar2 h d a b (maxU) 1

/-- MUL (R92). -/
def execMul (h : Hdr) (d a b : BitVec 5) (s : State) : Out :=
  s.scalar2 h d a b (fun a b => a * b) 3

/-- MULHS (R92). -/
def execMulhs (h : Hdr) (d a b : BitVec 5) (s : State) : Out :=
  s.scalar2 h d a b (mulHighS) 3

/-- MULHU (R92). -/
def execMulhu (h : Hdr) (d a b : BitVec 5) (s : State) : Out :=
  s.scalar2 h d a b (mulHighU) 3

/-- DIVS (R92). -/
def execDivs (h : Hdr) (d a b : BitVec 5) (s : State) : Out :=
  s.scalar2 h d a b (divS) 18

/-- DIVU (R92). -/
def execDivu (h : Hdr) (d a b : BitVec 5) (s : State) : Out :=
  s.scalar2 h d a b (divU) 18

/-- REMS (R92). -/
def execRems (h : Hdr) (d a b : BitVec 5) (s : State) : Out :=
  s.scalar2 h d a b (remS) 18

/-- REMU (R92). -/
def execRemu (h : Hdr) (d a b : BitVec 5) (s : State) : Out :=
  s.scalar2 h d a b (remU) 18

/-- MOV (R93). -/
def execMov (h : Hdr) (d a : BitVec 5) (s : State) : Out :=
  s.scalar1 h d a (fun a => a)

/-- CLZ (R93). -/
def execClz (h : Hdr) (d a : BitVec 5) (s : State) : Out :=
  s.scalar1 h d a (clzW)

/-- CTZ (R93). -/
def execCtz (h : Hdr) (d a : BitVec 5) (s : State) : Out :=
  s.scalar1 h d a (ctzW)

/-- POPC (R93). -/
def execPopc (h : Hdr) (d a : BitVec 5) (s : State) : Out :=
  s.scalar1 h d a (popcW)

/-- BREV (R93). -/
def execBrev (h : Hdr) (d a : BitVec 5) (s : State) : Out :=
  s.scalar1 h d a (fun a => a.reverse)

/-- SEXTB (R93). -/
def execSextb (h : Hdr) (d a : BitVec 5) (s : State) : Out :=
  s.scalar1 h d a (fun a => (a.setWidth 8).signExtend 64)

/-- SEXTH (R93). -/
def execSexth (h : Hdr) (d a : BitVec 5) (s : State) : Out :=
  s.scalar1 h d a (fun a => (a.setWidth 16).signExtend 64)

/-- SEXTW (R93). -/
def execSextw (h : Hdr) (d a : BitVec 5) (s : State) : Out :=
  s.scalar1 h d a (fun a => (a.setWidth 32).signExtend 64)

/-- ZEXTB (R93). -/
def execZextb (h : Hdr) (d a : BitVec 5) (s : State) : Out :=
  s.scalar1 h d a (fun a => (a.setWidth 8).setWidth 64)

/-- ZEXTH (R93). -/
def execZexth (h : Hdr) (d a : BitVec 5) (s : State) : Out :=
  s.scalar1 h d a (fun a => (a.setWidth 16).setWidth 64)

/-- ZEXTW (R93). -/
def execZextw (h : Hdr) (d a : BitVec 5) (s : State) : Out :=
  s.scalar1 h d a (fun a => (a.setWidth 32).setWidth 64)

/-- LEA: a plus b shifted left by FN (R94). -/
def execLea (h : Hdr) (d a b : BitVec 5) (sh : BitVec 3) (s : State) : Out :=
  s.scalar2 h d a b (fun a b => a + b <<< sh.toNat) 1

/-- CMP.EQ (R97). -/
def execCmpEq (h : Hdr) (d : BitVec 4) (a b : BitVec 5) (s : State) : Out :=
  s.scalarCmp h d a b (cmpEqW)

/-- CMP.NE (R97). -/
def execCmpNe (h : Hdr) (d : BitVec 4) (a b : BitVec 5) (s : State) : Out :=
  s.scalarCmp h d a b (fun a b => !cmpEqW a b)

/-- CMP.LTS (R97). -/
def execCmpLts (h : Hdr) (d : BitVec 4) (a b : BitVec 5) (s : State) : Out :=
  s.scalarCmp h d a b (cmpLtS)

/-- CMP.LTU (R97). -/
def execCmpLtu (h : Hdr) (d : BitVec 4) (a b : BitVec 5) (s : State) : Out :=
  s.scalarCmp h d a b (cmpLtU)

/-- CMP.LES (R97). -/
def execCmpLes (h : Hdr) (d : BitVec 4) (a b : BitVec 5) (s : State) : Out :=
  s.scalarCmp h d a b (cmpLeS)

/-- CMP.LEU (R97). -/
def execCmpLeu (h : Hdr) (d : BitVec 4) (a b : BitVec 5) (s : State) : Out :=
  s.scalarCmp h d a b (cmpLeU)

/-- ADDI (R95). -/
def execAddi (h : Hdr) (d a : BitVec 5) (i : BitVec 8) (s : State) : Out :=
  s.scalarI h d a i (fun a b => a + b)

/-- ANDI (R95). -/
def execAndi (h : Hdr) (d a : BitVec 5) (i : BitVec 8) (s : State) : Out :=
  s.scalarI h d a i (fun a b => a &&& b)

/-- ORI (R95). -/
def execOri (h : Hdr) (d a : BitVec 5) (i : BitVec 8) (s : State) : Out :=
  s.scalarI h d a i (fun a b => a ||| b)

/-- XORI (R95). -/
def execXori (h : Hdr) (d a : BitVec 5) (i : BitVec 8) (s : State) : Out :=
  s.scalarI h d a i (fun a b => a ^^^ b)

/-- SHLI (R95). -/
def execShli (h : Hdr) (d a : BitVec 5) (i : BitVec 8) (s : State) : Out :=
  s.shiftI h d a i (fun a n => a <<< n)

/-- SHRI (R95). -/
def execShri (h : Hdr) (d a : BitVec 5) (i : BitVec 8) (s : State) : Out :=
  s.shiftI h d a i (fun a n => a >>> n)

/-- SARI (R95). -/
def execSari (h : Hdr) (d a : BitVec 5) (i : BitVec 8) (s : State) : Out :=
  s.shiftI h d a i (fun a n => a.sshiftRight n)

/-- CMPEQI (R97). -/
def execCmpeqi (h : Hdr) (d : BitVec 4) (a : BitVec 5) (i : BitVec 8) (s : State) : Out :=
  s.scalarCmpI h d a i cmpEqW

/-- CMPLTI (R97). -/
def execCmplti (h : Hdr) (d : BitVec 4) (a : BitVec 5) (i : BitVec 8) (s : State) : Out :=
  s.scalarCmpI h d a i cmpLtS

/-- CMPLTUI (R97). -/
def execCmpltui (h : Hdr) (d : BitVec 4) (a : BitVec 5) (i : BitVec 8) (s : State) : Out :=
  s.scalarCmpI h d a i cmpLtU

/-- LDI (R96). -/
def execLdi (h : Hdr) (d : BitVec 5) (i : BitVec 13) (s : State) : Out :=
  s.whenOn h fun s => s.putS d (s.immS 0 i) h.land 1

/-- The checks of an S-slot tessera access, in the order of R98 and R223; the access goes on when all pass. -/
def State.ownChecks (s : State) (slot : Nat) (e : Word64) (size : Nat) (k : State → Out) : Out :=
  if e.toNat % size ≠ 0 then s.raise 6 6 slot e
  else if Config.tessSize ≤ e.toNat then s.raise 6 4 slot e
  else if !s.me.ownOk e.toNat size then s.raise 6 5 slot e
  else k s

/-- LDS (R98, R99). -/
def execLds (h : Hdr) (t a : BitVec 5) (w : BitVec 3) (o : BitVec 5) (s : State) : Out :=
  s.whenOn h fun s =>
    let size := sizeOfW w
    let e := s.addrFM 0 a o size
    s.dest (keyS t.toNat) h.land.toNat (decide (0 < h.land.toNat)) fun s =>
    s.ownChecks 0 e size fun s =>
    s.watched 60 1 [(e.toNat, size)] fun s =>
      (s.ownLoad false [⟨e.toNat, 0, size⟩] (some w.toNat) (keyS t.toNat) h.land.toNat 4 (BitVec.allOnes 128)).done

/-- STS (R98, R100). -/
def execSts (h : Hdr) (t a : BitVec 5) (w : BitVec 3) (o : BitVec 5) (s : State) : Out :=
  s.whenOn h fun s =>
    let size := sizeOfW w
    let e := s.addrFM 0 a o size
    s.ownChecks 0 e size fun s =>
    s.watched 61 1 [(e.toNat, size)] fun s =>
      let v := (s.me.s t.toNat).toNat % 256 ^ size
      ((s.escapeStore [⟨e.toNat, 0, size⟩]).ownStore false [⟨e.toNat, 0, size⟩] v).done

/-- PAND (R101). -/
def execPand (h : Hdr) (d a b : BitVec 4) (s : State) : Out :=
  s.plog h d a b (fun a b => a &&& b)

/-- POR (R101). -/
def execPor (h : Hdr) (d a b : BitVec 4) (s : State) : Out :=
  s.plog h d a b (fun a b => a ||| b)

/-- PXOR (R101). -/
def execPxor (h : Hdr) (d a b : BitVec 4) (s : State) : Out :=
  s.plog h d a b (fun a b => a ^^^ b)

/-- PANDN (R101). -/
def execPandn (h : Hdr) (d a b : BitVec 4) (s : State) : Out :=
  s.plog h d a b (fun a b => a &&& ~~~ b)

/-- PNOT (R101). -/
def execPnot (h : Hdr) (d a : BitVec 4) (s : State) : Out :=
  s.whenOn h fun s => s.putP d (~~~ (s.me.p a.toNat)) h.land 1

/-- PSET (R101). -/
def execPset (h : Hdr) (d : BitVec 4) (s : State) : Out :=
  s.whenOn h fun s => s.putP d (BitVec.allOnes 128) h.land 1

/-- PCLR (R101). -/
def execPclr (h : Hdr) (d : BitVec 4) (s : State) : Out :=
  s.whenOn h fun s => s.putP d 0 h.land 1

/-- PFROM (R101). -/
def execPfrom (h : Hdr) (d : BitVec 4) (a : BitVec 5) (s : State) : Out :=
  s.whenOn h fun s => s.putP d (pfromW (s.me.s a.toNat)) h.land 1

/-- PCNT (R102). -/
def execPcnt (h : Hdr) (d : BitVec 5) (a : BitVec 4) (s : State) : Out :=
  s.whenOn h fun s => s.putS d (BitVec.ofNat 64 (countBits (s.me.p a.toNat) 128)) h.land 1

/-- PFIRST (R102). -/
def execPfirst (h : Hdr) (d : BitVec 5) (a : BitVec 4) (s : State) : Out :=
  s.whenOn h fun s => s.putS d (BitVec.ofNat 64 (lowestBit (s.me.p a.toNat) 128)) h.land 1

end Sys2Proof.Machine
end

