-- ==== Sys2Proof/Machine/Control.lean ====
section
/-! DEFINITION. Branches, calls, the link register, loop control and FLIP (03 R103 to R112, 01 R51), the P slot's
words (02 R72 to R76), NOP, and the matrix parameter writes of the M slot (08 R187). A branch names the bundle that
follows in the issue latch; the PC itself moves when the bundle commits. -/

namespace Sys2Proof.Machine

/-- The bundle transfers control to `t`. -/
def State.goTo (s : State) (t : Word64) : State := { s with iss := { s.iss with next := some t, taken := true } }

/-- A target register must hold a bundle address (R103); the fault stands among those of step 6 of R79, in slot 0 (log
entry 110). -/
def State.aligned (s : State) (t : Word64) (k : State → Out) : Out :=
  if t.toNat % 32 ≠ 0 then s.raise 6 6 0 t else k s

/-- The link register takes the address of the next bundle (R103, R104). -/
def State.link (s : State) : State := s.setMe { s.me with lr := s.me.pc + 32 }

/-- NOP: nothing (R58). -/
def execNop (s : State) : Out := s.done

/-- BR (R103). -/
def execBr (h : Hdr) (o : BitVec 18) (s : State) : Out :=
  s.whenOn h fun s => (s.goTo (s.target o)).done

/-- CALL (R103). -/
def execCall (h : Hdr) (o : BitVec 18) (s : State) : Out :=
  s.whenOn h fun s => ((s.goTo (s.target o)).link).done

/-- BRI (R103). -/
def execBri (h : Hdr) (a : BitVec 5) (s : State) : Out :=
  s.whenOn h fun s => s.aligned (s.me.s a.toNat) fun s => (s.goTo (s.me.s a.toNat)).done

/-- CALLI (R103): sA is read before LR is written. -/
def execCalli (h : Hdr) (a : BitVec 5) (s : State) : Out :=
  s.whenOn h fun s => s.aligned (s.me.s a.toNat) fun s => ((s.goTo (s.me.s a.toNat)).link).done

/-- RET (R103, R104). -/
def execRet (h : Hdr) (s : State) : Out :=
  s.whenOn h fun s => s.aligned s.me.lr fun s => (s.goTo s.me.lr).done

/-- MOVLR, form 0: the scalar takes LR (R105). -/
def execMovlrRead (h : Hdr) (d : BitVec 5) (s : State) : Out :=
  s.whenOn h fun s => s.putS d s.me.lr h.land 1

/-- MOVLR, form 1: LR takes the scalar (R105). -/
def execMovlrWrite (h : Hdr) (a : BitVec 5) (s : State) : Out :=
  s.whenOn h fun s => (s.setMe { s.me with lr := s.me.s a.toNat }).done

/-- LSET (R108). -/
def execLset (h : Hdr) (d : BitVec 2) (a : BitVec 5) (s : State) : Out :=
  s.whenOn h fun s => s.putLc d ((s.me.s a.toNat).setWidth 32) h.land 1

/-- The slot word of the bundle at a slot number, as ILLEGAL_INSTR reports it (R370). -/
def State.slotWord (s : State) (n : Nat) : Word64 := ((s.iss.words[n]?).getD 0).setWidth 64

/-- LSETI (R108): a value above 32 bits is an illegal instruction, whatever the guard (R38). -/
def execLseti (h : Hdr) (d : BitVec 2) (i : BitVec 13) (s : State) : Out :=
  if 0xFFFFFFFF < s.immU 0 i then s.raise 1 1 0 (s.slotWord 0)
  else s.whenOn h fun s => s.putLc d (BitVec.ofNat 32 (s.immU 0 i)) h.land 1

/-- LTSET (R109). -/
def execLtset (h : Hdr) (i : BitVec 13) (s : State) : Out :=
  s.whenOn h fun s => (s.setMe { s.me with tail := i.setWidth 8 }).done

/-- The stage predicate's key: the register that p15 names now and p8 after the rotation (R51). -/
def Ctx.stageKey (x : Ctx) : Nat := regKey 1 (8 + (7 + 8 - x.rpos.toNat) % 8)

/-- LOOPF (R51, R110): its counter and stage writes are LAND-0 results of latency 1; its flip is owed once the bundle
issues, and carries the changes of TAIL and RPOS. -/
def execLoopf (h : Hdr) (c : BitVec 2) (o : BitVec 16) (s : State) : Out :=
  s.whenOn h fun s =>
    let x := s.me
    let n := x.lc c.toNat
    let counts := decide (0 < n.toNat)
    let go := counts || decide (0 < x.tail.toNat)
    let stage := go && x.rot
    s.dest (if counts then keyLc c.toNat else 0) 0 false fun s =>
    s.dest (if stage then x.stageKey else 0) 0 false fun s =>
      let y := if counts then x.writeReg (keyLc c.toNat) ((n - 1).setWidth 4096) (BitVec.allOnes 128) 0 (x.clock + 1)
        else x
      let y := if stage then y.writeReg x.stageKey ((predOf counts).setWidth 4096) (BitVec.allOnes 128) 0 (x.clock + 1)
        else y
      let s := s.setMe y
      let s := { s with iss := { s.iss with flip := some { issued := x.clock, ftl := !counts && go, frot := stage } } }
      (if go then s.goTo (s.target o) else s).done

/-- LOOP (R111). -/
def execLoop (h : Hdr) (c : BitVec 2) (o : BitVec 16) (s : State) : Out :=
  s.whenOn h fun s =>
    let n := s.me.lc c.toNat
    if n = 0 then s.done
    else s.dest (keyLc c.toNat) 0 false fun s =>
      let x := s.me
      ((s.setMe (x.writeReg (keyLc c.toNat) ((n - 1).setWidth 4096) (BitVec.allOnes 128) 0 (x.clock + 1))).goTo
        (s.target o)).done

/-- FLIP (R20, R112): the flip is owed from the bundle's issue; it completes as R22 gives. -/
def execFlip (h : Hdr) (s : State) : Out :=
  s.whenOn h fun s => { s with iss := { s.iss with flip := some { issued := s.me.clock } } }.done

/-- PFX (R73): its fields govern the V slots of its bundle. -/
def execPfx (x y : BitVec 3) (a b : BitVec 1) (r : BitVec 5) (w : BitVec 2) (s : State) : Out :=
  { s with iss := { s.iss with rm0 := x.toNat, rm1 := y.toNat, lat0 := a == 1, lat1 := b == 1, rnd := r.toNat,
                               rw := w.toNat } }.done

/-- IMX (R75): the extension waits in the issue latch for its target slot. -/
def execImx (sl : BitVec 3) (e : BitVec 23) (s : State) : Out :=
  { s with iss := { s.iss with imx := some (sl.toNat, e) } }.done

/-- MARK (R76): it changes no architectural state; the trace unit logs it when the bundle issues (R451). -/
def execMark (c : BitVec 20) (t : BitVec 6) (s : State) : Out :=
  { s with iss := { s.iss with mark := some (c, t) } }.done

/-- MSET (R187). -/
def execMset (h : Hdr) (d : BitVec 3) (a : BitVec 5) (s : State) : Out :=
  s.whenOn h fun s => s.putM d (s.me.s a.toNat) h.land 1

/-- MSETI (R187). -/
def execMseti (h : Hdr) (d : BitVec 3) (i : BitVec 13) (s : State) : Out :=
  s.whenOn h fun s => s.putM d (s.immS 3 i) h.land 1

end Sys2Proof.Machine
end

