-- ==== Sys2Proof/Machine/Fp.lean ====
section
/-! DEFINITION. Number formats, exact values and the one rounding of the device (07 R165 to R173). -/

namespace Sys2Proof.Machine

/-- A floating-point format: exponent bits, mantissa bits, bias; `few` marks E4M3, whose top exponent is finite but
for one code (R165, R166). -/
structure Fmt where
  e    : Nat
  m    : Nat
  bias : Nat
  few  : Bool := false
deriving DecidableEq, Repr

/-- FP64 (R166). -/
def fp64 : Fmt := { e := 11, m := 52, bias := 1023 }
/-- FP32 (R166). -/
def fp32 : Fmt := { e := 8, m := 23, bias := 127 }
/-- FP16 (R166). -/
def fp16 : Fmt := { e := 5, m := 10, bias := 15 }
/-- BF16 (R166). -/
def bf16 : Fmt := { e := 8, m := 7, bias := 127 }
/-- E4M3 (R166). -/
def e4m3 : Fmt := { e := 4, m := 3, bias := 7, few := true }
/-- E5M2 (R166). -/
def e5m2 : Fmt := { e := 5, m := 2, bias := 15 }

/-- Width of a format in bits. -/
def Fmt.width (f : Fmt) : Nat := 1 + f.e + f.m

/-- The code of +∞; for E4M3, of the value after the largest finite one, its NaN (R165, R166). -/
def Fmt.top (f : Fmt) : Nat := if f.few then 2 ^ (f.e + f.m) - 1 else (2 ^ f.e - 1) * 2 ^ f.m

/-- The code of the largest finite value (R166). -/
def Fmt.maxCode (f : Fmt) : Nat := f.top - 1

/-- The canonical NaN (R166). -/
def Fmt.qnan (f : Fmt) : Nat := if f.few then f.top else f.top + 2 ^ (f.m - 1)

/-- The sign bit of a format as a number. -/
def Fmt.sign (f : Fmt) (neg : Bool) : Nat := if neg then 2 ^ (f.e + f.m) else 0

/-- An exact value: a NaN, an infinity, or a signed magnitude `mag × 2^e`; a zero keeps its sign. -/
inductive FVal where
  | nan
  | inf (neg : Bool)
  | fin (neg : Bool) (mag : Nat) (e : Int)
deriving DecidableEq, Repr

/-- The value of an encoding (R165). -/
def Fmt.val (f : Fmt) (x : Nat) : FVal :=
  let neg := x / 2 ^ (f.e + f.m) % 2 == 1
  let ef := x / 2 ^ f.m % 2 ^ f.e
  let mf := x % 2 ^ f.m
  if f.few && x % 2 ^ (f.e + f.m) == f.top then .nan
  else if !f.few && ef == 2 ^ f.e - 1 then (if mf = 0 then .inf neg else .nan)
  else if ef = 0 then .fin neg mf (1 - f.bias - f.m)
  else .fin neg (2 ^ f.m + mf) (ef - f.bias - f.m)

/-- A NaN encoding whose top mantissa bit is 0 (R165). -/
def Fmt.signalling (f : Fmt) (x : Nat) : Bool := !f.few && f.val x == .nan && x / 2 ^ (f.m - 1) % 2 == 0

/-- Rounding modes by their PFX codes: 0 RNE, 1 RTZ, 2 RDN, 3 RUP, 4 RNA, 5 RTO, 6 RSR (R73, R172), with the random
value of RSR and its width (R173). -/
structure Rm where
  mode : Nat := 0
  r    : Nat := 0
  w    : Nat := 8
deriving DecidableEq, Repr

/-- Round to nearest, ties to even. -/
def rne : Rm := {}

/-- The number of times 2 divides `n`, at most `fuel`. -/
def twos (n : Nat) : Nat → Nat
  | 0 => 0
  | fuel + 1 => if n % 2 = 0 then 1 + twos (n / 2) fuel else 0

/-- The grid points a magnitude rounds to, in units of the grid: `t` units and a discarded part `d0 / 2^sh` (R171 to
R173). -/
def Rm.apply (rm : Rm) (neg : Bool) (t d0 sh : Nat) : Nat :=
  if d0 = 0 then t
  else
    let z := twos d0 sh
    let dd := d0 / 2 ^ z
    let d := sh - z
    match rm.mode with
    | 0 => if 2 * d0 > 2 ^ sh || (2 * d0 == 2 ^ sh && t % 2 == 1) then t + 1 else t
    | 1 => t
    | 2 => if neg then t + 1 else t
    | 3 => if neg then t else t + 1
    | 4 => if 2 * d0 ≥ 2 ^ sh then t + 1 else t
    | 5 => if t % 2 = 0 then t + 1 else t
    | _ =>
      if d ≤ rm.w then (if dd + rm.r / 2 ^ (rm.w - d) ≥ 2 ^ d then t + 1 else t)
      else (if dd / 2 ^ (d - rm.w) + rm.r ≥ 2 ^ rm.w then t + 1 else t)

/-- A magnitude `mag × 2^e` split over a grid of spacing 2^u: whole units, discarded part and its width. -/
def splitAt (mag : Nat) (e u : Int) : Nat × Nat × Nat :=
  if u ≤ e then (mag * 2 ^ (e - u).toNat, 0, 0)
  else
    let sh := (u - e).toNat
    (mag / 2 ^ sh, mag % 2 ^ sh, sh)

/-- The magnitude code that a positive magnitude rounds to, not bounded by the largest finite code (R171, R172). A
code above `maxCode` has overflowed. -/
def Fmt.roundMag (f : Fmt) (rm : Rm) (neg : Bool) (mag : Nat) (e : Int) : Nat :=
  if mag = 0 then 0
  else
    let emin : Int := 1 - f.bias
    let emax : Int := (f.maxCode / 2 ^ f.m : Nat) - f.bias
    let ex : Int := (Nat.log2 mag : Nat) + e
    let u : Int := min (max ex emin) emax - f.m
    let (t, d0, sh) := splitAt mag e u
    let r := rm.apply neg t d0 sh
    if ex > emax then (if r > 2 ^ (f.m + 1) - 1 then f.maxCode + 1 else (u + f.m + f.bias).toNat * 2 ^ f.m + r - 2 ^ f.m)
    else (u + f.m + f.bias).toNat * 2 ^ f.m + r - 2 ^ f.m

/-- The magnitude overflows: it rounds beyond the largest finite value (R172). -/
def Fmt.overflows (f : Fmt) (rm : Rm) (neg : Bool) (mag : Nat) (e : Int) : Bool :=
  decide (f.maxCode < f.roundMag rm neg mag e)

/-- What an overflow delivers: an infinity, or the largest finite magnitude where the mode rounds toward zero
(R172). -/
def Rm.overflowInf (rm : Rm) (neg : Bool) : Bool :=
  match rm.mode with
  | 1 => false
  | 5 => false
  | 2 => neg
  | 3 => !neg
  | _ => true

/-- The encoding of an exact value rounded once (R171, R172); the canonical NaN for a NaN (R141). -/
def Fmt.round (f : Fmt) (rm : Rm) : FVal → Nat
  | .nan => f.qnan
  | .inf neg => f.sign neg + f.top
  | .fin neg mag e =>
    if f.overflows rm neg mag e then f.sign neg + (if rm.overflowInf neg then f.top else f.maxCode)
    else f.sign neg + f.roundMag rm neg mag e

/-- Negation. -/
def FVal.neg : FVal → FVal
  | .nan => .nan
  | .inf n => .inf (!n)
  | .fin n m e => .fin (!n) m e

/-- Magnitude. -/
def FVal.abs : FVal → FVal
  | .nan => .nan
  | .inf _ => .inf false
  | .fin _ m e => .fin false m e

/-- The exact product (R147). -/
def FVal.mul : FVal → FVal → FVal
  | .nan, _ => .nan
  | _, .nan => .nan
  | .inf a, .inf b => .inf (a != b)
  | .inf a, .fin b m _ => if m = 0 then .nan else .inf (a != b)
  | .fin b m _, .inf a => if m = 0 then .nan else .inf (a != b)
  | .fin a m e, .fin b n g => .fin (a != b) (m * n) (e + g)

/-- The exact value as an integer of units 2^u, for u no larger than its exponent. -/
def scaled (neg : Bool) (mag : Nat) (e u : Int) : Int :=
  if neg then -((mag * 2 ^ (e - u).toNat : Nat) : Int) else ((mag * 2 ^ (e - u).toNat : Nat) : Int)

/-- A signed integer of units 2^u as a value; `z` is the sign of a zero. -/
def unscaled (z : Bool) (v u : Int) : FVal :=
  if v = 0 then .fin z 0 u else .fin (decide (v < 0)) v.natAbs u

/-- The exact sum; an exact zero takes IEEE 754-2019's sign under the mode (R147). -/
def FVal.add (rdn : Bool) : FVal → FVal → FVal
  | .nan, _ => .nan
  | _, .nan => .nan
  | .inf a, .inf b => if a = b then .inf a else .nan
  | .inf a, .fin _ _ _ => .inf a
  | .fin _ _ _, .inf b => .inf b
  | .fin a m e, .fin b n g =>
    let u := min e g
    let z := if m = 0 && n = 0 && a == b then a else rdn
    unscaled z (scaled a m e u + scaled b n g u) u

/-- The exact values are in order, NaNs apart: −∞ below all, +∞ above all, zeros equal. -/
def FVal.lt : FVal → FVal → Bool
  | .nan, _ => false
  | _, .nan => false
  | .inf a, .inf b => a && !b
  | .inf a, .fin _ _ _ => a
  | .fin _ _ _, .inf b => !b
  | .fin a m e, .fin b n g => decide (scaled a m e (min e g) < scaled b n g (min e g))

/-- Equal values: zeros equal whatever their signs, a NaN equal to nothing (R150). -/
def FVal.same : FVal → FVal → Bool
  | .nan, _ => false
  | _, .nan => false
  | a, b => !a.lt b && !b.lt a

/-- The sign of a value that is not a NaN. -/
def FVal.isNeg : FVal → Bool
  | .nan => false
  | .inf n => n
  | .fin n _ _ => n

/-- minimumNumber of two encodings: −0 below +0, a NaN gives way, two NaNs give the canonical NaN (R147). -/
def Fmt.minNum (f : Fmt) (a b : Nat) : Nat :=
  match f.val a, f.val b with
  | .nan, .nan => f.qnan
  | .nan, _ => b
  | _, .nan => a
  | x, y => if x.lt y then a else if y.lt x then b else if x.isNeg then a else b

/-- maximumNumber of two encodings (R147). -/
def Fmt.maxNum (f : Fmt) (a b : Nat) : Nat :=
  match f.val a, f.val b with
  | .nan, .nan => f.qnan
  | .nan, _ => b
  | _, .nan => a
  | x, y => if y.lt x then a else if x.lt y then b else if x.isNeg then b else a

/-- The float format of an element type code TY 4 to 7 (R66, R147). -/
def tyFmt (t : Nat) : Fmt := if t = 4 then fp16 else if t = 5 then bf16 else if t = 6 then fp32 else fp64

/-- The element width of a type code TY 0 to 7 (R139, R145, R147). -/
def tyWidth (t : Nat) : Nat :=
  if t = 0 then 8 else if t = 1 then 16 else if t = 2 then 32 else if t = 3 then 64 else (tyFmt t).width

/-- A dyadic value just at or beyond a quotient: floor(p × 2^k / q) with a sticky bit, as a magnitude of 2^(−k−1).
It rounds to nearest as p / q does once k leaves two bits below the grid. -/
def stickyDiv (p q k : Nat) : Nat × Int := (2 * (p * 2 ^ k / q) + (if p * 2 ^ k % q = 0 then 0 else 1), -(k : Int) - 1)

/-- The integer square root by bits: the largest r with r² ≤ n, from bit `fuel − 1` down. -/
def isqrtFrom (n : Nat) : Nat → Nat → Nat
  | 0, r => r
  | fuel + 1, r => if (r + 2 ^ fuel) * (r + 2 ^ fuel) ≤ n then isqrtFrom n fuel (r + 2 ^ fuel) else isqrtFrom n fuel r

/-- The integer square root. -/
def isqrt (n : Nat) : Nat := isqrtFrom n (Nat.log2 n / 2 + 1) 0

/-- The exact quotient of two finite values, ready for one rounding to nearest (R161): enough quotient bits for FP64
in any range. -/
def FVal.div : FVal → FVal → FVal
  | .nan, _ => .nan
  | _, .nan => .nan
  | .inf _, .inf _ => .nan
  | .inf a, .fin b _ _ => .inf (a != b)
  | .fin a _ _, .inf b => .fin (a != b) 0 0
  | .fin a m e, .fin b n g =>
    if n = 0 then (if m = 0 then .nan else .inf (a != b))
    else
      let (q, k) := stickyDiv m n (Nat.log2 n + 64)
      .fin (a != b) q (k + e - g)

/-- The square root of a positive value, ready for one rounding to nearest (R161). -/
def FVal.sqrt : FVal → FVal
  | .nan => .nan
  | .inf n => if n then .nan else .inf false
  | .fin n m e =>
    if m = 0 then .fin n 0 0
    else if n then .nan
    else
      let g := if e % 2 = 0 then e else e - 1
      let v := if e % 2 = 0 then m else 2 * m
      let y := v * 2 ^ 130
      let r := isqrt y
      .fin false (2 * r + (if r * r = y then 0 else 1)) (g / 2 - 66)

end Sys2Proof.Machine
end

