-- ==== Sys2Proof/Machine/Special.lean ====
section
/-! DEFINITION. The correctly rounded special functions on FP32 (06 R161): an exact enclosure of the function value
between two dyadic numbers, tightened until both round to the same FP32 value. -/

namespace Sys2Proof.Machine

/-- An enclosure lo × 2^(−p) ≤ x ≤ hi × 2^(−p) of a non-negative real. -/
structure Encl where
  lo : Nat
  hi : Nat
deriving DecidableEq, Repr

/-- Rounded-up quotient. -/
def ceilDiv (a b : Nat) : Nat := (a + b - 1) / b

/-- Product of two enclosures at precision `p`. -/
def Encl.mul (p : Nat) (a b : Encl) : Encl := ⟨a.lo * b.lo / 2 ^ p, ceilDiv (a.hi * b.hi) (2 ^ p)⟩

/-- Quotient of two enclosures; the divisor is positive. -/
def Encl.div (p : Nat) (a b : Encl) : Encl := ⟨a.lo * 2 ^ p / b.hi, ceilDiv (a.hi * 2 ^ p) (max 1 b.lo)⟩

/-- Sum. -/
def Encl.add (a b : Encl) : Encl := ⟨a.lo + b.lo, a.hi + b.hi⟩

/-- Difference; the value is known to be non-negative. -/
def Encl.sub (a b : Encl) : Encl := ⟨a.lo - b.hi, a.hi - b.lo⟩

/-- `n` as an enclosure. -/
def Encl.nat (p n : Nat) : Encl := ⟨n * 2 ^ p, n * 2 ^ p⟩

/-- Quotient by a positive integer. -/
def Encl.divNat (a : Encl) (n : Nat) : Encl := ⟨a.lo / n, ceilDiv a.hi n⟩

/-- ln 2 = Σ 1 / (k 2^k): terms `k`, `k + 1`, … -/
def ln2Terms (p : Nat) : Nat → Nat → Encl
  | 0, _ => ⟨0, 1⟩
  | fuel + 1, k => Encl.add ⟨2 ^ p / (k * 2 ^ k), ceilDiv (2 ^ p) (k * 2 ^ k)⟩ (ln2Terms p fuel (k + 1))

/-- An enclosure of ln 2. -/
def ln2 (p : Nat) : Encl := ln2Terms p (p + 2) 1

/-- Alternating terms of arctan(1/n): z is 1/n^(2k+1) at precision p. -/
def atanTerms (p n : Nat) : Nat → Nat → Encl → Encl
  | 0, _, z => ⟨0, z.hi⟩
  | fuel + 1, k, z =>
    Encl.sub (z.divNat (2 * k + 1)) (atanTerms p n fuel (k + 1) (z.divNat (n * n)))

/-- An enclosure of arctan(1/n), n ≥ 2. -/
def atanInv (p n : Nat) : Encl := atanTerms p n (p / 4 + 4) 0 ((Encl.nat p 1).divNat n)

/-- π by Machin: 16 arctan(1/5) − 4 arctan(1/239). -/
def piEncl (p : Nat) : Encl :=
  let a := atanInv p 5
  let b := atanInv p 239
  ⟨16 * a.lo - 4 * b.hi, 16 * a.hi - 4 * b.lo⟩

/-- The terms t^k / k! of exp(t), 0 ≤ t < 1, from `term` of index k; the rest is below twice the next term. -/
def expTerms (p : Nat) (t : Encl) : Nat → Nat → Encl → Encl
  | 0, _, term => ⟨0, 2 * term.hi + 1⟩
  | fuel + 1, k, term => Encl.add term (expTerms p t fuel (k + 1) ((term.mul p t).divNat (k + 1)))

/-- exp of an enclosure below 1. -/
def expSmall (p : Nat) (t : Encl) : Encl := expTerms p t (p / 4 + 12) 0 (Encl.nat p 1)

/-- Alternating terms of sin and cos: term t^k / k!, then the rest from k + 2. -/
def trigTerms (p : Nat) (t2 : Encl) : Nat → Nat → Encl → Encl
  | 0, _, term => ⟨0, term.hi⟩
  | fuel + 1, k, term =>
    Encl.sub term (trigTerms p t2 fuel (k + 2) ((term.mul p t2).divNat ((k + 1) * (k + 2))))

/-- sin of an enclosure in [0, 1). -/
def sinSmall (p : Nat) (t : Encl) : Encl := trigTerms p (t.mul p t) (p / 8 + 8) 1 t

/-- cos of an enclosure in [0, 1). -/
def cosSmall (p : Nat) (t : Encl) : Encl := trigTerms p (t.mul p t) (p / 8 + 8) 0 (Encl.nat p 1)

/-- The terms z^(2k+1) / (2k+1) of artanh z, 0 ≤ z ≤ 1/3. -/
def artanhTerms (p : Nat) (z2 : Encl) : Nat → Nat → Encl → Encl
  | 0, _, z => ⟨0, 2 * z.hi + 1⟩
  | fuel + 1, k, z => Encl.add (z.divNat (2 * k + 1)) (artanhTerms p z2 fuel (k + 1) (z.mul p z2))

/-- ln of m / 2^b for 1 ≤ m / 2^b < 2: 2 artanh((m − 2^b) / (m + 2^b)). -/
def lnMant (p m b : Nat) : Encl :=
  let z : Encl := ⟨(m - 2 ^ b) * 2 ^ p / (m + 2 ^ b), ceilDiv ((m - 2 ^ b) * 2 ^ p) (m + 2 ^ b)⟩
  let a := artanhTerms p (z.mul p z) (p / 3 + 4) 0 z
  ⟨2 * a.lo, 2 * a.hi⟩

/-- Both ends of an enclosure scaled by 2^k round to one FP32 magnitude: that code. -/
def agree (neg : Bool) (p : Nat) (k : Int) (x : Encl) : Option Nat :=
  let a := fp32.round rne (.fin neg x.lo (k - p))
  let b := fp32.round rne (.fin neg x.hi (k - p))
  if a = b then some a else none

/-- The first precision of the list whose enclosure decides the rounding; the precisions reach far beyond the
closeness of any FP32 function value to a rounding boundary. -/
def decideAt (f : Nat → Option Nat) : List Nat → Nat
  | [] => fp32.qnan
  | p :: ps => match f p with
    | some v => v
    | none => decideAt f ps

/-- The working precisions, in bits below the point. -/
def precisions : List Nat := [220, 330, 660]

/-- mag × 2^e as a fixed-point number at precision `p`; exact when e ≥ −p. -/
def fixedAt (p mag : Nat) (e : Int) : Nat :=
  if 0 ≤ e + p then mag * 2 ^ (e + p).toNat else mag / 2 ^ (-(e + p)).toNat

/-- 2^a (VEXP2). -/
def exp2F32 (a : Nat) : Nat :=
  match fp32.val a with
  | .nan => fp32.qnan
  | .inf n => if n then 0 else fp32.top
  | .fin neg mag e =>
    if mag = 0 then fp32.round rne (.fin false 1 0)
    else if decide ((Nat.log2 mag : Int) + e ≥ 8) then (if neg then 0 else fp32.top)
    else
      let p0 := 220
      let v := fixedAt p0 mag e
      let n : Int := if neg then -(ceilDiv v (2 ^ p0) : Nat) else ((v / 2 ^ p0 : Nat) : Int)
      let fr := if neg then (2 ^ p0 - v % 2 ^ p0) % 2 ^ p0 else v % 2 ^ p0
      if fr = 0 then fp32.round rne (.fin false 1 n)
      else decideAt (fun p =>
        agree false p n (expSmall p ((ln2 p).mul p ⟨fr * 2 ^ (p - p0), fr * 2 ^ (p - p0)⟩))) precisions

/-- log₂ a (VLOG2). -/
def log2F32 (a : Nat) : Nat :=
  match fp32.val a with
  | .nan => fp32.qnan
  | .inf n => if n then fp32.qnan else fp32.top
  | .fin neg mag e =>
    if mag = 0 then fp32.sign true + fp32.top
    else if neg then fp32.qnan
    else
      let b := Nat.log2 mag
      let n : Int := (b : Int) + e
      if mag = 2 ^ b then fp32.round rne (.fin (decide (n < 0)) n.natAbs 0)
      else decideAt (fun p =>
        let l := (lnMant p mag b).div p (ln2 p)
        if 0 ≤ n then agree false p 0 ((Encl.nat p n.natAbs).add l)
        else agree true p 0 ((Encl.nat p n.natAbs).sub l)) precisions

/-- sin(π y) for a fixed-point y in [0, 1/2] at precision 220, as an enclosure at precision p. -/
def sinPiUnit (p y : Nat) : Encl :=
  let q := y * 2 ^ (p - 220)
  if 4 * y ≤ 2 ^ 220 then sinSmall p ((piEncl p).mul p ⟨q, q⟩)
  else cosSmall p ((piEncl p).mul p ⟨2 ^ p / 2 - q, 2 ^ p / 2 - q⟩)

/-- sin(π y) with y in [0, 2) at precision 220 and the sign of the result joined to `neg`; exact at multiples of
one half. `zneg` is the sign of a zero result. -/
def sinPiAt (neg zneg : Bool) (y : Nat) : Nat :=
  let one := 2 ^ 220
  let half := decide (one ≤ y)
  let r := if half then y - one else y
  let s := neg != half
  if r = 0 then fp32.sign zneg
  else if 2 * r = one then fp32.round rne (.fin s 1 0)
  else decideAt (fun p => agree s p 0 (sinPiUnit p (if 2 * r ≤ one then r else one - r))) precisions

/-- sin(π a) (VSINPI). -/
def sinpiF32 (a : Nat) : Nat :=
  match fp32.val a with
  | .nan => fp32.qnan
  | .inf _ => fp32.qnan
  | .fin neg mag e => sinPiAt neg neg (fixedAt 220 mag e % 2 ^ 221)

/-- cos(π a) = sin(π (|a| + 1/2)) (VCOSPI). -/
def cospiF32 (a : Nat) : Nat :=
  match fp32.val a with
  | .nan => fp32.qnan
  | .inf _ => fp32.qnan
  | .fin _ mag e => sinPiAt false false ((fixedAt 220 mag e + 2 ^ 219) % 2 ^ 221)

/-- Squares an enclosure `n` times. -/
def Encl.squares (p : Nat) : Nat → Encl → Encl
  | 0, x => x
  | n + 1, x => Encl.squares p n (x.mul p x)

/-- tanh a = (e^(2a) − 1) / (e^(2a) + 1) (VTANH); beyond 16 it rounds to 1. -/
def tanhF32 (a : Nat) : Nat :=
  match fp32.val a with
  | .nan => fp32.qnan
  | .inf n => fp32.round rne (.fin n 1 0)
  | .fin neg mag e =>
    if mag = 0 then fp32.sign neg
    else if decide ((Nat.log2 mag : Int) + e ≥ 4) then fp32.round rne (.fin neg 1 0)
    else decideAt (fun p =>
      let v := fixedAt p mag e
      let w := (expSmall p ⟨v / 32, ceilDiv v 32⟩).squares p 6
      agree neg p 0 ((w.sub (Encl.nat p 1)).div p (w.add (Encl.nat p 1)))) precisions

/-- 1 / a (VRCP). -/
def rcpF32 (a : Nat) : Nat := fp32.round rne ((FVal.fin false 1 0).div (fp32.val a))

/-- 1 / √a (VRSQ). -/
def rsqF32 (a : Nat) : Nat :=
  match fp32.val a with
  | .nan => fp32.qnan
  | .inf n => if n then fp32.qnan else 0
  | .fin n m e =>
    if m = 0 then fp32.sign n + fp32.top
    else if n then fp32.qnan
    else
      let g := if e % 2 = 0 then e else e - 1
      let v := if e % 2 = 0 then m else 2 * m
      let r := isqrt (2 ^ 180 / v)
      fp32.round rne (.fin false (2 * r + (if r * r * v = 2 ^ 180 then 0 else 1)) (-(g / 2) - 91))

end Sys2Proof.Machine
end

