-- ==== Sys2Proof/Machine/VectorInt.lean ====
section
/-! DEFINITION. The V slots' shared operations, integer arithmetic, integer compares, moves between lanes and the
hash (06 R139 to R146, R150, R152, R153, R160). -/

namespace Sys2Proof.Machine

/-- Element `k` of width `w` of a register (R139). -/
def elAt (w : Nat) (v : Nat) (k : Nat) : Nat := v / 2 ^ (w * k) % 2 ^ w

/-- The register whose `n` elements of width `w` are `f 0`, `f 1`, … -/
def buildEl (w n : Nat) (f : Nat → Nat) : Vec :=
  BitVec.ofNat 4096 ((List.range n).foldr (fun k acc => f k % 2 ^ w + 2 ^ w * acc) 0)

/-- Lanes 2i + 1 follow lanes 2i: the lanes of 64-bit elements (R15, R140). -/
def pairLanes (p : Pred) : Pred :=
  let ev := p &&& 0x55555555555555555555555555555555
  ev ||| (ev <<< 1)

/-- The lanes that elements of width `w` follow (R140). -/
def elLanes (w : Nat) (p : Pred) : Pred := if w = 64 then pairLanes p else p

/-- A vector instruction's active lanes; with none it is guarded off (R37, R140). -/
def State.onLanes (s : State) (h : Hdr) (w : Nat) (k : Pred → State → Out) : Out :=
  let p := elLanes w (s.lanes h)
  if p = 0 then s.done else k p s

/-- A vector result (R37, R89); the destination is logical (R50). -/
def State.putV (s : State) (d : BitVec 5) (v : Vec) (lanes : Pred) (land : BitVec 2) (lat : Nat) : Out :=
  s.putReg (s.me.keyV d.toNat) v lanes land.toNat lat

/-- A predicate result of a vector compare: inactive bits keep the visible ones (R140, R150). -/
def State.putVP (s : State) (d : BitVec 4) (v lanes : Pred) (land : BitVec 2) (lat : Nat) : Out :=
  s.putReg (s.me.keyP d.toNat) (v.setWidth 4096) lanes land.toNat lat

/-- The slot number of a vector unit. -/
def vnum : VUnit → Nat
  | .v0 => 1
  | .v1 => 2

/-- The bundle's PFX makes this slot read the row latch as its B operand (R73). -/
def State.latOf (s : State) (un : VUnit) : Bool :=
  match un with
  | .v0 => s.iss.lat0
  | .v1 => s.iss.lat1

/-- A matrix routine counts as running on the channel: an MCALL is not complete (R144, R185). -/
def Core.routineRunning (k : Core) : Bool := k.ops.any (fun o => o.kind == .mcall && !completeCode o.state)

/-- The B operand of a vector instruction: a register, or the oldest pending latch entry, with the latch's interlock
and its dead wait (R144), which comes after the double-write check of its destination `key` (R79). -/
def State.withB (s : State) (un : VUnit) (b : BitVec 5) (key : Nat) (land : BitVec 2) (k : Vec → State → Out) : Out :=
  if s.latOf un then
    match s.kore.latch with
    | v :: _ => k v { s with iss := { s.iss with latUsed := true } }
    | [] =>
      if s.kore.routineRunning then s.hold 4
      else s.dest key land.toNat (decide (0 < land.toNat)) fun s => s.raise 7 8 (vnum un) 0
  else k (s.me.v b.toNat) s

/-- An element-wise instruction of two vectors (R145, R147). -/
def State.vec2 (s : State) (un : VUnit) (h : Hdr) (d a b : BitVec 5) (w lat : Nat) (f : Nat → Nat → Nat) : Out :=
  s.onLanes h w fun p s => s.withB un b (s.me.keyV d.toNat) h.land fun vb s =>
    let va := (s.me.v a.toNat).toNat
    s.putV d (buildEl w (4096 / w) fun k => f (elAt w va k) (elAt w vb.toNat k)) p h.land lat

/-- An element-wise instruction of one vector. -/
def State.vec1 (s : State) (h : Hdr) (d a : BitVec 5) (w lat : Nat) (f : Nat → Nat) : Out :=
  s.onLanes h w fun p s =>
    let va := (s.me.v a.toNat).toNat
    s.putV d (buildEl w (4096 / w) fun k => f (elAt w va k)) p h.land lat

/-- The predicate of a compare: a lane's bit is 1 when the compare holds for each of its elements; both bits of a
64-bit element are its result (R150). -/
def cmpLanes (w va vb : Nat) (t : Nat → Nat → Bool) : Pred :=
  let holds := fun (k : Nat) => t (elAt w va k) (elAt w vb k)
  BitVec.ofNat 128 ((List.range 128).foldr (fun j acc =>
    (if w = 64 then holds (j / 2) else (List.range (32 / w)).all (fun i => holds (j * (32 / w) + i))).toNat
      + 2 * acc) 0)

/-- A vector compare (R150). -/
def State.vecCmp (s : State) (un : VUnit) (h : Hdr) (d : BitVec 4) (a b : BitVec 5) (w lat : Nat)
    (t : Nat → Nat → Bool) : Out :=
  s.onLanes h w fun p s => s.withB un b (s.me.keyP d.toNat) h.land fun vb s =>
    s.putVP d (cmpLanes w (s.me.v a.toNat).toNat vb.toNat t) p h.land lat

/-- A `w`-bit number as a signed integer. -/
def asInt (w n : Nat) : Int := if n < 2 ^ (w - 1) then n else (n : Int) - (2 ^ w : Nat)

/-- A signed integer as a `w`-bit number. -/
def ofIntW (w : Nat) (i : Int) : Nat := (i % (2 ^ w : Nat)).toNat

/-- An integer instruction of TY 0 to 3 (R145). -/
def State.vecInt (s : State) (un : VUnit) (h : Hdr) (d a b : BitVec 5) (t : BitVec 3)
    (f : Nat → Nat → Nat → Nat) : Out :=
  s.vec2 un h d a b (tyWidth t.toNat) 2 (f (tyWidth t.toNat))

/-- A shift right with sign fill of a `w`-bit number. -/
def sarW (w a n : Nat) : Nat := ofIntW w (asInt w a / (2 ^ n : Nat))

/-- VADD (R145). -/
def execVadd (un : VUnit) (h : Hdr) (d a b : BitVec 5) (t : BitVec 3) (s : State) : Out :=
  s.vecInt un h d a b t (fun _ a b => a + b)

/-- VSUB (R145). -/
def execVsub (un : VUnit) (h : Hdr) (d a b : BitVec 5) (t : BitVec 3) (s : State) : Out :=
  s.vecInt un h d a b t (fun w a b => a + 2 ^ w - b)

/-- VMUL (R145). -/
def execVmul (un : VUnit) (h : Hdr) (d a b : BitVec 5) (t : BitVec 3) (s : State) : Out :=
  s.vecInt un h d a b t (fun _ a b => a * b)

/-- VMULHS (R145). -/
def execVmulhs (un : VUnit) (h : Hdr) (d a b : BitVec 5) (t : BitVec 3) (s : State) : Out :=
  s.vecInt un h d a b t (fun w a b => ofIntW w (asInt w a * asInt w b / (2 ^ w : Nat)))

/-- VMULHU (R145). -/
def execVmulhu (un : VUnit) (h : Hdr) (d a b : BitVec 5) (t : BitVec 3) (s : State) : Out :=
  s.vecInt un h d a b t (fun w a b => a * b / 2 ^ w)

/-- VAND (R145). -/
def execVand (un : VUnit) (h : Hdr) (d a b : BitVec 5) (t : BitVec 3) (s : State) : Out :=
  s.vecInt un h d a b t (fun _ a b => a &&& b)

/-- VOR (R145). -/
def execVor (un : VUnit) (h : Hdr) (d a b : BitVec 5) (t : BitVec 3) (s : State) : Out :=
  s.vecInt un h d a b t (fun _ a b => a ||| b)

/-- VXOR (R145). -/
def execVxor (un : VUnit) (h : Hdr) (d a b : BitVec 5) (t : BitVec 3) (s : State) : Out :=
  s.vecInt un h d a b t (fun _ a b => a ^^^ b)

/-- VSHL (R145). -/
def execVshl (un : VUnit) (h : Hdr) (d a b : BitVec 5) (t : BitVec 3) (s : State) : Out :=
  s.vecInt un h d a b t (fun w a b => a * 2 ^ (b % w))

/-- VSHR (R145). -/
def execVshr (un : VUnit) (h : Hdr) (d a b : BitVec 5) (t : BitVec 3) (s : State) : Out :=
  s.vecInt un h d a b t (fun w a b => a / 2 ^ (b % w))

/-- VSAR (R145). -/
def execVsar (un : VUnit) (h : Hdr) (d a b : BitVec 5) (t : BitVec 3) (s : State) : Out :=
  s.vecInt un h d a b t (fun w a b => sarW w a (b % w))

/-- VMINS (R145). -/
def execVmins (un : VUnit) (h : Hdr) (d a b : BitVec 5) (t : BitVec 3) (s : State) : Out :=
  s.vecInt un h d a b t (fun w a b => if asInt w a < asInt w b then a else b)

/-- VMAXS (R145). -/
def execVmaxs (un : VUnit) (h : Hdr) (d a b : BitVec 5) (t : BitVec 3) (s : State) : Out :=
  s.vecInt un h d a b t (fun w a b => if asInt w a < asInt w b then b else a)

/-- VMINU (R145). -/
def execVminu (un : VUnit) (h : Hdr) (d a b : BitVec 5) (t : BitVec 3) (s : State) : Out :=
  s.vecInt un h d a b t (fun _ a b => min a b)

/-- VMAXU (R145). -/
def execVmaxu (un : VUnit) (h : Hdr) (d a b : BitVec 5) (t : BitVec 3) (s : State) : Out :=
  s.vecInt un h d a b t (fun _ a b => max a b)

/-- VABS (R146). -/
def execVabs (h : Hdr) (d a : BitVec 5) (t : BitVec 3) (s : State) : Out :=
  let w := tyWidth t.toNat
  s.vec1 h d a w 2 (fun a => if a < 2 ^ (w - 1) then a else 2 ^ w - a)

/-- VCMPEQ (R150). -/
def execVcmpeq (un : VUnit) (h : Hdr) (d : BitVec 4) (a b : BitVec 5) (t : BitVec 3) (s : State) : Out :=
  let w := tyWidth t.toNat
  s.vecCmp un h d a b w 2 (fun a b => a == b)

/-- VCMPLTS (R150). -/
def execVcmplts (un : VUnit) (h : Hdr) (d : BitVec 4) (a b : BitVec 5) (t : BitVec 3) (s : State) : Out :=
  let w := tyWidth t.toNat
  s.vecCmp un h d a b w 2 (fun a b => decide (asInt w a < asInt w b))

/-- VCMPLTU (R150). -/
def execVcmpltu (un : VUnit) (h : Hdr) (d : BitVec 4) (a b : BitVec 5) (t : BitVec 3) (s : State) : Out :=
  let w := tyWidth t.toNat
  s.vecCmp un h d a b w 2 (fun a b => decide (a < b))

/-- VCMPLES (R150). -/
def execVcmples (un : VUnit) (h : Hdr) (d : BitVec 4) (a b : BitVec 5) (t : BitVec 3) (s : State) : Out :=
  let w := tyWidth t.toNat
  s.vecCmp un h d a b w 2 (fun a b => decide (asInt w a ≤ asInt w b))

/-- VSPLAT (R152). -/
def execVsplat (h : Hdr) (d a : BitVec 5) (t : BitVec 3) (s : State) : Out :=
  let w := tyWidth t.toNat
  s.onLanes h w fun p s => s.putV d (buildEl w (4096 / w) fun _ => (s.me.s a.toNat).toNat) p h.land 2

/-- The lane of the element that VEXT reads (R140, R146). -/
def State.extLane (s : State) (b : BitVec 5) (t : BitVec 3) : Nat :=
  let w := tyWidth t.toNat
  let k := (s.me.s b.toNat).toNat % (4096 / w)
  if w = 64 then 2 * k else k * w / 32

/-- VEXT (R152): guarded off when the lane of its element is inactive. -/
def execVext (h : Hdr) (d a b : BitVec 5) (t : BitVec 3) (s : State) : Out :=
  let w := tyWidth t.toNat
  let k := (s.me.s b.toNat).toNat % (4096 / w)
  if (s.lanes h).getLsbD (s.extLane b t) then
    let e := elAt w (s.me.v a.toNat).toNat k
    s.putS d (if t.toNat ≤ 3 then BitVec.ofInt 64 (asInt w e) else BitVec.ofNat 64 e) h.land 2
  else s.done

/-- VIOTA (R146). -/
def execViota (h : Hdr) (d : BitVec 5) (t : BitVec 3) (s : State) : Out :=
  let w := tyWidth t.toNat
  s.onLanes h w fun p s => s.putV d (buildEl w (4096 / w) fun k => k) p h.land 2

/-- The hash of a counter and a key (R160). -/
def hash32 (a b : Nat) : Nat :=
  let m := 2 ^ 32
  let h := a ^^^ (b * 0x85EBCA6B % m)
  let h := (h ^^^ (h / 2 ^ 16)) * 0x7FEB352D % m
  let h := (h ^^^ (h / 2 ^ 15)) * 0x846CA68B % m
  let h := (h ^^^ (h / 2 ^ 16)) * 0x7FEB352D % m
  h ^^^ (h / 2 ^ 15)

/-- VHASH (R160). -/
def execVhash (un : VUnit) (h : Hdr) (d a b : BitVec 5) (s : State) : Out :=
  s.vec2 un h d a b 32 2 hash32

/-- VPERM: elements chosen inside each cluster (R153). -/
def execVperm (h : Hdr) (d a b : BitVec 5) (f : BitVec 1) (s : State) : Out :=
  s.onLanes h (if f = 0 then 32 else 64) fun p s =>
    let va := (s.me.v a.toNat).toNat
    let vb := (s.me.v b.toNat).toNat
    if f = 0 then s.putV d (buildEl 32 128 fun j => elAt 32 va (16 * (j / 16) + elAt 32 vb j % 16)) p h.land 2
    else s.putV d (buildEl 64 64 fun i => elAt 64 va (8 * (i / 8) + elAt 32 vb (2 * i) % 8)) p h.land 2

/-- VXCL: elements chosen from the whole register (R153). -/
def execVxcl (h : Hdr) (d a b : BitVec 5) (f : BitVec 1) (s : State) : Out :=
  s.onLanes h (if f = 0 then 32 else 64) fun p s =>
    let va := (s.me.v a.toNat).toNat
    let vb := (s.me.v b.toNat).toNat
    if f = 0 then s.putV d (buildEl 32 128 fun j => elAt 32 va (elAt 32 vb j % 128)) p h.land 8
    else s.putV d (buildEl 64 64 fun i => elAt 64 va (elAt 32 vb (2 * i) % 64)) p h.land 8

end Sys2Proof.Machine
end

