-- ==== Sys2Proof/Machine/VectorFp.lean ====
section
/-! DEFINITION. The V slots' floating-point arithmetic, compares, classes, special functions and reductions
(06 R147 to R151, R161, R162, 05 R138). -/

namespace Sys2Proof.Machine

/-- The random source of the bundle's PFX: the visible face of RND and the width (R73, R143). -/
def State.rndSrc (s : State) : Nat × Nat :=
  ((s.me.v s.iss.rnd).toNat, if s.iss.rw = 0 then 8 else if s.iss.rw = 1 then 12 else if s.iss.rw = 2 then 16 else 24)

/-- The rounding mode of a vector slot (R73, R143). -/
def State.modeOf (s : State) (un : VUnit) : Nat :=
  match un with
  | .v0 => s.iss.rm0
  | .v1 => s.iss.rm1

/-- The rounding of an element at bit position `pos` of its register: its random draw starts there in its lane
(R143). -/
def rmAt (mode src w pos : Nat) : Rm :=
  { mode := mode, r := src / 2 ^ (32 * (pos / 32)) % 2 ^ 32 / 2 ^ (pos % 32) % 2 ^ w, w := w }

/-- Latency of the arithmetic of a float type (R142). -/
def fpLat (t : Nat) : Nat := if t = 6 then 4 else if t = 7 then 6 else 3

/-- A rounded element-wise instruction: `f` gives the exact value from a, b and the addend d's visible value; its
first argument says whether an exact zero sum is negative (R147, R148). -/
def State.vecFp (s : State) (un : VUnit) (h : Hdr) (d a b : BitVec 5) (t : BitVec 3)
    (f : Bool → FVal → FVal → FVal → FVal) : Out :=
  let fm := tyFmt t.toNat
  let w := fm.width
  s.onLanes h w fun p s => s.withB un b (s.me.keyV d.toNat) h.land fun vb s =>
    let va := (s.me.v a.toNat).toNat
    let vd := (s.me.v d.toNat).toNat
    let src := s.rndSrc
    let mode := s.modeOf un
    s.putV d (buildEl w (4096 / w) fun k =>
      fm.round (rmAt mode src.1 src.2 (w * k))
        (f (mode == 2) (fm.val (elAt w va k)) (fm.val (elAt w vb.toNat k)) (fm.val (elAt w vd k)))) p h.land
      (fpLat t.toNat)

/-- A float compare (R150). -/
def State.vecFcmp (s : State) (un : VUnit) (h : Hdr) (d : BitVec 4) (a b : BitVec 5) (t : BitVec 3)
    (c : FVal → FVal → Bool) : Out :=
  let fm := tyFmt t.toNat
  s.vecCmp un h d a b fm.width (fpLat t.toNat) (fun x y => c (fm.val x) (fm.val y))

/-- The class bit of an encoding (R151). -/
def Fmt.classBit (f : Fmt) (x : Nat) : Nat :=
  match f.val x with
  | .nan => if f.signalling x then 8 else 9
  | .inf n => if n then 0 else 7
  | .fin n m _ => if m = 0 then (if n then 3 else 4) else if m < 2 ^ f.m then (if n then 2 else 5)
      else (if n then 1 else 6)

/-- A special function of FP32 elements (R161). -/
def State.vecSpecial (s : State) (h : Hdr) (d a : BitVec 5) (lat : Nat) (f : Nat → Nat) : Out :=
  s.vec1 h d a 32 lat f

/-- The elements of one list combined in pairs, an odd last one passing on (R138, R337). -/
def pairUp {α : Type} (f : α → α → α) : List α → List α
  | x :: y :: r => f x y :: pairUp f r
  | r => r

/-- The fixed tree: pairs, then pairs of those, until one is left (R138, R337). -/
def treeFold {α : Type} (f : α → α → α) (z : α) : Nat → List α → α
  | _, [] => z
  | _, [x] => x
  | 0, x :: _ => x
  | fuel + 1, l => treeFold f z fuel (pairUp f l)

/-- A reduction (R162): inactive elements enter as the identity, and every active element receives the result. The
clusters' subtrees are those of the one tree over all elements, since each holds a power of two of them (R138). -/
def State.vecReduce (s : State) (h : Hdr) (d a : BitVec 5) (t : BitVec 3) (ident : Nat) (pre : Nat → Nat)
    (f : Nat → Nat → Nat) : Out :=
  let w := tyWidth t.toNat
  s.onLanes h w fun p s =>
    let va := (s.me.v a.toNat).toNat
    let el := fun (k : Nat) => if p.getLsbD (k * w / 32) then pre (elAt w va k) else ident
    let r := treeFold f ident 10 ((List.range (4096 / w)).map el)
    s.putV d (buildEl w (4096 / w) fun _ => r) p h.land 10

/-- VFADD (R147, R148). -/
def execVfadd (un : VUnit) (h : Hdr) (d a b : BitVec 5) (t : BitVec 3) (s : State) : Out :=
  s.vecFp un h d a b t (fun z a b _ => FVal.add z a b)

/-- VFSUB (R147, R148). -/
def execVfsub (un : VUnit) (h : Hdr) (d a b : BitVec 5) (t : BitVec 3) (s : State) : Out :=
  s.vecFp un h d a b t (fun z a b _ => FVal.add z a b.neg)

/-- VFMUL (R147, R148). -/
def execVfmul (un : VUnit) (h : Hdr) (d a b : BitVec 5) (t : BitVec 3) (s : State) : Out :=
  s.vecFp un h d a b t (fun _ a b _ => a.mul b)

/-- VFMA (R147, R148). -/
def execVfma (un : VUnit) (h : Hdr) (d a b : BitVec 5) (t : BitVec 3) (s : State) : Out :=
  s.vecFp un h d a b t (fun z a b d => FVal.add z (a.mul b) d)

/-- VFMS (R147, R148). -/
def execVfms (un : VUnit) (h : Hdr) (d a b : BitVec 5) (t : BitVec 3) (s : State) : Out :=
  s.vecFp un h d a b t (fun z a b d => FVal.add z (a.mul b) d.neg)

/-- VFNMA (R147, R148). -/
def execVfnma (un : VUnit) (h : Hdr) (d a b : BitVec 5) (t : BitVec 3) (s : State) : Out :=
  s.vecFp un h d a b t (fun z a b d => FVal.add z (a.mul b).neg d.neg)

/-- VFNMS (R147, R148). -/
def execVfnms (un : VUnit) (h : Hdr) (d a b : BitVec 5) (t : BitVec 3) (s : State) : Out :=
  s.vecFp un h d a b t (fun z a b d => FVal.add z (a.mul b).neg d)

/-- VFMIN (R147). -/
def execVfmin (un : VUnit) (h : Hdr) (d a b : BitVec 5) (t : BitVec 3) (s : State) : Out :=
  let fm := tyFmt t.toNat
  s.vec2 un h d a b fm.width (fpLat t.toNat) fm.minNum

/-- VFMAX (R147). -/
def execVfmax (un : VUnit) (h : Hdr) (d a b : BitVec 5) (t : BitVec 3) (s : State) : Out :=
  let fm := tyFmt t.toNat
  s.vec2 un h d a b fm.width (fpLat t.toNat) fm.maxNum

/-- VFABS (R149). -/
def execVfabs (h : Hdr) (d a : BitVec 5) (t : BitVec 3) (s : State) : Out :=
  let w := tyWidth t.toNat
  s.vec1 h d a w 2 (fun a => a % 2 ^ (w - 1))

/-- VFNEG (R149). -/
def execVfneg (h : Hdr) (d a : BitVec 5) (t : BitVec 3) (s : State) : Out :=
  let w := tyWidth t.toNat
  s.vec1 h d a w 2 (fun a => a ^^^ 2 ^ (w - 1))

/-- VFCMPEQ (R150). -/
def execVfcmpeq (un : VUnit) (h : Hdr) (d : BitVec 4) (a b : BitVec 5) (t : BitVec 3) (s : State) : Out :=
  s.vecFcmp un h d a b t (FVal.same)

/-- VFCMPLT (R150). -/
def execVfcmplt (un : VUnit) (h : Hdr) (d : BitVec 4) (a b : BitVec 5) (t : BitVec 3) (s : State) : Out :=
  s.vecFcmp un h d a b t (FVal.lt)

/-- VFCMPLE (R150). -/
def execVfcmple (un : VUnit) (h : Hdr) (d : BitVec 4) (a b : BitVec 5) (t : BitVec 3) (s : State) : Out :=
  s.vecFcmp un h d a b t (fun x y => x.lt y || x.same y)

/-- VFCLASS (R151). -/
def execVfclass (h : Hdr) (d a : BitVec 5) (t : BitVec 3) (s : State) : Out :=
  let fm := tyFmt t.toNat
  s.vec1 h d a fm.width 2 (fun a => 2 ^ fm.classBit a)

/-- VRCP (R161). -/
def execVrcp (h : Hdr) (d a : BitVec 5) (s : State) : Out :=
  s.vecSpecial h d a 20 rcpF32

/-- VRSQ (R161). -/
def execVrsq (h : Hdr) (d a : BitVec 5) (s : State) : Out :=
  s.vecSpecial h d a 20 rsqF32

/-- VEXP2 (R161). -/
def execVexp2 (h : Hdr) (d a : BitVec 5) (s : State) : Out :=
  s.vecSpecial h d a 20 exp2F32

/-- VLOG2 (R161). -/
def execVlog2 (h : Hdr) (d a : BitVec 5) (s : State) : Out :=
  s.vecSpecial h d a 20 log2F32

/-- VSINPI (R161). -/
def execVsinpi (h : Hdr) (d a : BitVec 5) (s : State) : Out :=
  s.vecSpecial h d a 28 sinpiF32

/-- VCOSPI (R161). -/
def execVcospi (h : Hdr) (d a : BitVec 5) (s : State) : Out :=
  s.vecSpecial h d a 28 cospiF32

/-- VTANH (R161). -/
def execVtanh (h : Hdr) (d a : BitVec 5) (s : State) : Out :=
  s.vecSpecial h d a 28 tanhF32

/-- The type of VSQRT and VDIV: TY 6 or 7, whose low bit the word holds (R66). -/
def sqrtFmt (t : BitVec 1) : Fmt := if t = 0 then fp32 else fp64

/-- VSQRT (R161). -/
def execVsqrt (h : Hdr) (d a : BitVec 5) (t : BitVec 1) (s : State) : Out :=
  let fm := sqrtFmt t
  s.vec1 h d a fm.width 24 (fun a => fm.round rne (fm.val a).sqrt)

/-- VDIV (R161). -/
def execVdiv (un : VUnit) (h : Hdr) (d a b : BitVec 5) (t : BitVec 1) (s : State) : Out :=
  let fm := sqrtFmt t
  s.vec2 un h d a b fm.width 24 (fun a b => fm.round rne ((fm.val a).div (fm.val b)))

/-- A float sum of a reduction, rounded to nearest (R162). -/
def Fmt.sumNum (f : Fmt) (a b : Nat) : Nat := f.round rne (FVal.add false (f.val a) (f.val b))

/-- VRSUM (R162). -/
def execVrsum (h : Hdr) (d a : BitVec 5) (t : BitVec 3) (s : State) : Out :=
  let w := tyWidth t.toNat
  let fm := tyFmt t.toNat
  if t.toNat ≤ 3 then s.vecReduce h d a t 0 (fun x => x) (fun x y => (x + y) % 2 ^ w)
  else s.vecReduce h d a t (fm.sign true) (fun x => x) fm.sumNum

/-- VRMAX (R162). -/
def execVrmax (h : Hdr) (d a : BitVec 5) (t : BitVec 3) (s : State) : Out :=
  let w := tyWidth t.toNat
  let fm := tyFmt t.toNat
  if t.toNat ≤ 3 then s.vecReduce h d a t (2 ^ (w - 1)) (fun x => x) (fun x y => if asInt w x < asInt w y then y else x)
  else s.vecReduce h d a t (fm.sign true + fm.top) (fun x => x) fm.maxNum

/-- VRMIN (R162). -/
def execVrmin (h : Hdr) (d a : BitVec 5) (t : BitVec 3) (s : State) : Out :=
  let w := tyWidth t.toNat
  let fm := tyFmt t.toNat
  if t.toNat ≤ 3 then s.vecReduce h d a t (2 ^ (w - 1) - 1) (fun x => x) (fun x y => if asInt w x < asInt w y then x else y)
  else s.vecReduce h d a t fm.top (fun x => x) fm.minNum

/-- VRAMAX (R162). -/
def execVramax (h : Hdr) (d a : BitVec 5) (t : BitVec 3) (s : State) : Out :=
  let fm := tyFmt t.toNat
  s.vecReduce h d a t 0 (fun x => x % 2 ^ (fm.e + fm.m)) fm.maxNum

end Sys2Proof.Machine
end

