-- ==== Sys2Proof/Machine/Convert.lean ====
section
/-! DEFINITION. Conversions, packing and NF4 (06 R154 to R159, 07 R167 to R173). -/

namespace Sys2Proof.Machine

/-- A format named by an FMT4 code 0 to 13 (R167): an integer of a width and signedness, or a float. -/
inductive Num4 where
  | int (w : Nat) (signed : Bool)
  | float (f : Fmt)
deriving DecidableEq, Repr

/-- The format of an FMT4 code (R167). -/
def num4 (c : Nat) : Num4 :=
  match c with
  | 0 => .int 8 true
  | 1 => .int 8 false
  | 2 => .int 16 true
  | 3 => .int 16 false
  | 4 => .int 32 true
  | 5 => .int 32 false
  | 6 => .int 64 true
  | 7 => .int 64 false
  | 8 => .float fp16
  | 9 => .float bf16
  | 10 => .float fp32
  | 11 => .float fp64
  | 12 => .float e4m3
  | _ => .float e5m2

/-- Width of an FMT4 code (R167). -/
def width4 (c : Nat) : Nat := match num4 c with | .int w _ => w | .float f => f.width

/-- The integer that a value rounds to (R171, R172): magnitude over a grid of 1, then the sign. -/
def roundInt (rm : Rm) (neg : Bool) (mag : Nat) (e : Int) : Int :=
  let (t, d0, sh) := splitAt mag e 0
  let r := rm.apply neg t d0 sh
  if neg then -(r : Int) else r

/-- Least and greatest value of an integer type (R167). -/
def intMin (w : Nat) (signed : Bool) : Int := if signed then -(2 ^ (w - 1) : Nat) else 0
/-- The greatest value of an integer type (R167). -/
def intMax (w : Nat) (signed : Bool) : Int := if signed then (2 ^ (w - 1) : Nat) - 1 else (2 ^ w : Nat) - 1

/-- A number into its type's range. -/
def clampInt (w : Nat) (signed : Bool) (i : Int) : Int := max (intMin w signed) (min (intMax w signed) i)

/-- A value into a float format under R155: VCVT's overflow and E4M3 rules, or VCVTS's clamp. -/
def cvtToFloat (sat : Bool) (rm : Rm) (f : Fmt) (x : FVal) : Nat :=
  match x with
  | .nan => f.qnan
  | .inf n => f.sign n + (if sat then f.maxCode else f.top)
  | .fin n m e =>
    if f.overflows rm n m e then
      f.sign n + (if sat then f.maxCode else if rm.overflowInf n then f.top else f.maxCode)
    else f.sign n + f.roundMag rm n m e

/-- A value into an integer type under R155. -/
def cvtToInt (sat : Bool) (rm : Rm) (w : Nat) (signed : Bool) (x : FVal) : Nat :=
  let bad := if signed then 2 ^ (w - 1) else 2 ^ w - 1
  match x with
  | .nan => if sat then 0 else bad
  | .inf n => if sat then ofIntW w (if n then intMin w signed else intMax w signed) else bad
  | .fin n m e =>
    let i := roundInt rm n m e
    if intMin w signed ≤ i ∧ i ≤ intMax w signed then ofIntW w i
    else if sat then ofIntW w (clampInt w signed i) else bad

/-- One converted element (R155). -/
def cvtEl (sat : Bool) (rm : Rm) (dst frm : Nat) (x : Nat) : Nat :=
  match num4 frm, num4 dst with
  | .float g, .float f => cvtToFloat sat rm f (g.val x)
  | .float g, .int w sg => cvtToInt sat rm w sg (g.val x)
  | .int v sg, .float f =>
    let i : Int := if sg then asInt v x else x
    cvtToFloat sat rm f (.fin (decide (i < 0)) i.natAbs 0)
  | .int v sg, .int w sh =>
    let i : Int := if sg then asInt v x else x
    ofIntW w (if sat then clampInt w sh i else i)

/-- An FMT4 code after the format table: 15 names FMTT[lc0 mod 16] (R66, R175). -/
def State.fmt4 (s : State) (c : Nat) : Nat :=
  if c = 15 then s.strand.fmtt.toNat / 2 ^ (4 * ((s.me.lc 0).toNat % 16)) % 16 else c

/-- VCVT and VCVTS (R154, R155): a table code that resolves to 14 or 15, or to the other code, raises
OPERAND_FORMAT at step 3 (R66, R79). -/
def State.convert (s : State) (sat : Bool) (un : VUnit) (h : Hdr) (d a : BitVec 5) (t f : BitVec 4) : Out :=
  let dst := s.fmt4 t.toNat
  let frm := s.fmt4 f.toNat
  let u := max (width4 dst) (width4 frm)
  s.onLanes h u fun p s =>
    if 14 ≤ dst ∨ 14 ≤ frm ∨ dst = frm then s.raise 3 7 (vnum un) 0
    else
      let va := (s.me.v a.toNat).toNat
      let src := s.rndSrc
      let mode := s.modeOf un
      s.putV d (buildEl u (4096 / u) fun k =>
        cvtEl sat (rmAt mode src.1 src.2 (u * k)) dst frm (elAt u va k % 2 ^ width4 frm)) p h.land 3

/-- VCVT (R154, R155). -/
def execVcvt (un : VUnit) (h : Hdr) (d a : BitVec 5) (t f : BitVec 4) (s : State) : Out :=
  s.convert false un h d a t f

/-- VCVTS (R154, R155). -/
def execVcvts (un : VUnit) (h : Hdr) (d a : BitVec 5) (t f : BitVec 4) (s : State) : Out :=
  s.convert true un h d a t f

/-- The float formats of a narrow type and its wide type (R156). -/
def narrowFmt (t : Nat) : Fmt := tyFmt t
/-- The wide type of a narrow one (R156). -/
def wideFmt (t : Nat) : Fmt := if t = 6 then fp64 else fp32

/-- One narrowed element (R156). -/
def narrowEl (rm : Rm) (t x : Nat) : Nat :=
  if t ≤ 3 then x % 2 ^ tyWidth t else cvtToFloat false rm (narrowFmt t) ((wideFmt t).val x)

/-- One widened element (R157). -/
def widenEl (t x : Nat) : Nat :=
  if t ≤ 3 then ofIntW (2 * tyWidth t) (asInt (tyWidth t) x)
  else (wideFmt t).round rne ((narrowFmt t).val x)

/-- Narrow elements in half a unit: a unit is a lane, or a lane pair for a 32-bit narrow type (R156). -/
def halfCount (w : Nat) : Nat := if w = 32 then 1 else 16 / w

/-- VPACK (R156): each unit takes a's narrowed elements in its low half and b's in its high half. -/
def execVpack (un : VUnit) (h : Hdr) (d a b : BitVec 5) (t : BitVec 3) (s : State) : Out :=
  let w := tyWidth t.toNat
  let n := halfCount w
  s.onLanes h (2 * n * w) fun p s =>
    let va := (s.me.v a.toNat).toNat
    let vb := (s.me.v b.toNat).toNat
    let src := s.rndSrc
    let mode := s.modeOf un
    s.putV d (buildEl w (4096 / w) fun k =>
      let i := k % (2 * n)
      let j := k / (2 * n) * n + i % n
      narrowEl (rmAt mode src.1 src.2 (w * k)) t.toNat (elAt (2 * w) (if i < n then va else vb) j)) p h.land 3

/-- VUNPKL and VUNPKH (R157): the low or high half of each unit widened. -/
def State.unpack (s : State) (high : Bool) (h : Hdr) (d a : BitVec 5) (t : BitVec 3) : Out :=
  let w := tyWidth t.toNat
  let n := halfCount w
  s.onLanes h (2 * n * w) fun p s =>
    let va := (s.me.v a.toNat).toNat
    s.putV d (buildEl (2 * w) (4096 / (2 * w)) fun j =>
      widenEl t.toNat (elAt w va (j / n * (2 * n) + (if high then n else 0) + j % n))) p h.land 3

/-- VUNPKL (R157). -/
def execVunpkl (h : Hdr) (d a : BitVec 5) (t : BitVec 3) (s : State) : Out := s.unpack false h d a t
/-- VUNPKH (R157). -/
def execVunpkh (h : Hdr) (d a : BitVec 5) (t : BitVec 3) (s : State) : Out := s.unpack true h d a t

/-- The NF4 codebook in units of 2^−7 (R168). -/
def nf4Units : List Int := [-128, -88, -66, -48, -32, -20, -10, 0, 8, 17, 27, 39, 54, 72, 96, 128]

/-- Codebook value `i` in units of 2^−7 (R168). -/
def nf4At (i : Nat) : Int := nf4Units.getD i 0

/-- Codebook value `i` (R168). -/
def nf4Val (i : Nat) : FVal := unscaled false (nf4At i) (-7)

/-- The lower neighbour of an exact y = x / s between two codebook values, and the choice of R158. `num / den` is
128 y, `den` positive. -/
def nf4Choose (rm : Rm) (num den : Int) (k : Nat) : Nat :=
  let lo := nf4At k
  let hi := nf4At (k + 1)
  let dl := num - lo * den
  let dh := hi * den - num
  match rm.mode with
  | 0 => if dl < dh then k else if dh < dl then k + 1 else if k % 2 = 0 then k else k + 1
  | 1 => if lo.natAbs < hi.natAbs then k else k + 1
  | 2 => k
  | 3 => k + 1
  | 4 => if dl < dh then k else if dh < dl then k + 1 else if lo.natAbs < hi.natAbs then k + 1 else k
  | 5 => if k % 2 = 1 then k else k + 1
  | _ => if (rm.r : Int) * (hi - lo) * den < (2 ^ rm.w : Nat) * dl then k + 1 else k

/-- The NF4 index of an element under its lane's scale (R158). -/
def nf4Index (rm : Rm) (x s : FVal) : Nat :=
  match s with
  | .fin sn sm se =>
    if sn || sm == 0 then 7
    else match x with
      | .nan => 7
      | .inf n => if n then 0 else 15
      | .fin xn xm xe =>
        -- 128 x / s = num / den
        let u := min xe se
        let num := 128 * scaled xn xm xe u
        let den := scaled false sm se u
        if 128 * den ≤ num then 15
        else if num ≤ -128 * den then 0
        else
          let k := ((List.range 16).filter (fun i => decide (nf4At i * den ≤ num))).length - 1
          if nf4At k * den = num then k else nf4Choose rm num den k
  | _ => 7

/-- VQNF (R158). -/
def execVqnf (un : VUnit) (h : Hdr) (d a b : BitVec 5) (t : BitVec 3) (s : State) : Out :=
  let fm := tyFmt t.toNat
  let w := fm.width
  s.onLanes h 32 fun p s => s.withB un b (s.me.keyV d.toNat) h.land fun vb s =>
    let va := (s.me.v a.toNat).toNat
    let src := s.rndSrc
    let mode := s.modeOf un
    s.putV d (buildEl 32 128 fun j =>
      (List.range (32 / w)).foldl (fun acc i =>
        let k := j * (32 / w) + i
        acc + 16 ^ i * nf4Index (rmAt mode src.1 src.2 (w * k)) (fm.val (elAt w va k)) (fp32.val (elAt 32 vb.toNat j)))
        0) p h.land 3

/-- VDQNF (R159). -/
def execVdqnf (un : VUnit) (h : Hdr) (d a b : BitVec 5) (t : BitVec 3) (s : State) : Out :=
  let fm := tyFmt t.toNat
  let w := fm.width
  s.onLanes h 32 fun p s => s.withB un b (s.me.keyV d.toNat) h.land fun vb s =>
    let va := (s.me.v a.toNat).toNat
    s.putV d (buildEl w (4096 / w) fun k =>
      let j := k * w / 32
      let i := elAt 32 va j / 16 ^ (k % (32 / w)) % 16
      fm.round rne ((nf4Val i).mul (fp32.val (elAt 32 vb.toNat j)))) p h.land 3

end Sys2Proof.Machine
end

