-- ==== Sys2Proof/Machine/VMem.lean ====
section
/-! DEFINITION. Vector loads and stores of the V slots: V0 on the own tessera, V1 on the accumulator memory
(06 R163, R164, 10 R217, R223). -/

namespace Sys2Proof.Machine

/-- The bytes of the space that a vector slot names (R163, R217). -/
def vSpaceSize : VUnit → Nat
  | .v0 => Config.tessSize
  | .v1 => Config.acmSize

/-- The SP code of a vector slot's space (R217, R454). -/
def vSpace : VUnit → Nat
  | .v0 => 1
  | .v1 => 3

/-- A vector slot's space is the accumulator memory. -/
def vAcm : VUnit → Bool
  | .v0 => false
  | .v1 => true

/-- The checks of the lanes taking part, each applied to all of them before the next: alignment, the space's end,
the hidden range of a paired region; INFO names the lowest lane that fails (R163, R223, R370). -/
def State.laneChecks (s : State) (un : VUnit) (ls : List (Nat × Word64)) (k : State → Out) : Out :=
  match ls.find? (fun l => decide (l.2.toNat % 4 ≠ 0)) with
  | some l => s.raise 6 6 (vnum un) l.2
  | none =>
    match ls.find? (fun l => decide (vSpaceSize un ≤ l.2.toNat)) with
    | some l => s.raise 6 4 (vnum un) l.2
    | none =>
      match ls.find? (fun l => !vAcm un && !s.me.ownOk l.2.toNat 4) with
      | some l => s.raise 6 5 (vnum un) l.2
      | none => k s

/-- The lanes of a predicate that a list of lane addresses names. -/
def partOf (m : BitVec 3) (store : Bool) (p : Pred) : Pred := partLanes m.toNat store p

/-- A memory access by lanes: the lanes that are active and take part; with none it is guarded off (R37, R140, R163). -/
def State.onPart (s : State) (h : Hdr) (m : BitVec 3) (store : Bool) (k : Pred → State → Out) : Out :=
  let part := partOf m store (s.lanes h)
  if part = 0 then s.done else k part s

/-- VLD (R163, R164). -/
def execVld (un : VUnit) (h : Hdr) (t a b : BitVec 5) (m : BitVec 3) (s : State) : Out :=
  s.onPart h m false fun part s =>
    let (e, stride, idx) := s.fvm m a b
    let ls := laneAddrs m.toNat e stride idx part
    let key := s.me.keyV t.toNat
    s.dest key h.land.toNat (decide (0 < h.land.toNat)) fun s =>
    s.laneChecks un ls fun s =>
    s.watched 60 (vSpace un) (ls.map (fun l => (l.2.toNat, 4))) fun s =>
      (s.ownLoad (vAcm un) (joinRuns (ls.map (fun l => (l.1, l.2.toNat)))) none key h.land.toNat 6 part).done

/-- VST (R163, R164): where two lanes meet, the higher one prevails. -/
def execVst (un : VUnit) (h : Hdr) (t a b : BitVec 5) (m : BitVec 3) (s : State) : Out :=
  s.onPart h m true fun part s =>
    let (e, stride, idx) := s.fvm m a b
    let ls := laneAddrs m.toNat e stride idx part
    s.laneChecks un ls fun s =>
    s.watched 61 (vSpace un) (ls.map (fun l => (l.2.toNat, 4))) fun s =>
      let rs := joinRuns (ls.map (fun l => (l.1, l.2.toNat)))
      let s := if vAcm un then s.escape else s.escapeStore rs
      (s.ownStore (vAcm un) rs (s.me.v t.toNat).toNat).done

end Sys2Proof.Machine
end

