-- ==== Sys2Proof/Machine/Access.lean ====
section
/-! DEFINITION. The C slots' memory instructions: their checks at issue, the record each leaves until it performs, and
what performing does (11 R247 to R261, 12 R266 to R287, 10 R218, R235). -/

namespace Sys2Proof.Machine

/-- The slot number of a C slot (R57). -/
def cnum : CUnit → Nat
  | .c0 => 4
  | .c1 => 5

/-- The SP code of a C slot's space (R454). -/
def cSpace : CUnit → Nat
  | .c0 => 2
  | .c1 => 0

/-- The least latency of a C slot's read (R249). -/
def cLat : CUnit → Nat
  | .c0 => Config.latC0
  | .c1 => Config.latC1

/-- A C1 instruction is held while an XLAT of its context is in flight (R236). -/
def State.xlatHold (s : State) (un : CUnit) (k : State → Out) : Out :=
  match un with
  | .c0 => k s
  | .c1 => if s.me.walk.isSome then s.hold 3 else k s

/-! ### Checks at issue (R235, R248) -/

/-- TADDR and TVEC of the context in focus (R235). -/
def State.setFault (s : State) (line : Nat) (perm : Bool) (lines : Nat) : State :=
  s.setMe { s.me with taddr := BitVec.ofNat 48 (64 * line), tvecKind := perm, tvec := BitVec.ofNat 8 lines }

/-- A scalar access at `e`: alignment, then mapping, then permission; the place it names when all pass. -/
def State.cScalar (s : State) (un : CUnit) (e : Word64) (size need : Nat) (k : Loc → State → Out) : Out :=
  if e.toNat % size ≠ 0 then s.raise 6 6 (cnum un) e
  else match un with
    | .c0 =>
      match s.remote s.strand.gang e.toNat size with
      | none => s.raise 6 4 4 e
      | some (c, o) => k (.tess c o) s
    | .c1 =>
      match s.translate s.focus s.cx e.toNat need with
      | .error code => (s.setFault (e.toNat / 64) (code == 5) 1).raise 6 code 5 e
      | .ok (pa, plc) =>
        if need = 3 && isBell pa then (s.setFault (e.toNat / 64) true 1).raise 6 5 5 e else k (.mem pa plc) s

/-- The bit of the line vector that covers a lane's line (R235). -/
def lineBit (m first lane a : Nat) : Nat :=
  if m = 1 ∨ m = 2 ∨ m = 3 then lane / 16 else min 7 (a / 64 - first)

/-- The lanes of a vector access: alignment of all, then mapping of all, then permission of all; the places they
name when all pass (R235, R248, R253). -/
def State.cVector (s : State) (un : CUnit) (m : Nat) (ls : List (Nat × Word64)) (need : Nat)
    (k : List Piece → State → Out) : Out :=
  match ls.find? (fun l => decide (l.2.toNat % 4 ≠ 0)) with
  | some l => s.raise 6 6 (cnum un) l.2
  | none =>
    match un with
    | .c0 =>
      let at_ := fun (l : Nat × Word64) => s.remote s.strand.gang l.2.toNat 4
      match ls.find? (fun l => (at_ l).isNone) with
      | some l => s.raise 6 4 4 l.2
      | none => k (ls.filterMap (fun l => (at_ l).map (fun p => ⟨.tess p.1 p.2, 4 * l.1, 4⟩))) s
    | .c1 =>
      let at_ := fun (l : Nat × Word64) => s.translate s.focus s.cx l.2.toNat need
      let fails := fun (code : Nat) => ls.filter (fun l => match at_ l with | .error c => decide (c = code) | .ok _ => false)
      let first := ((ls.head?.map (fun l => l.2.toNat)).getD 0) / 64
      let stop := fun (code : Nat) (bad : List (Nat × Word64)) =>
        let bits := bad.foldl (fun acc l => acc ||| 2 ^ lineBit m first l.1 l.2.toNat) 0
        let low := bad.foldl (fun acc l => min acc (l.2.toNat / 64)) (2 ^ 58)
        (s.setFault low (code == 5) bits).raise 6 code 5 ((bad.head?.map (·.2)).getD 0)
      if !(fails 4).isEmpty then stop 4 (fails 4)
      else if !(fails 5).isEmpty then stop 5 (fails 5)
      else k (ls.filterMap (fun l => match at_ l with
        | .ok (pa, plc) => some ⟨.mem pa plc, 4 * l.1, 4⟩
        | .error _ => none)) s

/-- An access is put on record: a read into a register takes its queue entry (R249). -/
def State.issueAccess (s : State) (un : CUnit) (op : AccOp) (size val : Nat) (pieces : List Piece) (key land : Nat)
    (lanes : Pred) (scope : Option Nat) (vector : Bool) : State :=
  let x := s.me
  let id := s.kore.nextId
  let slot := cnum un
  let a : Access := {
    id := id, cx := s.cx, un := un, bundle := x.bundles, issued := x.clock, op := op, size := size, val := val,
    pieces := pieces, scope := scope, vector := vector, writes := decide (key ≠ 0), pc := x.pc,
    word := (s.iss.words[slot]?).getD 0,
    imxw := if (s.imxOf slot).isSome then (s.iss.words[7]?).getD 0 else 0 }
  let s := s.setMe (x.expect key lanes land id)
  s.setKore { (s.kore.count (if un = .c0 then 16 else 17) (some s.cx) 1) with accs := s.kore.accs ++ [a], nextId := id + 1 }

/-! ### Instructions -/

/-- LDR (R247 to R251). -/
def execLdr (un : CUnit) (h : Hdr) (t a : BitVec 5) (w : BitVec 3) (o : BitVec 5) (s : State) : Out :=
  s.whenOn h fun s =>
    let size := sizeOfW w
    let e := s.addrFM (cnum un) a o size
    s.xlatHold un fun s => s.dest (keyS t.toNat) h.land.toNat true fun s =>
    s.cScalar un e size 1 fun loc s => s.watched 60 (cSpace un) [(e.toNat, size)] fun s =>
      (s.issueAccess un (.load (decide (w.toNat < 4))) size 0 [⟨loc, 0, size⟩] (keyS t.toNat) h.land.toNat
        (BitVec.allOnes 128) none false).done

/-- STR (R247, R248, R252). -/
def execStr (un : CUnit) (h : Hdr) (t a : BitVec 5) (w : BitVec 3) (o : BitVec 5) (s : State) : Out :=
  s.whenOn h fun s =>
    let size := sizeOfW w
    let e := s.addrFM (cnum un) a o size
    s.xlatHold un fun s => s.cScalar un e size 2 fun loc s => s.watched 61 (cSpace un) [(e.toNat, size)] fun s =>
      (s.escape.issueAccess un .store size ((s.me.s t.toNat).toNat % 256 ^ size) [⟨loc, 0, size⟩] 0 0
        (BitVec.allOnes 128) none false).done

/-- VLDR (R253). -/
def execVldr (un : CUnit) (h : Hdr) (t a b : BitVec 5) (m : BitVec 3) (s : State) : Out :=
  s.onPart h m false fun part s =>
    let (e, stride, idx) := s.fvm m a b
    let ls := laneAddrs m.toNat e stride idx part
    let key := s.me.keyV t.toNat
    s.xlatHold un fun s => s.dest key h.land.toNat true fun s =>
    s.cVector un m.toNat ls 1 fun ps s => s.watched 60 (cSpace un) (ls.map (fun l => (l.2.toNat, 4))) fun s =>
      (s.issueAccess un (.load false) 512 0 ps key h.land.toNat part none true).done

/-- VSTR (R253). -/
def execVstr (un : CUnit) (h : Hdr) (t a b : BitVec 5) (m : BitVec 3) (s : State) : Out :=
  s.onPart h m true fun part s =>
    let (e, stride, idx) := s.fvm m a b
    let ls := laneAddrs m.toNat e stride idx part
    s.xlatHold un fun s => s.cVector un m.toNat ls 2 fun ps s =>
    s.watched 61 (cSpace un) (ls.map (fun l => (l.2.toNat, 4))) fun s =>
      (s.escape.issueAccess un .store 512 (s.me.v t.toNat).toNat ps 0 0 (BitVec.allOnes 128) none true).done

/-- An atomic (R254): `op` with operand `val`, of `size` bytes, its old value into scalar `d`. -/
def State.atomic (s : State) (un : CUnit) (h : Hdr) (d a : BitVec 5) (size : Nat) (op : AccOp) (val : Nat) : Out :=
  s.whenOn h fun s =>
    let e := s.me.s a.toNat
    s.xlatHold un fun s => s.dest (keyS d.toNat) h.land.toNat true fun s =>
    s.cScalar un e size 3 fun loc s => s.watched 62 (cSpace un) [(e.toNat, size)] fun s =>
      (s.escape.issueAccess un op size val [⟨loc, 0, size⟩] (keyS d.toNat) h.land.toNat (BitVec.allOnes 128) none
        false).done

/-- AMOW (R255). -/
def execAmow (un : CUnit) (h : Hdr) (d a b : BitVec 5) (f : BitVec 3) (s : State) : Out :=
  s.atomic un h d a 4 (.amo f.toNat) ((s.me.s b.toNat).toNat % 2 ^ 32)

/-- AMOD (R255). -/
def execAmod (un : CUnit) (h : Hdr) (d a b : BitVec 5) (f : BitVec 3) (s : State) : Out :=
  s.atomic un h d a 8 (.amo f.toNat) (s.me.s b.toNat).toNat

/-- CAS (R256): the comparand is the visible face of d at issue. -/
def execCas (un : CUnit) (h : Hdr) (d a b : BitVec 5) (f : BitVec 1) (s : State) : Out :=
  let size := if f = 0 then 4 else 8
  s.atomic un h d a size (.cas ((s.me.s d.toNat).toNat % 256 ^ size)) ((s.me.s b.toNat).toNat % 256 ^ size)

/-- Bytes of a FAMO form (R254, R257). -/
def famoSize (f : Nat) : Nat := if f = 1 ∨ f = 4 then 8 else 4

/-- FAMO (R257). -/
def execFamo (un : CUnit) (h : Hdr) (d a b : BitVec 5) (f : BitVec 3) (s : State) : Out :=
  let size := famoSize f.toNat
  s.atomic un h d a size (.famo f.toNat) ((s.me.s b.toNat).toNat % 256 ^ size)

/-- LDA (R259). -/
def execLda (un : CUnit) (h : Hdr) (t a : BitVec 5) (c : BitVec 3) (o : BitVec 5) (s : State) : Out :=
  s.whenOn h fun s =>
    let e := s.addrFM (cnum un) a o 8
    s.xlatHold un fun s => s.dest (keyS t.toNat) h.land.toNat true fun s =>
    s.cScalar un e 8 1 fun loc s => s.watched 60 (cSpace un) [(e.toNat, 8)] fun s =>
      (s.issueAccess un (.load false) 8 0 [⟨loc, 0, 8⟩] (keyS t.toNat) h.land.toNat (BitVec.allOnes 128)
        (some c.toNat) false).done

/-- STRL (R259). -/
def execStrl (un : CUnit) (h : Hdr) (t a : BitVec 5) (c : BitVec 3) (o : BitVec 5) (s : State) : Out :=
  s.whenOn h fun s =>
    let e := s.addrFM (cnum un) a o 8
    s.xlatHold un fun s => s.cScalar un e 8 2 fun loc s => s.watched 61 (cSpace un) [(e.toNat, 8)] fun s =>
      (s.escape.issueAccess un .store 8 (s.me.s t.toNat).toNat [⟨loc, 0, 8⟩] 0 0 (BitVec.allOnes 128)
        (some c.toNat) false).done

/-! ### Performing (R250, R254, R269, R274) -/

/-- Two places share a byte. -/
def Piece.meets (p q : Piece) : Bool :=
  match p.loc, q.loc with
  | .tess c o, .tess d u => decide (c = d) && decide (o < u + q.len) && decide (u < o + p.len)
  | .mem a _, .mem b _ => decide (a < b + q.len) && decide (b < a + p.len)
  | _, _ => false

/-- The core whose tessera a place lies in. -/
def Loc.core? : Loc → Option Nat
  | .tess c _ => some c
  | .mem _ _ => none

/-- An earlier access of the context that a later one must wait for: common bytes (R250), stores to one tile and
stores to global memory in order (R274 notes 2 and 3). -/
def Access.before (b a : Access) : Bool :=
  b.pieces.any (fun p => a.pieces.any (fun q => p.meets q))
    || (b.op.isStore && a.op.isStore && b.un == a.un
        && (a.un == .c1 || b.pieces.any (fun p => a.pieces.any (fun q => p.loc.core? == q.loc.core?))))

/-- The access has to wait for what R250 and R274 order before it. -/
def Core.accBlocked (k : Core) (a : Access) : Bool :=
  k.accs.any (fun b => b.cx == a.cx && decide (b.id < a.id) && b.before a)

/-- The access is a STRL, or a SIGNAL (R259, R348). -/
def Access.releases (a : Access) : Bool := a.op.isStore && a.scope.isSome

/-- An access of a context of a bundle before `n` is yet to perform. A read that a trap has abandoned is no access any more,
and its reissue is a new one (R266, R376, DEDUCED): a STRL that stands at the trap does not wait for it. -/
def Core.earlierOpen (k : Core) (cx : CtxId) (n : Nat) : Bool :=
  k.accs.any (fun b => b.cx == cx && decide (b.bundle < n)) || k.delayed.any (fun d => d.cx == cx && decide (d.bundle < n))

/-- The FENCE class bit of an access: LD 1, ST 2, AMO 4, HOD 16; a request about an operation of another core has none
(R260, R261, R348). -/
def Access.classBit (a : Access) : Nat :=
  if a.signal then 16
  else match a.op with
    | .load _ => 1
    | .store => 2
    | .amo _ => 4
    | .cas _ => 4
    | .famo _ => 4
    | .kstat _ _ => 0
    | .steer _ _ _ => 0

/-- The line of a place: what one performing event covers. -/
def Loc.line : Loc → Nat × Nat
  | .tess c o => (c + 1, o / 64)
  | .mem a _ => (0, a / 64)

/-- The result of an integer atomic of `w` bits (R255). -/
def amoResult (fn w m b : Nat) : Nat :=
  match fn with
  | 0 => (m + b) % 2 ^ w
  | 1 => if asInt w b < asInt w m then b else m
  | 2 => if asInt w m < asInt w b then b else m
  | 3 => b
  | 4 => m &&& b
  | 5 => m ||| b
  | 6 => m ^^^ b
  | _ => min m b

/-- The magnitude of an encoding: its sign bit cleared. -/
def Fmt.mag (f : Fmt) (x : Nat) : Nat := x % 2 ^ (f.e + f.m)

/-- The new memory value and the returned value of an atomic (R255 to R257). -/
def AccOp.apply (op : AccOp) (size m b : Nat) : Nat × Nat :=
  match op with
  | .amo fn => (amoResult fn (8 * size) m b, m)
  | .cas c => (if m = c then b else m, m)
  | .famo fn =>
    match fn with
    | 0 => (fp32.sumNum m b, m)
    | 1 => (fp64.sumNum m b, m)
    | 2 => (fp32.maxNum m b, m)
    | 3 => (0, fp32.maxNum (fp32.mag m) (fp32.mag b))
    | _ => (0, fp64.maxNum (fp64.mag m) (fp64.mag b))
  | _ => (m, m)

/-- The register value of a scalar access's bytes (R251, R254). -/
def AccOp.extend (op : AccOp) (size v : Nat) : Vec :=
  let sx := fun (_ : Unit) => ((BitVec.ofInt 64 (asInt (8 * size) v)).setWidth 4096 : Vec)
  match op with
  | .load true => sx ()
  | .amo _ => sx ()
  | .cas _ => sx ()
  | _ => BitVec.ofNat 4096 v

/-- A detected transient of a read that context `cx` of core `c` issued in bundle `b` (R380 step 2, R382): of the
current phase it is judged at the boundary; of an earlier one it raises UE_DATA. -/
def State.transientFor (s : State) (c : Nat) (cx : CtxId) (b : Nat) : State :=
  let x := s.ctxAt c cx
  if x.phase0 ≤ b then s.setCtxAt c cx { x with transient := true }
  else s.setCtxAt c cx { x with asyncs := x.asyncs ++ [{ code := 13 }] }

/-- A tessera line read by an access other than the core's S and V0 slots (R380): whether the line is bad, and whether
it was wrong once and came clean. -/
def State.readTessLine (s : State) (c line : Nat) : State × Bool × Bool :=
  let k := s.core c
  let s := s.corrected c 0 [line]
  if k.badTess.contains line then (s.sramUe c 0 (64 * line) 0, true, false)
  else if k.softTess.contains line then
    ((s.setCore c { s.core c with softTess := k.softTess.filter (· != line) }).sramCe c 0 2 (64 * line), false, true)
  else (s, false, false)

/-- Lines of the accumulator memory (1) or the lintel (2), or words of the routine store (6), are read by an operation, as
`readTessLine`: those that a second read finds clean supply their data and are logged (R380, R424, R426). Whether one is bad. -/
def State.readSram (s : State) (c st : Nat) (lines : List Nat) : State × Bool :=
  let k := s.core c
  let bad := lines.filter (fun l => match st with
    | 1 => k.badAcm.contains l
    | 2 => k.badLintel.contains l
    | _ => k.badStore.contains l)
  let s := s.corrected c st lines
  let soft := (lines.filter (fun l => k.soft.contains (st, l) && !bad.contains l)).dedup
  let s := soft.foldl (fun (s : State) l =>
    (s.setCore c { s.core c with soft := (s.core c).soft.filter (· != (st, l)) }).sramCe c st (if st = 1 then 3 else 4) 0) s
  (s, !bad.isEmpty)

/-- The home is where a load binds: an LDA at DEV or wider, as its scope is carried out, or at HALF for a page
half-homed in the issuing half; every access of the control complex (R268, R285, R391). -/
def State.bindsHome (s : State) (c : Nat) (scope : Option Nat) (pa : Nat) : Bool :=
  isControl c || (match scope with
    | none => false
    | some sc => decide (5 ≤ sc)
        || (decide (sc = 4) && halfHomed (s.geotAt (s.geoAt (pa / 65536))) (dieOf c / 4)))

/-- A die's copy of a line is brought to the home's value (R270): nothing it shows later is older. -/
def State.refreshLine (s : State) (d line : Nat) (v : Shown) : State :=
  let die := s.die d
  match Tbl.get none die.lines line, v.stamps with
  | some _, [w] => s.setDie d { die with lines := Tbl.set none die.lines line (some ⟨v.data, w.1, w.2, v.rels⟩),
                                         notices := die.notices.filter (fun n => decide (n.line ≠ line)) }
  | _, _ => s

/-- The pieces of one line, as a byte mask and data within the line. -/
def lineImage (ps : List Piece) (val : Nat) : Nat × Nat :=
  ps.foldl (fun (acc : Nat × Nat) p =>
    let o := (match p.loc with | .tess _ o => o | .mem a _ => a) % 64
    let m := (2 ^ p.len - 1) * 2 ^ o
    (acc.1 ||| m, mergeLine acc.2 m (val / 256 ^ p.pos % 256 ^ p.len * 256 ^ o))) (0, 0)

/-- The bytes of a line that pieces take, at their places in the value. -/
def lineBytes (ps : List Piece) (line : Nat) : Nat :=
  ps.foldl (fun acc p =>
    let o := (match p.loc with | .tess _ o => o | .mem a _ => a) % 64
    acc + line / 256 ^ o % 256 ^ p.len * 256 ^ p.pos) 0

/-- The strand's context whose gang and gang tile an access of context `cx` counts for: in SVC the served one (R388). -/
def Core.strandOf (k : Core) (cx : CtxId) : Ctx := k.ctx (if cx = .svc then k.servedId else cx)

/-- What an access of a context comes after perform first: for a store or an atomic everything the context must keep
before it, for every observer (R271), and for a release at scope `sc` of bundle `n` of an agent on die `d` all it has made
or read before, for the observers within the scope (R268, R284). -/
def State.beforeStore (s : State) (x str : Ctx) (d n : Nat) (scope : Option Nat) : State :=
  let s := s.bringAll x.must
  match scope with
  | none => s
  | some sc => let w := s.actual sc str.gang str.gtile; s.bring w (reachOf w d) (x.knownBefore n)

/-- The marks of a write of a context, of bundle `n`: the FENCEs before it, and its own release (R284, R286). -/
def relMarks (x str : Ctx) (n : Nat) (scope : Option Nat) (extra : List (Nat × Nat)) : List Rel :=
  match scope with
  | none => x.released
  | some sc => ⟨sc, str.gang, str.gtile, (x.knownBefore n ++ extra).dedup, false, false⟩ :: x.released

/-- The mark that a C1 store leaves for the observers of its die: the context's C1 stores before it (R274 note 3). -/
def State.storeMark (s : State) (x str : Ctx) (n : Nat) : List Rel :=
  let l := s.prune (((x.notes.filter (fun e => decide (e.cls = 2) && decide (e.bundle < n))).map (·.stamp)))
  if l.isEmpty then [] else [⟨3, str.gang, str.gtile, l, false, true⟩]

/-! ### STRLs that run ahead of their context's earlier accesses (R274) -/

/-- The STRL of the record has nothing of its context before it any more that is yet to perform. -/
def State.ripe (s : State) (u : Unripe) : Bool := !(s.core u.core).earlierOpen u.cx u.bundle

/-- A STRL that has performed is not yet to be seen within its scope, where the access's context is or may bring it: the
access waits when it reads or writes its line as an LDA or from within the scope, when it comes after it, or when it
releases what has read it (R271, R274, R284). -/
def State.veils (s : State) (u : Unripe) (c : Nat) (a : Access) : Bool :=
  let x := s.ctxAt c a.cx
  let str := (s.core c).strandOf a.cx
  let line := ((a.pieces.head?).map (·.loc.line)).getD (0, 0)
  !(decide (u.core = c) && u.cx == a.cx) && !s.ripe u
    && ((u.line == line && ((!a.op.isStore && a.scope.isSome) || inScope u.scope u.gang u.tile str.gang str.gtile))
      || x.must.contains u.stamp || (a.releases && x.seen.contains u.stamp))

/-- A STRL may run ahead of its context's earlier accesses (R274): its scope leaves observers out, and those accesses are
plain ones that no other such STRL holds up. Within the scope it is seen when they have performed; on another tile's
tessera only outside the scope. -/
def State.mayLead (s : State) (c : Nat) (a : Access) : Bool :=
  let k := s.core c
  let str := k.strandOf a.cx
  let sc := s.actual (a.scope.getD 7) str.gang str.gtile
  decide (sc ≤ 4) && !isControl c
    && a.pieces.all (fun p => match p.loc with
      | .tess tc _ => !inScope sc str.gang str.gtile (s.core tc).cb0.gang (s.core tc).cb0.gtile
          && !inScope sc str.gang str.gtile (s.core tc).cb1.gang (s.core tc).cb1.gtile
      | .mem pa _ => !isBell pa)
    && k.accs.all (fun b => !(b.cx == a.cx && decide (b.bundle < a.bundle))
      || (b.scope.isNone && !s.unripe.any (fun u => s.veils u c b)
        && (match b.op with | .kstat _ _ => false | .steer _ _ _ => false | _ => true)))

/-- A mark with the writes `ws` added when it is that of the STRL of the record. -/
def Rel.ripened (u : Unripe) (ws : List (Nat × Nat)) (r : Rel) : Rel :=
  if !r.fence && !r.plain && r.scope == u.scope && r.gang == u.gang && r.tile == u.tile && r.deps.contains u.stamp then
    { r with deps := (r.deps ++ ws).dedup }
  else r

/-- Every mark of the part changed by `f`. -/
def State.mapMarks (s : State) (f : Rel → Rel) : State :=
  let t := fun (l : Tbl (List Rel)) => l.map (fun e => (e.1, e.2.map f))
  { s with rel := t s.rel,
           dies := Tbl.mapVals {} (fun (d : Die) => { d with
             lines := d.lines.map (fun e => (e.1, e.2.map (fun (l : CLine) => { l with rels := t l.rels }))),
             buffer := d.buffer.map (fun b => { b with rels := t b.rels }),
             notices := d.notices.map (fun n => { n with rels := t n.rels }) }) s.dies }

/-- The STRLs that have nothing before them any more are seen within their scopes, after what they come after (R284). -/
def State.ripen (s : State) : State :=
  s.unripe.foldl (fun (s : State) u =>
    if !s.ripe u then s
    else
      let ws := (s.ctxAt u.core u.cx).knownBefore u.bundle
      let s : State := { s with unripe := s.unripe.filter (fun v => !(v == u)) }
      (s.bring u.scope (reachOf u.scope (dieOf u.core)) ws).mapMarks (Rel.ripened u ws)) s

/-- The marks of an atomic's write: those of the releases that an unbroken run of atomics leads back to, and the FENCEs
before it (R284, R286). -/
def atomicMarks (old : List Rel) (x : Ctx) : List Rel := old.filter (fun r => !r.fence) ++ x.released

/-- A read of FENCE class `cls` of bundle `n` returns a write of these marks, with the stamps `ws` of the line: any read
takes on the FENCEs it may synchronise with (R286) and what comes before the write (R271); an LDA comes before every later
access, with the write, and with what the releases come after (R274, R284). -/
def Ctx.took (x str : Ctx) (cls n : Nat) (scope : Option Nat) (rs : List Rel) (ws : List (Nat × Nat)) : Ctx :=
  let x := (x.hear rs).note cls n (ws ++ carried rs str.gang str.gtile)
  match scope with
  | none => x
  | some sc => x.acquire (ws.filter (fun w => decide (w.2 ≠ 0)) ++ acquired rs sc str.gang str.gtile)

/-- An LDA shows the observers of its own die what comes before the write that it returns (R271, R274): the stores of a
strand that ran on another die reach it in their order. -/
def State.showOwn (s : State) (c : Nat) (scope : Option Nat) (rs : List Rel) (str : Ctx) : State :=
  if scope.isNone then s else s.bring 3 (fun e => e == dieOf c) (carried rs str.gang str.gtile)

/-- A STRL has performed ahead of earlier accesses of its context. -/
def State.leads (s : State) (c : Nat) (a : Access) (str : Ctx) (line stamp : Nat × Nat) : State :=
  { s with unripe := s.unripe ++ [{ core := c, cx := a.cx, bundle := a.bundle, line := line, stamp := stamp,
                                    scope := s.actual (a.scope.getD 7) str.gang str.gtile, gang := str.gang, tile := str.gtile }] }

/-- One line of a tessera access performs: the part's new state, the bytes read in their places in the value, and
whether they are poisoned. `tc` is the tessera's core and `off` the first byte. -/
def State.performTess (s : State) (c : Nat) (a : Access) (ps : List Piece) (tc off : Nat) : State × Nat × Bool :=
  let x := s.ctxAt c a.cx
  let str := (s.core c).strandOf a.cx
  let line := off / 64
  let old := Mem.read (s.core tc).tess (64 * line) 64
  if a.op.isStore then
    let lead := a.releases && (s.core c).earlierOpen a.cx a.bundle
    let s := if lead then s.bringAll x.must else s.beforeStore x str (dieOf c) a.bundle a.scope
    let extra := if lead then [(11, a.id)] else []
    let keys := (ps.filterMap (fun p => match p.loc with | .tess _ o => some (tessRel tc o) | .mem _ _ => none)).dedup
    let marks := keys.map (fun key => (key, (relMarks x str a.bundle a.scope extra ++ s.inherited (s.relAt key)).dedup))
    let s := ps.foldl (fun (s : State) p => match p.loc with
      | .tess _ o => s.writeTess tc o p.len (a.val / 256 ^ p.pos % 256 ^ p.len)
      | .mem _ _ => s) s
    let s := marks.foldl (fun (s : State) e => s.remark e.1 e.2) s
    (if lead then s.leads c a str (tc + 1, line) (11, a.id) else s, 0, false)
  else
    let (s, bad, soft) := s.readTessLine tc line
    let s := if soft then s.transientFor c a.cx a.bundle else s
    let rs := (ps.filterMap (fun p => match p.loc with | .tess _ o => some (tessRel tc o) | .mem _ _ => none)).dedup.flatMap s.relAt
    let ws := s.unripeAt (tc + 1, line)
    if a.op.isAtomic then
      if bad then (s, 0, true)
      else
        let m := Mem.read (s.core tc).tess off a.size
        let r := a.op.apply a.size m a.val
        let marks := (atomicMarks rs x ++ s.inherited rs).dedup
        let s := ((s.bringAll x.must).writeTess tc off a.size r.1).remark (tessRel tc off) marks
        (s.setCtxAt c a.cx ((s.ctxAt c a.cx).took str 4 a.bundle none rs ws), r.2, false)
    else
      let s := s.showOwn c a.scope rs str
      (s.setCtxAt c a.cx ((s.ctxAt c a.cx).took str 1 a.bundle a.scope rs ws), lineBytes ps old, bad)

/-- The 8-byte words of a line that a byte mask touches, each with the marks `rs`. -/
def wordMarks (mask : Nat) (rs : List Rel) : Tbl (List Rel) :=
  if rs.isEmpty then [] else ((List.range 8).filter (fun i => decide (mask / 2 ^ (8 * i) % 256 ≠ 0))).map (fun i => (i, rs))

/-- One line of an access to device memory performs, as `performTess`: a store in its die's cache, from where it goes on
to its home (R231), for the control complex at the home itself; an atomic at the home (R254). `pa` is the first byte. -/
def State.performMem (s : State) (c : Nat) (a : Access) (ps : List Piece) (pa : Nat) (plc : BitVec 32) : State × Nat × Bool :=
  let x := s.ctxAt c a.cx
  let str := (s.core c).strandOf a.cx
  let ten := s.tenOf c a.cx
  let line := pa / 64
  let d := dieOf c
  if a.op.isStore then
    let lead := a.releases && (s.core c).earlierOpen a.cx a.bundle
    let s := if lead then s.bringAll x.must else s.beforeStore x str d a.bundle a.scope
    let (mask, data) := lineImage ps a.val
    if isBell pa then (s.ring str.gang (bellLine pa) (data % 2 ^ 64) false x.known, 0, false)
    else
      -- a release is itself among the writes that an acquire of it comes after
      let rels := wordMarks mask (relMarks x str a.bundle a.scope [(d, s.nextCount d)] ++ s.storeMark x str a.bundle)
      let (s, w) := if isControl c then s.homeWrite d ten line plc mask data x.must true rels
        else s.bufferStore d { line := line, mask := mask, data := data, count := 0, ten := ten, plc := plc, core := c,
                               cx := a.cx, gang := str.gang, tile := str.gtile, deps := x.must, rels := rels,
                               wide := if a.scope.isSome then 3 else 0 }
      let s := if lead && w.2 != 0 then s.leads c a str (0, line) w else s
      (s.setCtxAt c a.cx ((s.ctxAt c a.cx).note (if a.signal then 16 else 2) a.bundle [w]), 0, false)
  else if isBell pa then (s, 0, false)
  else if a.op.isAtomic then
    let (s, v) := (s.bringAll x.must).homeReadW d ten line plc
    match v with
    | none => (s, 0, true)
    | some l =>
      let o := pa % 64
      let m := l.data / 256 ^ o % 256 ^ a.size
      let r := a.op.apply a.size m a.val
      let rs := Tbl.get [] l.rels (o / 8)
      let mask := (2 ^ a.size - 1) * 2 ^ o
      let (s, w) := s.homeWrite d ten line plc mask (r.1 * 256 ^ o) x.must false (wordMarks mask (atomicMarks rs x))
      (s.setCtxAt c a.cx (((s.ctxAt c a.cx).took str 4 a.bundle none rs l.stamps).note 4 a.bundle [w]), r.2, false)
  else
    let home := s.bindsHome c (a.scope.map (fun n => s.actual n str.gang str.gtile)) pa
    let (s, v) := if home then s.homeReadW d ten line plc else s.dieRead d str.gang str.gtile ten line plc x.must
    match v with
    | none => (s, 0, true)
    | some l =>
      let s := if home then s.refreshLine d line l else s
      let rs := ((ps.filterMap (fun p => match p.loc with | .mem q _ => some (q % 64 / 8) | .tess _ _ => none)).dedup).flatMap
        (Tbl.get [] l.rels)
      let s := s.showOwn c a.scope rs str
      (s.setCtxAt c a.cx ((s.ctxAt c a.cx).took str 1 a.bundle a.scope rs l.stamps), lineBytes ps l.data, false)

/-- One line of an access performs (R254, R269): the part's new state, the bytes read in their places in the value,
and whether they are poisoned. -/
def State.performLine (s : State) (c : Nat) (a : Access) (ps : List Piece) : State × Nat × Bool :=
  match ps with
  | [] => (s, 0, false)
  | ⟨.tess tc off, _, _⟩ :: _ => s.performTess c a ps tc off
  | ⟨.mem pa plc, _, _⟩ :: _ => s.performMem c a ps pa plc

/-- SVC serves a trap of the context, whose entries stay as its frame has them (R372, R376). -/
def Core.serves (k : Core) (cx : CtxId) : Bool :=
  match k.serving with
  | some (c, _) => c == cx
  | none => false

/-- What follows when something a context waited for has come: values due land, a trap that waits is entered, and an
owed flip completes (R22, R28, R372). -/
def Core.advance (k : Core) (cx : CtxId) : Core :=
  if k.serves cx then k
  else
    let k := k.setCtx cx ((k.ctx cx).settle (k.ctx cx).clock)
    (k.tryEnter cx).tryFlip cx

/-- The cycle in which the value of a read that performs while its context stands at cycle `now` is ready (R45): no
earlier than the least latency and, for a tessera, no later than the greatest. -/
def Access.readyAt (a : Access) (now : Nat) : Nat :=
  match a.un with
  | .c0 => min (max now (a.issued + Config.latC0)) (a.issued + Config.maxC0)
  | .c1 => max now (a.issued + Config.latC1)

/-- A line that an access of a tile core is about to perform on is not in its die's cache (R231, R453). -/
def State.misses (s : State) (c : Nat) (ps : List Piece) : Bool :=
  !isControl c && ps.any (fun p => match p.loc with
    | .mem pa _ => !isBell pa && (Tbl.get none (s.die (dieOf c)).lines (pa / 64)).isNone
    | .tess _ _ => false)

/-- The first line of an access performs, of a vector access the line of its first lane: the spec gives the lines no order
(R253: DESIGN CHOICE, log entry 142); with its last line the access is over and its register's value is there
(R249, R253). -/
def State.performAccess (s : State) (c : Nat) (a : Access) : State :=
  let l := ((a.pieces.head?).map (·.loc.line)).getD (0, 0)
  let mine := a.pieces.filter (fun p => p.loc.line == l)
  let rest := a.pieces.filter (fun p => p.loc.line != l)
  -- event 18 counts an access once, with its first line that the die cache does not hold (log entry 133)
  let miss := !a.missed && s.misses c mine
  let s := if miss then s.setCore c ((s.core c).count 18 (some a.cx) 1) else s
  let (s, v, bad) := s.performLine c a mine
  let a := { a with got := a.got + v, poison := a.poison || bad, pieces := rest, missed := a.missed || miss }
  let k := s.core c
  if !rest.isEmpty then s.setCore c { k with accs := k.accs.map (fun b => if b.id = a.id then a else b) }
  else
    let k := { k with accs := k.accs.filter (fun b => b.id ≠ a.id) }
    let x := k.ctx a.cx
    let x := if a.writes then
        x.deliver a.id (if a.vector then BitVec.ofNat 4096 a.got else a.op.extend a.size a.got)
          (a.readyAt x.clock) a.poison
      else x
    (s.setCore c ((k.setCtx a.cx (s.pruneCtx x)).advance a.cx)).ripen

/-! ### Order at issue: LDA and FENCE (R259 to R261) -/

/-- An LDA of an earlier bundle of the context is not yet bound (R259). -/
def Core.ldaOpen (k : Core) (cx : CtxId) : Bool :=
  k.accs.any (fun a => a.cx == cx && !a.op.isStore && a.scope.isSome && decide (a.bundle < (k.ctx cx).bundles))

/-- Every operation of the masked classes issued before bundle `n` has performed at the scope (R260): none is
outstanding, and no write that they made or read has some way to go within the scope as it is carried out. -/
def State.fenceOver (s : State) (c : Nat) (cx : CtxId) (f : BitVec 3 × BitVec 5 × Nat) : Bool :=
  let k := s.core c
  let x := k.ctx cx
  let str := k.strandOf cx
  let sc := s.actual f.1.toNat str.gang str.gtile
  !k.accs.any (fun a => a.cx == cx && decide (a.bundle < f.2.2) && decide (a.classBit &&& f.2.1.toNat ≠ 0))
    && !k.delayed.any (fun d => d.cx == cx && decide (d.bundle < f.2.2) && decide ((if d.store then 2 else 1) &&& f.2.1.toNat ≠ 0))
    && !(x.masked f.2.1.toNat f.2.2).any (s.pending sc (reachOf sc (dieOf c)))

end Sys2Proof.Machine
end

