-- ==== Sys2Proof/Machine/Tokens.lean ====
section
/-! DEFINITION. Child operations as records: channels, tokens, states, predecessors, ownership, steering, and the
counters of hods (14 R298 to R323, 15 R342 to R345). -/

namespace Sys2Proof.Machine

/-! ### Tokens (R300, R301) -/

/-- The gang tile field that a core's tokens carry: the strand's; a control core's own number (log entry 21). -/
def State.tokenTile (s : State) (c : Nat) : Nat :=
  if isControl c then c - 768 else ((s.core c).ctx ((s.core c).servedId)).gtile

/-- A token. -/
def mkToken (tile bank ch seq : Nat) : Word64 :=
  BitVec.ofNat 64 (tile / 96 * 2 ^ 49 + tile % 96 * 2 ^ 42 + bank * 2 ^ 40 + ch * 2 ^ 32 + seq)

/-- Gang tile of a token. -/
def tokTile (t : Word64) : Nat := 96 * (t.toNat / 2 ^ 49 % 8) + t.toNat / 2 ^ 42 % 128
/-- BANK of a token. -/
def tokBank (t : Word64) : Nat := t.toNat / 2 ^ 40 % 4
/-- CH of a token. -/
def tokCh (t : Word64) : Nat := t.toNat / 2 ^ 32 % 8
/-- SEQ of a token. -/
def tokSeq (t : Word64) : BitVec 32 := t.setWidth 32

/-- A token that some issue could have produced (R300). -/
def tokFormed (t : Word64) : Bool :=
  decide (t.toNat < 2 ^ 52) && tokSeq t != 0 && decide (tokBank t ≠ 3) && decide (t.toNat / 2 ^ 35 % 32 = 0)
    && decide (t.toNat / 2 ^ 42 % 128 < 96)

/-- Sequence number `q` is at or before `t` (R301). -/
def serialLe (q t : BitVec 32) : Bool := decide ((t - q).toNat < 2147483648)

/-- The next sequence number of a channel (R301). -/
def nextSeq (q : BitVec 32) : BitVec 32 := if q = 0xFFFFFFFF then 1 else q + 1

/-- The core a token names, for a context of core `c` and gang `g`: of the same gang on this device, or on a control core
any of the control complex (R300, R391). -/
def State.tokCore (s : State) (c g : Nat) (t : Word64) : Option Nat :=
  if !tokFormed t then none
  else if isControl c then (if tokTile t < 4 then some (768 + tokTile t) else none)
  else Tbl.get none (s.gang g).place (tokTile t)

/-- The token names an operation that has been issued: its core and context. -/
def State.tokIssued (s : State) (c g : Nat) (t : Word64) : Option Nat :=
  match s.tokCore c g t with
  | none => none
  | some d => if serialLe (tokSeq t) (Tbl.get 0 ((s.core d).ctx (ctxOfBank (tokBank t))).seqs (tokCh t)) then some d
      else none

/-- The record of an operation on a core; none once it is retired (R305). -/
def Core.opOf (k : Core) (t : Word64) : Option ChildOp := k.ops.find? (fun o => o.token == t)

/-- The core with one operation's record replaced. -/
def Core.setOp (k : Core) (o : ChildOp) : Core :=
  { k with ops := k.ops.map (fun p => if p.order = o.order then o else p) }

/-- The first operation of a channel that is not complete (R298, R302). -/
def Core.headOp (k : Core) (ch : Nat) : Option ChildOp := k.ops.find? (fun o => o.ch == ch && !completeCode o.state)

/-- Operations of a channel that are not complete (R298). -/
def Core.depth (k : Core) (ch : Nat) : Nat := (k.ops.filter (fun o => o.ch == ch && !completeCode o.state)).length

/-- The depth of a channel (R298). -/
def chDepth (ch : Nat) : Nat := if ch < 4 then 16 else if ch = 7 then 4 else 8

/-- DONE of a context's channel (R303): up to the oldest operation not complete. -/
def Core.doneOf (k : Core) (cx : CtxId) (ch : Nat) : BitVec 32 :=
  let x := k.ctx cx
  match k.ops.find? (fun o => o.ch == ch && o.cx == cx && !completeCode o.state) with
  | none => Tbl.get 0 x.seqs ch
  | some o =>
    if tokSeq o.token = 1 then (if Tbl.get 0 x.dones ch = 0 then 0 else 0xFFFFFFFF) else tokSeq o.token - 1

/-- Whether the operation that a token names is complete; a retired record was (R302, R305, R307). -/
def State.tokComplete (s : State) (d : Nat) (t : Word64) : Bool :=
  match (s.core d).opOf t with
  | none => true
  | some o => completeCode o.state

/-! ### The fault record (R305) -/

/-- A word of the record of an operation. -/
def ChildOp.recordWord (o : ChildOp) (w : Nat) : Word64 :=
  match w with
  | 0 => BitVec.ofNat 64 (o.lines * 2 ^ 32 + o.cause * 2 ^ 16 + o.owner * 32 + o.det.toNat * 16 + o.state)
  | 1 => o.addr
  | 2 => BitVec.ofNat 64 (o.expck.toNat * 2 ^ 32 + o.runck.toNat)
  | _ => o.pred

/-- What KSTAT reads on the core that holds the record (R305, R343). -/
def Core.kstat (k : Core) (t : Word64) (w : Nat) : Word64 :=
  match k.opOf t with
  | some o => o.recordWord w
  | none => if w = 0 then 12 else 0

/-! ### Owners (R310 to R312) -/

/-- The context that holds a strand of a gang, if the strand still runs. -/
def State.strandCtx (s : State) (g sidx : Nat) : Option (Nat × CtxId) :=
  (s.gang g).place.findSome? (fun e =>
    match e.2 with
    | none => none
    | some c =>
      let k := s.core c
      if k.cb0.gang = g ∧ k.cb0.sidx.toNat = sidx ∧ !k.cb0.halted then some (c, CtxId.cb0)
      else if k.cb1.gang = g ∧ k.cb1.sidx.toNat = sidx ∧ !k.cb1.halted then some (c, CtxId.cb1)
      else none)

/-- A strand of a gang stands on this device as `p` says. -/
def State.strandIs (s : State) (g sidx : Nat) (p : Ctx → Bool) : Bool :=
  (s.gang g).place.any (fun e => match e.2 with
    | none => false
    | some c => [CtxId.cb0, CtxId.cb1].any (fun cx =>
        let x := s.ctxAt c cx
        decide (x.gang = g) && decide (x.sidx.toNat = sidx) && p x))

/-- A strand of a fabric gang on another device has told that it has halted (R133, R414). -/
def State.farHalted (s : State) (g sidx : Nat) : Bool :=
  let x := s.gang g
  s.farStrands.any (fun f => isFabric x.levels && f.ten == x.ten && f.rec_ == x.recVa.toNat && f.nth == x.nth
    && f.sidx == sidx && f.level == none)

/-- A strand of a gang has a context on this device. -/
def State.strandHere (s : State) (g sidx : Nat) : Bool := s.strandIs g sidx (fun _ => true)

/-- A strand of a gang has halted on this device (R336). -/
def State.strandHalted (s : State) (g sidx : Nat) : Bool := s.strandIs g sidx (·.halted)

/-- A strand of a gang still runs, on this device or on another, which has not told of its HALT (R310, R414). -/
def State.strandLives (s : State) (g sidx : Nat) : Bool :=
  let x := s.gang g
  (s.strandCtx g sidx).isSome || (isFabric x.levels && !s.strandHere g sidx && !s.farHalted g sidx)

/-- The lowest strand of the instance of level `l` that contains a strand (R310). -/
def anchorOf (levels : List Level) (l sidx : Nat) : Nat :=
  let p := (levels.drop (l + 1)).foldl (fun a v => a * v.count) 1
  sidx / p * p

/-- The strand an orphan of `sidx` passes to: the anchor of the parent level's instance, then outward; none for the
runtime queue (R310). `l` counts the levels still to try. -/
def State.heir (s : State) (g sidx : Nat) : Nat → Option Nat
  | 0 => none
  | l + 1 =>
    let a := anchorOf (s.gang g).levels l sidx
    if a ≠ sidx ∧ s.strandLives g a then some a else s.heir g sidx l

/-- A record of an operation that the runtime queue owns (R310, R312, R418). -/
def State.reportOp (s : State) (o : ChildOp) (kind : Nat) : State :=
  s.runtimeRecord (s.gang o.gang).ten kind o.gang o.token.toNat (o.recordWord 0).toNat
    (natToBytes 8 o.addr.toNat ++ natToBytes 8 (o.recordWord 2).toNat ++ natToBytes 8 o.pred.toNat)

/-- An operation of core `c` has reached a new state: what follows a completion or a fault (R303, R305, R310, R312,
R225). -/
def State.settleOp (s : State) (c : Nat) (o : ChildOp) : State :=
  let k := s.core c
  let o := { o with doneAt := (k.ctx o.cx).clock }
  let k := k.setOp o
  let x := k.ctx o.cx
  let done := k.doneOf o.cx o.ch
  let k := k.setCtx o.cx { x with dones := Tbl.set 0 x.dones o.ch done }
  let k := if completeCode o.state then
      let aged := k.ops.map (fun (p : ChildOp) =>
        if p.cx == o.cx && p.ch == o.ch && decide (p.order < o.order) then { p with newer := p.newer + 1 } else p)
      let old := fun (p : ChildOp) => completeCode p.state && decide (64 ≤ p.newer)
      let y := k.ctx o.cx
      -- what a wait for a retired operation is ordered after stays with its context (R290)
      { (k.setCtx o.cx { y with retired := s.prune (y.retired ++ (aged.filter old).flatMap (·.seen)) }) with
        ops := aged.filter (fun p => !old p) }
    else k
  let s := s.setCore c (k.advance o.cx)
  let faulted := o.state == 6
  if o.owner = 2 then
    if completeCode o.state && o.state != 7 then s.reportOp o 1 else if faulted then s.reportOp o 2 else s
  else if faulted && o.det then
    match s.strandCtx o.gang o.ownerSidx with
    | none => s.tellPeers o.gang (fun t r n => .fault t r n o.ownerSidx o.token.toNat)
    | some (d, cx) =>
      let x := s.ctxAt d cx
      s.setCtxAt d cx { x with asyncs := x.asyncs ++ [{ code := 15, info := o.token }] }
  else s

/-- The operation ends in a state, with a cause and address for a fault (R302, R305); of a part of a collective the other
devices learn that it ends otherwise than DONE (R336, R338). -/
def State.endOp (s : State) (c : Nat) (o : ChildOp) (state cause : Nat) (addr : Word64) : State :=
  let t := s.settleOp c { o with state := state, cause := cause, addr := addr }
  if o.kind = .coll ∧ (state = 5 ∨ state = 6) then
    t.tellPeers o.gang (fun a r n => .collEnd a r n o.sidx o.level o.nth state)
  else t

/-- A matrix operation of core `c` ends in a state: a half-filled latch entry becomes pending first, when the latch has
room; until it has, the operation counts as running and its end waits (R200). A fault names the store word (R305). -/
def State.endMx (s : State) (c : Nat) (o : ChildOp) (state cause : Nat) : State :=
  let k := s.core c
  let stop := fun (k : Core) =>
    let word := k.mx.word
    (s.setCore c { k with mx := {} }).endOp c o state cause (BitVec.ofNat 64 (if state = 6 then word else 0))
  match k.halfRow with
  | none => stop k
  | some r =>
    if 4 ≤ k.latch.length then
      s.setCore c { (k.setOp { o with state := 2 }) with mx := { k.mx with run := true, ending := some (state, cause) } }
    else stop { k with halfRow := none, latch := k.latch ++ [r.setWidth 4096] }

/-! ### Steering (R302, R309, R342) -/

/-- KCANCEL 0, KDETACH 1, KPRIO 2 or KACK 3 reaches an operation's core. A cancelled re-stripe that was suspended leaves its
stripe entry and the page as they stand: R302 and R339 do not say what becomes of it (DESIGN CHOICE, log entry 141). -/
def State.steer (s : State) (d what : Nat) (t : Word64) (pri : Nat) : State :=
  match (s.core d).opOf t with
  | none => s
  | some o =>
    let put := fun (o : ChildOp) => s.setCore d ((s.core d).setOp o)
    match what with
    | 0 =>
      if settledCode o.state then s
      else if o.state = 2 then (if o.kind = .rstrp then s else put { o with cancel := true })
      else if o.state = 3 && o.kind = .mcall then s.endMx d o 5 0
      else s.endOp d o 5 0 0
    | 1 => if completeCode o.state then s else put { o with det := true }
    | 2 => if settledCode o.state then s else put { o with pri := pri }
    | _ => if o.state = 6 then s.settleOp d { o with state := 7 } else s

/-- A steering instruction (R342): at once on the issuing core, otherwise when the request reaches the other core; what the
token names, and whether it has been issued, is judged there. -/
def State.steering (s : State) (un : CUnit) (h : Hdr) (what : Nat) (a : BitVec 4) (pri : Nat) : Out :=
  s.whenOn h fun s =>
    let t := s.me.k a.toNat
    let s := s.escape
    match s.tokCore s.focus s.strand.gang t with
    | none => s.done
    | some d =>
      if d = s.focus then (s.steer d what t pri).done
      else (s.issueAccess un (.steer what t pri) 0 0 [⟨.tess d 0, 0, 0⟩] 0 0 (BitVec.allOnes 128) none false).done

/-- KCANCEL (R309, R342). -/
def execKcancel (un : CUnit) (h : Hdr) (a : BitVec 4) (s : State) : Out := s.steering un h 0 a 0
/-- KDETACH (R310, R342). -/
def execKdetach (un : CUnit) (h : Hdr) (a : BitVec 4) (s : State) : Out := s.steering un h 1 a 0
/-- KPRIO (R308, R342); the decoder refuses a priority above 3. -/
def execKprio (un : CUnit) (h : Hdr) (a : BitVec 4) (i : BitVec 8) (s : State) : Out :=
  s.steering un h 2 a i.toNat
/-- KACK (R304, R342). -/
def execKack (un : CUnit) (h : Hdr) (a : BitVec 4) (s : State) : Out := s.steering un h 3 a 0

/-- KSTAT (R305, R343). -/
def execKstat (un : CUnit) (h : Hdr) (d : BitVec 5) (a : BitVec 4) (f : BitVec 2) (s : State) : Out :=
  s.whenOn h fun s =>
    let t := s.me.k a.toNat
    match s.tokCore s.focus s.strand.gang t with
    | none => s.putS d 0 h.land 4
    | some c =>
      if c = s.focus then
        s.putS d (if (s.tokIssued s.focus s.strand.gang t).isSome then s.kore.kstat t f.toNat else 0) h.land 4
      else
        s.dest (keyS d.toNat) h.land.toNat true fun s =>
          (s.issueAccess un (.kstat t f.toNat) 8 0 [⟨.tess c 0, 0, 0⟩] (keyS d.toNat) h.land.toNat (BitVec.allOnes 128)
            none false).done

/-! ### Waiting for operations (R322, R323, R344, R345) -/

/-- The writes of a context's complete operations on a channel up to a number, those of retired records among them. -/
def Core.opWrites (k : Core) (cx : CtxId) (ch : Nat) (q : BitVec 32) : List (Nat × Nat) :=
  (k.ctx cx).retired
    ++ (k.ops.filter (fun o => o.cx == cx && o.ch == ch && completeCode o.state && serialLe (tokSeq o.token) q)).flatMap (·.seen)

/-- What a wait for a token of core `d` is ordered after: the operation's writes, or once its record is retired those of
the retired operations of its context (R290). -/
def State.tokWrites (s : State) (d : Nat) (t : Word64) : List (Nat × Nat) :=
  match (s.core d).opOf t with
  | some o => o.seen
  | none => (s.ctxAt d (ctxOfBank (tokBank t))).retired

/-- KWAIT (R344): a null, malformed, foreign or unissued token is a dead wait (R322). -/
def execKwait (h : Hdr) (a : BitVec 4) (i : BitVec 8) (s : State) : Out :=
  s.whenOn h fun s =>
    let t := s.me.k a.toNat
    match s.tokIssued s.focus s.strand.gang t with
    | none => s.raise 7 8 6 t
    | some d =>
      if ((s.core d).opOf t).any (fun o => !settledCode o.state) then
        s.waitFor (if s.immU 6 i = 0 then s.lim else some (64 * s.immU 6 i))
      else (s.setMe (s.me.acquire (s.tokWrites d t))).done

/-- KWAITCH (R345). -/
def execKwaitch (h : Hdr) (a : BitVec 5) (c : BitVec 3) (s : State) : Out :=
  s.whenOn h fun s =>
    let q := (s.me.s a.toNat).setWidth 32
    let ch := c.toNat
    let k := s.kore
    if !serialLe q (Tbl.get 0 s.me.seqs ch) then s.raise 7 8 6 (q.setWidth 64)
    else if serialLe q (Tbl.get 0 s.me.dones ch)
        || k.ops.any (fun o => o.cx == s.cx && o.ch == ch && o.state == 6 && serialLe (tokSeq o.token) q) then
      (s.setMe (s.me.acquire (k.opWrites s.cx ch q))).done
    else s.waitFor s.lim

/-! ### Hods (R314 to R319, R346, R347) -/

/-- A hod of a core. -/
def Core.hod (k : Core) (i : Nat) : Hod := Tbl.get {} k.hods i

/-- The core with a hod replaced. -/
def Core.setHod (k : Core) (i : Nat) (h : Hod) : Core := { k with hods := Tbl.set {} k.hods i h }

/-- Slots filled (R314). -/
def Hod.filled (h : Hod) : Nat := (h.wp - h.rp).toNat

/-- An advance of WP by `n` (R316). -/
def Hod.advW (h : Hod) (n : Nat) : Hod :=
  { h with wp := h.wp + BitVec.ofNat 32 n, ovf := h.ovf || decide (h.nslot.toNat < h.filled + n) }

/-- An advance of RP by `n` (R316). -/
def Hod.advR (h : Hod) (n : Nat) : Hod :=
  { h with rp := h.rp + BitVec.ofNat 32 n, ovf := h.ovf || decide (h.filled < n) }

/-- Bytes landed for a BYTES hod: RP holds ARR, WP holds EXP (R314, R317). -/
def Hod.arrive (h : Hod) (n : Nat) : Hod :=
  if 0xFFFFFFFF < h.rp.toNat + n then { h with rp := 0xFFFFFFFF, ovf := true }
  else { h with rp := h.rp + BitVec.ofNat 32 n }

/-- The epoch of a BYTES hod is complete (R317). -/
def Hod.complete (h : Hod) : Bool := h.xset && decide (h.wp.toNat ≤ h.rp.toNat)

/-- The close of a complete epoch; true when it is in order (R317). -/
def Hod.close (h : Hod) : Hod × Bool :=
  let x := h.rp - h.wp
  if x = 0 ∨ h.carry then ({ h with epoch := h.epoch + 1, xset := false, wp := 0, rp := x }, true)
  else ({ h with ovf := true }, false)

/-- The writes and accesses that a hod's counts stand for have performed: its end of a wait may be seen (R347). -/
def Core.hodReady (k : Core) (h : Hod) : Bool :=
  h.pend.all (fun p => !k.accs.any (fun a => a.cx == p.1 && decide (a.bundle < p.2))
    && !k.delayed.any (fun d => d.cx == p.1 && decide (d.bundle < p.2)))

/-- A context's release through a hod (R347). -/
def Hod.release (h : Hod) (cx : CtxId) (x : Ctx) : Hod :=
  { h with pend := (h.pend.filter (fun p => p.1 != cx)) ++ [(cx, x.bundles)], seen := (h.seen ++ x.seen ++ x.must).dedup }

/-- A hod admits an operation or context of another core (R318): it exists, is not another context's private one, and
its scope contains the issuer. -/
def State.hodAdmits (s : State) (d i c : Nat) (cx : CtxId) : Bool :=
  let h := (s.core d).hod i
  let a := (s.core d).ctx (s.core d).servedId
  let b := (s.core c).ctx (s.core c).servedId
  h.en && (!h.priv || (decide (d = c) && decide (h.own = bankOf cx)))
    && (decide (d = c) || inScope h.scope.toNat a.gang a.gtile b.gang b.gtile)

/-- The checks of a hod instruction (R318, R346), then its effect. -/
def State.onHod (s : State) (h : Hdr) (j : BitVec 5) (k : Hod → State → Out) : Out :=
  s.whenOn h fun s =>
    let d := s.kore.hod j.toNat
    let i : Word64 := j.setWidth 64
    if !d.en || (d.priv && decide (d.own ≠ bankOf s.cx)) then s.raise 6 10 6 i
    else if d.ovf then s.raise 6 11 6 i
    else k d s

/-- A hod instruction's operand or mode is wrong (R346). -/
def State.hodFormat (s : State) : Out := s.raise 6 7 6 0

/-- A wait on a hod ends: what it is ordered after is taken on (R319). -/
def State.hodEnd (s : State) (j : Nat) (d : Hod) : Out :=
  ((s.setKore (s.kore.setHod j d)).setMe ((s.setKore (s.kore.setHod j d)).me.acquire d.seen)).done

/-- HWAITF (R316, R317, R346). -/
def execHwaitf (h : Hdr) (a : BitVec 5) (j : BitVec 5) (s : State) : Out :=
  s.onHod h j fun d s =>
    let n := (s.me.s a.toNat).toNat
    if d.mode then
      if d.complete && s.kore.hodReady d then
        let (e, ok) := d.close
        if ok then s.hodEnd j.toNat e else (s.setKore (s.kore.setHod j.toNat e)).raise 6 11 6 (j.setWidth 64)
      else s.waitFor s.lim
    else if d.nslot.toNat < n then s.hodFormat
    else if n = 0 then s.done
    else if n ≤ d.filled && s.kore.hodReady d then s.hodEnd j.toNat d
    else s.waitFor s.lim

/-- HWAITE (R316, R346). -/
def execHwaite (h : Hdr) (a : BitVec 5) (j : BitVec 5) (s : State) : Out :=
  s.onHod h j fun d s =>
    let n := (s.me.s a.toNat).toNat
    if d.mode || decide (d.nslot.toNat < n) then s.hodFormat
    else if n = 0 then s.done
    else if d.filled + n ≤ d.nslot.toNat && s.kore.hodReady d then s.hodEnd j.toNat d
    else s.waitFor s.lim

/-- An advance of a hod by a context (R346, R347). -/
def State.hodAdvance (s : State) (h : Hdr) (a j : BitVec 5) (f : Hod → Nat → Hod) : Out :=
  s.onHod h j fun d s =>
    if d.mode then s.hodFormat
    else
      let e := (f d (s.me.s a.toNat).toNat).release s.cx s.me
      let e := { e with seen := s.prune e.seen }
      ((s.setKore (s.kore.setHod j.toNat e)).escape).done

/-- HADVR (R316, R346, R347). -/
def execHadvr (h : Hdr) (a : BitVec 5) (j : BitVec 5) (s : State) : Out := s.hodAdvance h a j Hod.advR
/-- HADVW (R316, R346, R347). -/
def execHadvw (h : Hdr) (a : BitVec 5) (j : BitVec 5) (s : State) : Out := s.hodAdvance h a j Hod.advW

/-- HEXPECT (R317, R346). -/
def execHexpect (h : Hdr) (a : BitVec 5) (j : BitVec 5) (s : State) : Out :=
  s.onHod h j fun d s =>
    let n := s.me.s a.toNat
    if !d.mode || d.xset || decide (2 ^ 32 ≤ n.toNat) then s.hodFormat
    else ((s.setKore (s.kore.setHod j.toNat { d with wp := n.setWidth 32, xset := true })).escape).done

/-- HPTR (R314, R346). -/
def execHptr (h : Hdr) (d : BitVec 5) (w : BitVec 1) (j : BitVec 5) (s : State) : Out :=
  s.whenOn h fun s => s.dest (keyS d.toNat) h.land.toNat (decide (0 < h.land.toNat)) fun s =>
    s.onHod h j fun e s => s.putS d ((if w = 0 then e.rp else e.wp).setWidth 64) h.land 1

end Sys2Proof.Machine
end

