-- ==== Sys2Proof/Machine/Packets.lean ====
section
/-! DEFINITION. The instructions that queue child operations, and the packets they read (15 R324 to R341). -/

namespace Sys2Proof.Machine

/-! ### Copy packets (R327 to R335) -/

/-- A copy packet's fields, with the resolved formats and element widths. `dims` holds dimensions 2 and up: count,
source stride, destination stride. -/
structure CopyP where
  ch    : Nat
  ssp   : Nat
  dsp   : Nat
  cv    : Bool
  sat   : Bool
  swz   : Bool
  chain : Bool
  hoden : Bool
  mcast : Bool
  chk   : Bool
  ckm   : Nat
  hod   : Nat
  src   : Nat
  dst   : Nat
  expck : Nat
  mask  : Nat
  n1    : Nat
  dims  : List (Nat × Int × Int)
  fromF : Nat
  toF   : Nat
  wf    : Nat
  wt    : Nat
deriving DecidableEq, Repr

/-- A bit of a flags byte. -/
def flagBit (b i : Nat) : Bool := b / 2 ^ i % 2 == 1

/-- Dimension `j` (3 and up) of an extension packet list (R328). -/
def extDim (pk : List Byte) (j : Nat) : Nat × Int × Int :=
  let o := 64 * ((j - 3) / 4 + 1) + 8 + 14 * ((j - 3) % 4)
  (leAt pk o 2, asInt 48 (leAt pk (o + 2) 6), asInt 48 (leAt pk (o + 8) 6))

/-- The fields of a copy packet (R327). -/
def copyP (pk : List Byte) (fr dst : Nat) : CopyP :=
  let f := leAt pk 5 1
  let nd := leAt pk 3 1
  let cv := flagBit f 0
  { ch := if leAt pk 1 1 < 4 then leAt pk 1 1 else 0, ssp := leAt pk 2 1 % 8, dsp := leAt pk 2 1 / 16 % 8, cv := cv,
    sat := flagBit f 1, swz := flagBit f 2, chain := flagBit f 3, hoden := flagBit f 4, mcast := flagBit f 5,
    chk := flagBit f 6, ckm := leAt pk 6 1, hod := leAt pk 7 1 % 32, src := leAt pk 8 8, dst := leAt pk 16 8,
    expck := leAt pk 24 4, mask := leAt pk 28 3, n1 := leAt pk 32 4,
    dims := (if 2 ≤ nd then [(leAt pk 36 4, asInt 64 (leAt pk 40 8), asInt 64 (leAt pk 48 8))] else [])
      ++ ((List.range (nd - 2)).map (fun i => extDim pk (i + 3))),
    fromF := fr, toF := dst, wf := if cv then width4 fr / 8 else 1, wt := if cv then width4 dst / 8 else 1 }

/-- Extension packets that a copy packet calls for (R326). -/
def extCount (pk : List Byte) : Nat := if 2 < leAt pk 3 1 ∧ leAt pk 3 1 ≤ 16 then (leAt pk 3 1 + 1) / 4 else 0

/-- Lines of one run (R329). -/
def CopyP.perRun (p : CopyP) : Nat := p.n1 * p.wt / 64

/-- Runs of the copy (R329). -/
def CopyP.runs (p : CopyP) : Nat := p.dims.foldl (fun a d => a * d.1) 1

/-- Lines of the copy (R329). -/
def CopyP.total (p : CopyP) : Nat := p.perRun * p.runs

/-- The source, destination and dimension-2 index of a run; dimension 2 varies fastest (R329). -/
def CopyP.runAt (p : CopyP) (r : Nat) : Nat × Nat × Nat :=
  let go := p.dims.foldl (fun (acc : Nat × Int × Int) d =>
    (acc.1 / max 1 d.1, acc.2.1 + (acc.1 % max 1 d.1 : Nat) * d.2.1, acc.2.2 + (acc.1 % max 1 d.1 : Nat) * d.2.2))
    (r, (p.src : Int), (p.dst : Int))
  let n2 := (p.dims.head?.map (·.1)).getD 1
  ((go.2.1 % (2 ^ 64 : Nat)).toNat, (go.2.2 % (2 ^ 64 : Nat)).toNat, r % max 1 n2)

/-- Line `n` of the copy: source address and length in bytes, destination address, dimension-2 index (R329). -/
def CopyP.line (p : CopyP) (n : Nat) : Nat × Nat × Nat × Nat :=
  let (s, d, i2) := p.runAt (n / max 1 p.perRun)
  let l := n % max 1 p.perRun
  let e := 64 / max 1 p.wt
  ((s + l * e * p.wf) % 2 ^ 64, e * p.wf, (d + 64 * l) % 2 ^ 64, i2)

/-- First row of the adapter bay for a BAY code; 256 for none (R183). -/
def bayRow (b : BitVec 2) : Nat := if b = 0 then 256 else if b = 1 then 240 else if b = 2 then 224 else 192

/-- Some destination byte lies in `[lo, hi)` (R183, R225). -/
def CopyP.dstMeets (p : CopyP) (lo hi : Nat) : Bool :=
  (List.range p.runs).any (fun r =>
    let d := (p.runAt r).2.1
    decide (d < hi) && decide (lo < d + p.n1 * p.wt))

/-- The packet breaks a rule of R330: its layout, ranges, spaces, counts, alignment, conversion, multicast, checksum or
hod rule, or it overlaps the bay. `noPred` says that it has no predecessor. -/
def copyBad (pk : List Byte) (p : CopyP) (noPred control : Bool) (bay : BitVec 2) : Bool :=
  let f := leAt pk 5 1
  let nd := leAt pk 3 1
  let cvt := leAt pk 4 1
  let exts := List.range (extCount pk)
  leAt pk 0 1 != 1 || decide (3 < leAt pk 1 1) || decide (leAt pk 2 1 / 8 % 2 = 1) || decide (leAt pk 2 1 / 128 = 1)
    || decide (nd = 0) || decide (16 < nd) || decide (2 < p.ckm) || decide (31 < leAt pk 7 1) || decide (f / 128 = 1)
    || leAt pk 31 1 != 0 || leAt pk 56 8 != 0
    || (decide (nd < 2) && (leAt pk 36 4 != 0 || leAt pk 40 8 != 0 || leAt pk 48 8 != 0))
    || exts.any (fun e => leAt pk (64 * (e + 1)) 1 != 2 || leAt pk (64 * (e + 1) + 1) 1 != e
        || leAt pk (64 * (e + 1) + 2) 6 != 0
        || (List.range 4).any (fun i => decide (nd < 4 * e + 3 + i) && leAt pk (64 * (e + 1) + 8 + 14 * i) 14 != 0))
    || p.ssp == 5 || p.ssp == 7 || p.dsp == 7 || (control && p.dsp == 5)
    || (if p.cv then decide (p.fromF = p.toF) || decide (14 ≤ p.fromF) || decide (14 ≤ p.toF) else cvt != 0 || p.sat)
    || p.n1 == 0 || p.dims.any (fun d => d.1 == 0) || decide (p.n1 * p.wt % 64 ≠ 0) || decide (2 ^ 32 ≤ p.total)
    || decide (p.dst % 64 ≠ 0) || p.dims.any (fun d => decide (d.2.2 % 64 ≠ 0))
    || decide (p.src % max 1 p.wf ≠ 0) || p.dims.any (fun d => decide (d.2.1 % (max 1 p.wf : Nat) ≠ 0))
    || (if p.mcast then p.dsp != 2 || p.mask == 0 else p.mask != 0)
    || (!p.chk && p.expck != 0) || (p.ckm == 0 && (p.chain || p.chk)) || (p.chain && noPred)
    || (!p.hoden && p.hod != 0)
    || (p.dsp == 5 && decide (bay ≠ 0) && p.dstMeets (4096 * bayRow bay) Config.lintelSize)

/-- The gang tiles a line for `d` goes to (R333). A tile beyond the field's last has the address of the last, which no gang
occupies either (DESIGN CHOICE: such a tile has no address). -/
def CopyP.targets (p : CopyP) (d : Nat) : List Nat :=
  if p.mcast then
    let t := p.dst / 2 ^ 20 % 128 / 24 * 24
    ((List.range 24).filter (fun i => p.mask.testBit i)).map
      (fun i => d / 2 ^ 27 * 2 ^ 27 + min 127 (t + i) * 2 ^ 20 + d % 2 ^ 20)
  else [d]

/-- The cores whose hod a line for these targets lands for: each destination core of space 2, otherwise the issuing core
`c` (R334). -/
def State.hodCores (s : State) (c g dsp : Nat) (targets : List Nat) : List Nat :=
  if dsp = 2 then targets.filterMap (fun t => (s.remote g t 64).map (·.1)) else [c]

/-- The destination addresses of a copy's lines, each with every target of its line (R329, R333). -/
def CopyP.places (p : CopyP) : List Nat := (List.range p.total).flatMap (fun n => p.targets (p.line n).2.2.1)

/-- Every hod that a copy of a core's context lands for admits it (R318, R334). -/
def State.hodsAdmit (s : State) (c : Nat) (cx : CtxId) (g : Nat) (p : CopyP) : Bool :=
  !p.hoden || ((s.hodCores c g p.dsp p.places).dedup).all (fun d => s.hodAdmits d p.hod c cx)

/-! ### Reading a packet (R326) -/

/-- The packet at offset `x`, read as an LDS of the context reads: the trap code and the offset that fails, or the
bytes with the extensions. -/
def State.readPacket (s : State) (x : Word64) (exts : List Byte → Nat) : Except (Nat × Word64) (List Byte) :=
  let k := s.kore
  let piece := fun (o : Nat) =>
    if Config.tessSize < o + 64 then (.error (4, BitVec.ofNat 64 (max o Config.tessSize)) : Except (Nat × Word64) (List Byte))
    else match (List.range 64).find? (fun i => (s.me.mapOwn false (o + i)).isNone) with
      | some i => .error (5, BitVec.ofNat 64 (o + i))
      | none => .ok ((List.range 64).map (fun i => Mem.byte k.tess ((s.me.mapOwn false (o + i)).getD 0)))
  if x.toNat % 64 ≠ 0 then .error (6, x)
  else
    match piece x.toNat with
    | .error e => .error e
    | .ok b =>
      (List.range (exts b)).foldl (fun acc i =>
        match acc with
        | .error e => .error e
        | .ok l => match piece (x.toNat + 64 * (i + 1)) with
          | .error e => .error e
          | .ok c => .ok (l ++ c)) (.ok b)

/-- The physical lines of a packet of `n` bytes at offset `x`. -/
def Ctx.packetLines (x : Ctx) (o n : Nat) : List Nat :=
  (List.range (n / 64)).map (fun i => (x.mapOwn false (o + 64 * i)).getD (o + 64 * i) / 64)

/-- The packet of an instruction is read: what its checks refuse traps, and otherwise `k` goes on with its bytes (R326,
R43, R380). -/
def State.packet (s : State) (un : CUnit) (h : Hdr) (kd : BitVec 4) (x : Word64) (exts : List Byte → Nat)
    (k : List Byte → State → Out) : Out :=
  if s.behindDelayed then s.hold 10
  else match s.readPacket x exts with
    | .error (code, at_) => s.dest (keyK kd.toNat) h.land.toNat (decide (0 < h.land.toNat)) fun s => s.raise 6 code (cnum un) at_
    | .ok pk =>
      s.ownRead (s.me.packetLines x.toNat pk.length) fun s =>
        k pk (s.heardOwn s.focus s.cx s.me.bundles false
          ((s.me.packetLines x.toNat pk.length).flatMap (fun l => (List.range 64).map (64 * l + ·))))

/-! ### Creating an operation (R298 to R302, R307, R324) -/

/-- A predecessor that breaks R307. -/
def State.predBad (s : State) (t : Word64) : Bool :=
  decide (t ≠ 0) && (s.tokIssued s.focus s.strand.gang t).isNone

/-- A channel has no room (R298). -/
def State.chFull (s : State) (ch : Nat) : Bool := decide (chDepth ch ≤ s.kore.depth ch)

/-- The operation is queued and its token written (R324): `o` holds what its kind fixes. -/
def State.createOp (s : State) (h : Hdr) (kd : BitVec 4) (det : Bool) (o : ChildOp) : Out :=
  s.dest (keyK kd.toNat) h.land.toNat (decide (0 < h.land.toNat)) fun s =>
    let x := s.me
    let k := s.kore
    let q := nextSeq (Tbl.get 0 x.seqs o.ch)
    let t := mkToken (s.tokenTile s.focus) (bankOf s.cx) o.ch q.toNat
    let o := { o with token := t, cx := s.cx, det := det, land := h.land.toNat, order := k.opOrder + 1,
                      bundle := x.bundles, gang := s.strand.gang, sidx := s.strand.sidx.toNat,
                      ownerSidx := s.strand.sidx.toNat }
    let s := s.setMe { x with seqs := Tbl.set 0 x.seqs o.ch q }
    let s := s.setKore { (s.kore.count 19 none 1) with ops := s.kore.ops ++ [o], opOrder := k.opOrder + 1 }
    s.putReg (keyK kd.toNat) (t.setWidth 4096) (BitVec.allOnes 128) h.land.toNat 1

/-- The regions of the context as an operation with this LAND finds them (R224, R225). -/
def Ctx.halves (x : Ctx) (land : Nat) : List Half :=
  x.pairs.filterMap (fun e =>
    if e.2.en then some { idx := e.1, base := e.2.base, size := e.2.half, src := e.2.sel,
                          dst := (if land % 2 = 0 then !e.2.sel else e.2.sel), born := e.2.born }
    else none)

/-- Some destination byte of a range lies in a paired region (R225). -/
def inHalves (hs : List Half) (meets : Nat → Nat → Bool) : Bool := hs.any (fun h => meets h.base (h.base + h.size))

/-- Every destination line of a copy lies in some paired region (R381). -/
def CopyP.paired (p : CopyP) (hs : List Half) : Bool :=
  p.places.all (fun d => hs.any (fun h => decide (h.base ≤ d) && decide (d + 64 ≤ h.base + h.size)))

/-- The phase whose flip waits for the operation, when its destination lies in a paired region (R225). -/
def State.dueOf (s : State) (land : Nat) (hit : Bool) : Option Word64 :=
  if hit then some (s.me.phn + BitVec.ofNat 64 land) else none

/-- COPY (R324 to R335). -/
def execCopy (un : CUnit) (h : Hdr) (k : BitVec 4) (a : BitVec 5) (p : BitVec 2) (d : BitVec 1) (q : BitVec 4)
    (c : BitVec 1) (s : State) : Out :=
  s.whenOn h fun s =>
    s.packet un h k (s.me.s a.toNat) extCount fun pk s =>
      let fr := leAt pk 4 1 % 16
      let dst := leAt pk 4 1 / 16
      let cv := leAt pk 0 1 == 1 && flagBit (leAt pk 5 1) 0
      let fr' := if cv then s.fmt4 fr else fr
      let dst' := if cv then s.fmt4 dst else dst
      let cp := copyP pk fr' dst'
      let pred := if c = 1 then s.me.k q.toNat else 0
      let hs := s.me.halves h.land.toNat
      let wrong := copyBad pk cp (pred == 0) (isControl s.focus) s.kore.mxcfg
      let bad := if s.predBad pred then 6 else if wrong then 1
        else if !s.hodsAdmit s.focus s.cx s.strand.gang cp then 7 else 0
      if s.chFull cp.ch then s.hold 7
      else if s.me.walk.isSome && (cp.ssp == 0 || cp.dsp == 0) then s.hold 3
      else if cv && (decide (14 ≤ fr') || decide (14 ≤ dst') || fr' == dst') then s.raise 3 7 (cnum un) 0
      else
        -- a packet that breaks its rules names no destination bytes
        let hit := !wrong && cp.dsp == 1 && inHalves hs cp.dstMeets
        let clean := !wrong && cp.dsp == 1 && !cp.mcast && !cp.hoden && cp.paired hs
        let o : ChildOp := {
          token := 0, ch := cp.ch, cx := s.cx, kind := .copy, pri := p.toNat, packet := pk,
          expck := BitVec.ofNat 32 (if cp.ckm = 0 then 0 else cp.expck), pred := pred, bad := bad,
          badAddr := (if bad = 7 then BitVec.ofNat 64 cp.dst else 0),
          fromF := fr', toF := dst', halves := hs, due := s.dueOf h.land.toNat hit }
        (if clean then s else s.escape).createOp h k (d == 1) o

/-- The collective packet breaks a rule of R338; `n` members, `nlev` levels. -/
def collBad (pk : List Byte) (nlev n : Nat) : Bool :=
  let opc := leAt pk 1 1
  let w := tyWidth (leAt pk 3 1 % 8) / 8
  let red := leAt pk 3 1 / 16 % 4
  let sp := leAt pk 6 1
  let ok := fun (x : Nat) => x == 0 || x == 1 || x == 3
  let src := leAt pk 8 8
  let dst := leAt pk 16 8
  let cnt := leAt pk 24 4
  let sl := (if opc = 1 ∨ opc = 4 then n else 1) * cnt * w
  let dl := (if opc = 2 ∨ opc = 4 then n else 1) * cnt * w
  leAt pk 0 1 != 3 || decide (4 < opc) || decide (nlev ≤ leAt pk 2 1) || leAt pk 3 1 / 8 % 2 == 1
    || decide (64 ≤ leAt pk 3 1) || red == 3 || (decide (2 ≤ opc) && red != 0) || decide (n ≤ leAt pk 4 2)
    || (opc != 3 && leAt pk 4 2 != 0) || sp / 8 % 2 == 1 || decide (128 ≤ sp) || !ok (sp % 8) || !ok (sp / 16 % 8)
    || decide (64 ≤ leAt pk 7 1) || (decide (leAt pk 7 1 < 32) && leAt pk 7 1 != 0) || decide (src % 64 ≠ 0)
    || decide (dst % 64 ≠ 0) || cnt == 0
    || decide (cnt * w % 64 ≠ 0) || leAt pk 28 36 != 0
    || (sp % 8 == sp / 16 % 8 && decide (src < dst + dl) && decide (dst < src + sl) && !(opc == 0 && src == dst))

/-- COLL (R336, R338). -/
def execColl (un : CUnit) (h : Hdr) (k : BitVec 4) (a : BitVec 5) (p : BitVec 2) (d : BitVec 1) (q : BitVec 4)
    (c : BitVec 1) (s : State) : Out :=
  s.whenOn h fun s =>
    s.packet un h k (s.me.s a.toNat) (fun _ => 0) fun pk s =>
      if s.chFull 5 then s.hold 7
      else
        let pred := if c = 1 then s.me.k q.toNat else 0
        let lvl := leAt pk 2 1
        let n := perInstance s.myGang.levels lvl
        let hs := s.me.halves h.land.toNat
        let hod := leAt pk 7 1
        let wrong := collBad pk s.strand.nlev n
        let bad := if s.predBad pred then 6 else if wrong then 1
          else if 32 ≤ hod && !s.hodAdmits s.focus (hod % 32) s.focus s.cx then 7 else 0
        let w := tyWidth (leAt pk 3 1 % 8) / 8
        let dl := (if leAt pk 1 1 = 2 ∨ leAt pk 1 1 = 4 then n else 1) * leAt pk 24 4 * w
        let dst := leAt pk 16 8
        let hit := !wrong && leAt pk 6 1 / 16 % 8 == 1
          && inHalves hs (fun lo hi => decide (dst < hi) && decide (lo < dst + dl))
        let nth := Tbl.get 0 s.me.colls lvl + 1
        let o : ChildOp := {
          token := 0, ch := 5, cx := s.cx, kind := .coll, pri := p.toNat, packet := pk, pred := pred,
          bad := bad, badAddr := (if bad = 7 then BitVec.ofNat 64 dst else 0), level := lvl, nth := nth, halves := hs,
          due := s.dueOf h.land.toNat hit }
        let s' := s.setMe { s.me with colls := Tbl.set 0 s.me.colls lvl nth }
        s.dest (keyK k.toNat) h.land.toNat (decide (0 < h.land.toNat)) fun _ => s'.escape.createOp h k (d == 1) o

/-- RSTRP (R339). -/
def execRstrp (un : CUnit) (h : Hdr) (k : BitVec 4) (a : BitVec 5) (p : BitVec 2) (d : BitVec 1) (q : BitVec 4)
    (c : BitVec 1) (s : State) : Out :=
  s.whenOn h fun s =>
    s.packet un h k (s.me.s a.toNat) (fun _ => 0) fun pk s =>
      if s.chFull 6 then s.hold 7
      else
        let pred := if c = 1 then s.me.k q.toNat else 0
        let bad := if s.predBad pred then 6
          else if leAt pk 0 1 != 4 || decide (15 < leAt pk 1 1) || leAt pk 2 6 != 0 || leAt pk 16 48 != 0 then 1 else 0
        s.escape.createOp h k (d == 1)
          { token := 0, ch := 6, cx := s.cx, kind := .rstrp, pri := p.toNat, packet := pk, pred := pred, bad := bad }

/-- The crypto packet breaks a rule of R340, but for its key slot, which is judged as the operation runs. -/
def crypBad (pk : List Byte) : Bool :=
  let opc := leAt pk 1 1
  let sp := leAt pk 3 1
  leAt pk 0 1 != 5 || decide (2 < opc) || decide (63 < leAt pk 2 1) || (opc == 2 && leAt pk 2 1 != 0)
    || !(sp == 0 || sp == 1 || sp == 16 || sp == 17) || (opc != 2 && decide (leAt pk 4 4 % 64 ≠ 0))
    || decide (leAt pk 16 8 % 64 ≠ 0) || leAt pk 32 32 != 0

/-- CRYP (R340): an illegal instruction but on a control core (R69, R325). -/
def execCryp (un : CUnit) (h : Hdr) (k : BitVec 4) (a : BitVec 5) (p : BitVec 2) (d : BitVec 1) (q : BitVec 4)
    (c : BitVec 1) (s : State) : Out :=
  if !isControl s.focus then s.raise 1 1 (cnum un) (s.slotWord (cnum un))
  else s.whenOn h fun s =>
    s.packet un h k (s.me.s a.toNat) (fun _ => 0) fun pk s =>
      if s.chFull 7 then s.hold 7
      else
        let pred := if c = 1 then s.me.k q.toNat else 0
        let wrong := crypBad pk
        let bad := if s.predBad pred then 6 else if wrong then 1 else 0
        let hs := s.me.halves h.land.toNat
        let dst := leAt pk 16 8
        let len := if leAt pk 1 1 = 2 then 64 else leAt pk 4 4
        let hit := !wrong && leAt pk 3 1 / 16 == 1 && inHalves hs (fun lo hi => decide (dst < hi) && decide (lo < dst + len))
        s.escape.createOp h k (d == 1)
          { token := 0, ch := 7, cx := s.cx, kind := .cryp, pri := p.toNat, packet := pk, pred := pred, bad := bad,
            halves := hs, due := s.dueOf h.land.toNat hit }

/-- KJOIN (R289, R341). -/
def execKjoin (un : CUnit) (h : Hdr) (k : BitVec 4) (a : BitVec 5) (p : BitVec 2) (d : BitVec 1) (q : BitVec 4)
    (c : BitVec 1) (s : State) : Out :=
  s.whenOn h fun s =>
    let v := (s.me.s a.toNat).toNat
    let ch := v / 256 % 8
    let pred := if c = 1 then s.me.k q.toNat else 0
    let wrong := 2 ^ 11 ≤ v ∨ v % 256 = 0 ∨ (ch = 7 ∧ !isControl s.focus)
    if !decide wrong && s.chFull ch then s.hold 7
    else s.dest (keyK k.toNat) h.land.toNat (decide (0 < h.land.toNat)) fun s =>
      if wrong then s.raise 6 7 (cnum un) 0
      else s.createOp h k (d == 1)
        { token := 0, ch := ch, cx := s.cx, kind := .kjoin, pri := p.toNat, pred := pred, mask := v % 256,
          bad := if s.predBad pred then 6 else 0 }

end Sys2Proof.Machine
end

