-- ==== Sys2Proof/Machine/Engines.lean ====
section
/-! DEFINITION. The engines that run child operations: starting an operation, one granted line of a copy, one step of a
collective, one line of a re-stripe, a crypto operation, a join (14 R302 to R309, 15 R329 to R341, 10 R224 to R226,
R244). -/

namespace Sys2Proof.Machine

/-! ### Moving bytes (R217, R224, R330, R412, R415, R420, R426) -/

/-- Who moves bytes: a core's context with the halves bound at issue, or a queue engine (`core` none), which works
through its tenant's page table; `deps` are the writes that a doorbell it rings comes after (R416). -/
structure Mover where
  core   : Option Nat
  cx     : CtxId
  gang   : Nat
  tile   : Nat
  ten    : Option Nat
  halves : List Half
  fmap   : Tbl (BitVec 16)
  deps   : List (Nat × Nat)
deriving DecidableEq, Repr

/-- The mover of an operation of a core. -/
def State.moverOf (s : State) (c : Nat) (o : ChildOp) : Mover :=
  { core := some c, cx := o.cx, gang := o.gang, tile := s.tokenTile c,
    ten := if isControl c then none else some (s.gang o.gang).ten,
    halves := o.halves, fmap := (s.gang o.gang).fmap, deps := o.seen }

/-- A transfer's outcome: a cause of R306 with the address, or the bytes. -/
abbrev Moved (α : Type) := Except (Nat × Nat) α

/-- Bytes that a transfer has read, with the stamps of the global writes it found them in (R271). -/
abbrev Got := Nat × List (Nat × Nat)

/-- Translation for a mover (R232, R352): the cause, or physical address and placement. An entry that breaks the layout, met by
a walk that no strand's XLAT made, leaves no record of kind 5: the record of R418 names a die, a tile and a context, which such
a walk has not (DESIGN CHOICE, log entry 138). -/
def State.translateM (s : State) (m : Mover) (v need : Nat) : Moved (Nat × BitVec 32) :=
  match m.core with
  | some c =>
    match s.translate c m.cx v need with
    | .ok p => .ok p
    | .error code => .error (if code = 5 then 3 else 2, v)
  | none =>
    if 2 ^ 48 ≤ v then .error (2, v)
    else match s.walk (m.ten.getD 0) v with
    | .leaf base _ pa perm plc => if permOk perm need then .ok (pa + (v - base), BitVec.ofNat 32 plc) else .error (3, v)
    | _ => .error (2, v)

/-- The physical offset of an own-tessera byte, or PERM in a region's upper range (R224, R225). -/
def Mover.phys (m : Mover) (dst : Bool) (a : Nat) : Option Nat :=
  match m.halves.find? (fun h => decide (h.base ≤ a) && decide (a < h.base + 2 * h.size)) with
  | none => some a
  | some h => if a < h.base + h.size then some (if (if dst then h.dst else h.src) then a + h.size else a) else none

/-- The physical offsets of `n` own-tessera bytes, or PERM where one lies in a region's upper range (R223 to R225). -/
def Mover.physBytes (m : Mover) (dst : Bool) (a n : Nat) : Option (List Nat) :=
  (List.range n).foldr (fun i acc => match m.phys dst (a + i), acc with
    | some p, some l => some (p :: l)
    | _, _ => none) (some [])

/-- The number that bytes at offsets of a memory make. -/
def numAt (m : Mem) (ps : List Nat) : Nat := ps.foldr (fun p v => (Mem.byte m p).toNat + 256 * v) 0

/-- The tenant's host window check of R420: 0 allowed, or the cause. -/
def State.window (s : State) (ten : Option Nat) (a n : Nat) (write : Bool) : Nat :=
  match ten with
  | none => 2
  | some t =>
    let inside := (s.tenant t).wins.filter (fun w => decide (w.1 ≤ a) && decide (a + n ≤ w.1 + w.2.1))
    if inside.isEmpty then 2 else if inside.any (fun w => if write then w.2.2.2 else w.2.2.1) then 0 else 3

/-- Some Vafort port is up: with none, no route is left (R411). -/
def State.linked (s : State) : Bool := (List.range 16).any (fun p => (Tbl.get ({} : Port) s.ports p).up)

/-- The node a peer address names, when it can be reached and holds a part of the gang (R411, R412); a device reaches
itself by its own node. -/
def State.peerOf (s : State) (m : Mover) (a : Nat) : Option Nat :=
  let node := Tbl.get (0xFFFF : BitVec 16) m.fmap (a / 2 ^ 48 % 4096)
  let p := Tbl.get ({} : Peer) s.peers node.toNat
  if node = 0xFFFF ∨ s.nodeId = 0xFFFF then none
  else if node = s.nodeId then some node.toNat
  else if s.linked && p.up && p.parts.contains ((m.ten.getD 0), (s.gang m.gang).recVa.toNat, (s.gang m.gang).nth) then some node.toNat
  else none

/-- A peer address on its device: the cause, or node, physical address and placement word (R412). -/
def State.peerAt (s : State) (m : Mover) (a need : Nat) : Moved (Nat × Nat × Nat) :=
  let v := a % 2 ^ 48
  if 2 ^ 60 ≤ a then .error (2, a)
  else match s.peerOf m a with
    | none => .error (8, a)
    | some node =>
      let ten := m.ten.getD 0
      let p := Tbl.get ({} : Peer) s.peers node
      let w := if node = s.nodeId.toNat then s.walk ten v
        else walkFrom p.mem (fun _ => true) (fun _ _ _ => true) ten v 4 0 (Tbl.get 0 p.ptb ten)
      match w with
      | .leaf base _ pa perm plc => if permOk perm need then .ok (node, pa + (v - base), plc) else .error (3, a)
      | _ => .error (2, a)

/-- What comes before the writes that `n` bytes of a line, from byte `o` on, show to a mover (R271). -/
def Mover.before (m : Mover) (l : Shown) (o n : Nat) : List (Nat × Nat) :=
  carried ((List.range ((o + n + 7) / 8 - o / 8)).flatMap (fun i => Tbl.get [] l.rels (o / 8 + i))) m.gang m.tile

/-- What comes before the writes that tessera bytes of a core show to a mover (R271). -/
def State.tessBefore (s : State) (m : Mover) (c : Nat) (offs : List Nat) : List (Nat × Nat) :=
  if s.rel.isEmpty then [] else carried ((tessKeys c offs).flatMap s.relAt) m.gang m.tile

/-- `n` bytes inside one 64-byte line of a space are read. -/
def State.readChunk (s : State) (m : Mover) (sp a n : Nat) : State × Moved Got :=
  let c := m.core.getD 0
  match sp with
  | 0 =>
    match s.translateM m a 1 with
    | .error e => (s, .error e)
    | .ok (pa, plc) =>
      if isBell pa then (s, .ok (0, []))
      else
        let die := dieOf c
        let cached := m.core.isSome && decide (die < 8)
        if !s.serves m.ten pa plc then (s.logErr 0 1 0 0 pa, .error (3, a))
        else
          let (s, v) := if cached then s.dieRead die m.gang m.tile m.ten (pa / 64) plc [] else s.homeReadW 8 m.ten (pa / 64) plc
          match v with
          | none => (s, .error (4, a))
          | some l => (s, .ok (l.data / 256 ^ (pa % 64) % 256 ^ n, l.stamps ++ m.before l (pa % 64) n))
  | 1 =>
    if Config.tessSize < a + n ∨ m.core.isNone then (s, .error (2, a))
    else match m.physBytes false a n with
      | none => (s, .error (3, a))
      | some ps =>
        let (s, bad) := ((ps.map (· / 64)).dedup).foldl (fun (acc : State × Bool) l =>
          let (s, bad, _) := acc.1.readTessLine c l
          (s, acc.2 || bad)) (s, false)
        if bad then (s, .error (4, a)) else (s, .ok (numAt (s.core c).tess ps, s.tessBefore m c ps))
  | 2 =>
    match s.remote m.gang a n with
    | none => (s, .error (2, a))
    | some (d, p) =>
      let (s, bad, _) := s.readTessLine d (p / 64)
      if bad then (s, .error (4, a)) else (s, .ok (Mem.read (s.core d).tess p n, s.tessBefore m d ((List.range n).map (p + ·))))
  | 3 =>
    if Config.acmSize < a + n ∨ m.core.isNone then (s, .error (2, a))
    else match s.readSram c 1 [a / 64] with
      | (s, true) => (s.sramUe c 1 0 0, .error (4, a))
      | (s, false) => (s, .ok (Mem.read (s.core c).acm a n, []))
  | 4 =>
    match s.window m.ten a n false with
    | 0 => (s, .ok (Mem.read s.hostMem a n, []))
    | e => (s, .error (e, a))
  | 6 =>
    match s.peerAt m a 1 with
    | .error e => (s, .error e)
    | .ok (node, pa, plc) =>
      if isBell pa then (s, .ok (0, []))
      else if node = s.nodeId.toNat then
        let (s, v) := s.homeReadW 9 m.ten (pa / 64) (BitVec.ofNat 32 plc)
        match v with
        | none => (s, .error (4, a))
        | some l => (s, .ok (l.data / 256 ^ (pa % 64) % 256 ^ n, l.stamps))
      else (s, .ok (Mem.read (Tbl.get ({} : Peer) s.peers node).mem pa n, []))
  | _ => (s, .error (1, a))

/-- `n` bytes of a space from any address, line by line (R330); `fuel` bounds the lines. -/
def State.readBytes (s : State) (m : Mover) (sp : Nat) : Nat → Nat → Nat → State × Moved Got
  | 0, _, _ => (s, .ok (0, []))
  | fuel + 1, a, n =>
    if n = 0 then (s, .ok (0, []))
    else
      let k := min n (64 - a % 64)
      let (s, v) := s.readChunk m sp a k
      match v with
      | .error e => (s, .error e)
      | .ok x =>
        let (s, w) := s.readBytes m sp fuel ((a + k) % 2 ^ 64) (n - k)
        match w with
        | .error e => (s, .error e)
        | .ok y => (s, .ok (x.1 + 256 ^ k * y.1, x.2 ++ y.2))

/-- A line of 64 bytes is written to a space; the stamp of a global write comes back (R330, R413, R415, R426). -/
def State.writeLine (s : State) (m : Mover) (sp a v : Nat) : State × Moved (Nat × Nat) :=
  let c := m.core.getD 0
  match sp with
  | 0 =>
    match s.translateM m a 2 with
    | .error e => (s, .error e)
    | .ok (pa, plc) =>
      if isBell pa then
        (if m.core.isSome then s.ring m.gang (bellLine pa) (v % 2 ^ 64) false m.deps else s, .ok (0, 0))
      else if !s.serves m.ten pa plc then (s.logErr 0 1 0 0 pa, .error (3, a))
      else
        let comp := if m.core.isSome then dieOf c else 8
        let (s, w) := s.homeWrite comp m.ten (pa / 64) plc (2 ^ 64 - 1) v [] true []
        (s, .ok w)
  | 1 =>
    if Config.tessSize < a + 64 ∨ m.core.isNone then (s, .error (2, a))
    else match m.phys true a with
      | some p => (s.writeTess c p 64 v, .ok (0, 0))
      | none => (s, .error (3, a))
  | 2 =>
    match s.remote m.gang a 64 with
    | none => (s, .error (2, a))
    | some (d, p) => (s.writeTess d p 64 v, .ok (0, 0))
  | 3 =>
    if Config.acmSize < a + 64 ∨ m.core.isNone then (s, .error (2, a))
    else
      let k := s.core c
      let k := { k with soft := k.soft.filter (· != (1, a / 64)), ce := k.ce.filter (· != (1, a / 64)) }
      (s.setCore c { k with acm := Mem.write k.acm a 64 v, badAcm := k.badAcm.filter (· != a / 64) }, .ok (0, 0))
  | 4 =>
    match s.window m.ten a 64 true with
    | 0 => ({ s with hostMem := Mem.write s.hostMem a 64 v }, .ok (0, 0))
    | e => (s, .error (e, a))
  | 5 =>
    if Config.lintelSize < a + 64 ∨ m.core.isNone then (s, .error (2, a))
    else
      let k := s.core c
      let k := { k with soft := k.soft.filter (· != (2, a / 64)), ce := k.ce.filter (· != (2, a / 64)) }
      (s.setCore c { k with lintel := Mem.write k.lintel a 64 v, badLintel := k.badLintel.filter (· != a / 64) }, .ok (0, 0))
  | 6 =>
    match s.peerAt m a 2 with
    | .error e => (s, .error e)
    | .ok (node, pa, plc) =>
      if node = s.nodeId.toNat then
        if isBell pa then (s.ring m.gang (bellLine pa) (v % 2 ^ 64) false m.deps, .ok (0, 0))
        else
          -- R413: the target's fabric-ingress component stamps the write
          let (s, w) := s.homeWrite 9 m.ten (pa / 64) (BitVec.ofNat 32 plc) (2 ^ 64 - 1) v [] true []
          (s, .ok w)
      else
      let p := Tbl.get ({} : Peer) s.peers node
      let p := if isBell pa then { p with bells := p.bells ++ [(bellLine pa, v % 2 ^ 16)] }
        else { p with mem := Mem.write p.mem pa 64 v }
      ({ s with peers := Tbl.set {} s.peers node p }, .ok (0, 0))
  | _ => (s, .error (1, a))

/-! ### One line of a copy (R305, R329 to R335, R225, R226) -/

/-- The running checksum over one line (R335). -/
def ckLine (ckm run line : Nat) : Nat :=
  match ckm with
  | 1 => ((List.range 64).foldl (fun c i => crcByte c (line / 256 ^ i % 256)) (run ^^^ 0xFFFFFFFF)) ^^^ 0xFFFFFFFF
  | 2 =>
    let r := (List.range 32).foldl (fun (ab : Nat × Nat) i =>
      let a := (ab.1 + line / 65536 ^ i % 65536) % 65535
      (a, (ab.2 + a) % 65535)) (run % 65536, run / 65536)
    r.2 * 65536 + r.1
  | _ => 0

/-- A line's bytes converted (R331): `n` elements from width `wf` to width `wt` bytes. -/
def convLine (p : CopyP) (v : Nat) : Nat :=
  if p.cv then
    (List.range (64 / p.wt)).foldr (fun i acc =>
      cvtEl p.sat rne p.toF p.fromF (v / 256 ^ (i * p.wf) % 256 ^ p.wf) % 256 ^ p.wt + 256 ^ p.wt * acc) 0
  else v

/-- A line swizzled for a dimension-2 index: chunk c goes to chunk c XOR (i2 mod 8) (R332). -/
def swizzle (i2 v : Nat) : Nat :=
  (List.range 8).foldl (fun acc c => acc + v / 2 ^ (64 * c) % 2 ^ 64 * 2 ^ (64 * (c ^^^ (i2 % 8)))) 0

/-- A line written to the targets of a copy, until one fails (R333). -/
def State.writeTargets (s : State) (m : Mover) (sp v : Nat) : List Nat → State × Moved (List (Nat × Nat))
  | [] => (s, .ok [])
  | a :: r =>
    let (s, w) := s.writeLine m sp a v
    match w with
    | .error e => (s, .error e)
    | .ok x =>
      let (s, y) := s.writeTargets m sp v r
      match y with
      | .error e => (s, .error e)
      | .ok l => (s, .ok (x :: l))

/-- A line of 64 undefined bytes: the line at LINES of a faulted operation (R305, log entry 2). -/
def freeLine (n : Nat) : Nat := (List.range 64).foldr (fun i acc => (Config.freeByte (n + i)).toNat + 256 * acc) 0

/-- The lines at `targets` become undefined, where they can be written at all (R305). -/
def State.spoil (s : State) (m : Mover) (sp : Nat) (targets : List Nat) : State :=
  targets.foldl (fun (s : State) a => (s.writeLine m sp a (freeLine s.freeN)).1) { s with freeN := s.freeN + 64 }

/-- 64 bytes have landed for a BYTES hod of each core (R317). -/
def State.landBytes (s : State) (i : Nat) (deps : List (Nat × Nat)) (cores : List Nat) : State :=
  cores.foldl (fun (s : State) d =>
    let h := (s.core d).hod i
    if h.en && h.mode then s.setCore d ((s.core d).setHod i { (h.arrive 64) with seen := (h.seen ++ deps).dedup }) else s) s

/-- Whole slots of a hod that a set of tessera lines covers (R316). -/
def slotsCovered (h : Hod) (covers : Nat → Bool) : Nat :=
  ((List.range h.nslot.toNat).filter (fun j =>
    (List.range h.ssz.toNat).all (fun i => covers (h.base.toNat / 64 + h.ssz.toNat * j + i)))).length

/-- An operation has landed whole for a SLOTS hod of each core, with the tessera lines that it wrote there (R316). -/
def State.landSlots (s : State) (i : Nat) (deps : List (Nat × Nat)) (cores : List Nat) (covers : Nat → Nat → Bool) : State :=
  cores.foldl (fun (s : State) d =>
    let h := (s.core d).hod i
    if h.en && !h.mode then
      s.setCore d ((s.core d).setHod i { (h.advW (slotsCovered h (covers d))) with seen := (h.seen ++ deps).dedup })
    else s) s

/-- The fill record of a refetchable half after operation `o` has written a line of it (R226): `line` is the physical
line, and `old` the regions as they stood before the write. -/
def Ctx.noteFill (x : Ctx) (old : Tbl Pair) (o : ChildOp) (fromGlobal : Bool) (line : Nat) : Ctx :=
  match o.halves.find? (fun h =>
    let lo := if h.dst then h.base + h.size else h.base
    decide (lo ≤ 64 * line) && decide (64 * line < lo + h.size)) with
  | none => x
  | some h =>
    let p := Tbl.get {} old h.idx
    if !(p.en && p.ref && p.born == h.born && p.base == h.base) then x
    else
      let lo := if h.dst then h.base + h.size else h.base
      let n := (64 * line - lo) / 64
      let was := if h.dst then p.fill1 else p.fill0
      let one : Fill := { pkt := o.packet, fromF := o.fromF, toF := o.toF, first := n, count := 1, got := 2 ^ n, order := o.order }
      let f := if !fromGlobal then was else match was with
        | some f =>
          if f.order = o.order then
            let a := min f.first n
            some { f with first := a, count := max (f.first + f.count) (n + 1) - a, got := f.got ||| 2 ^ n }
          else some one
        | none => some one
      let whole := match f with
        | some f => fromGlobal && f.got == 2 ^ (h.size / 64) - 1
        | none => false
      let p := if h.dst then { p with fill1 := f, dirty1 := if fromGlobal then p.dirty1 && !whole else true }
        else { p with fill0 := f, dirty0 := if fromGlobal then p.dirty0 && !whole else true }
      { x with pairs := Tbl.set {} x.pairs h.idx p }

/-- Operation `o` of a core has written its own tessera at `a`, after regions that stood as `old` (R226). -/
def State.filled (s : State) (c : Nat) (o : ChildOp) (old : Tbl Pair) (fromGlobal : Bool) (a : Nat) : State :=
  let line := ((s.moverOf c o).phys true a).getD a / 64
  let x := (s.ctxAt c o.cx).noteFill old o fromGlobal line
  -- a line of a hidden half that the phase's own operation writes is one that the phase wrote (R397)
  s.setCtxAt c o.cx (if x.phase0 ≤ o.bundle then x.wrote [line] else x)

/-- An operation has made stamped writes, or found its bytes in them (R290). -/
def State.opNote (s : State) (o : ChildOp) (ws : List (Nat × Nat)) : ChildOp :=
  { o with seen := s.prune (o.seen ++ ws.filter (fun w => decide (w.2 ≠ 0))) }

/-- The own-tessera line that a copy's destination address names, or the core and line of a remote one. -/
def State.landsOn (s : State) (m : Mover) (c dsp a : Nat) : Option (Nat × Nat) :=
  if dsp = 1 then some (c, (m.phys true a).getD a / 64)
  else if dsp = 2 then (s.remote m.gang a 64).map (fun e => (e.1, e.2 / 64))
  else none

/-- A copy into host memory tells the host of its end, once its last line is accepted there, whatever its checksum (R335,
R420). -/
def State.tellHost (s : State) (dsp ten : Nat) (token : Word64) : State :=
  if dsp = 4 then
    { s with replies := s.replies ++ [{ type := 0x86, ten := ten, tag := BitVec.ofNat 32 (s.tenant ten).hvec, a0 := token }] }
  else s

/-- A copy reaches its end: the host is told, the checksum is judged, its slots land (R316, R335, R420). Only an operation
that ends DONE lands slots: one that is cancelled or faulted has not been completed by R316's words (DESIGN CHOICE). -/
def State.copyEnd (s : State) (c : Nat) (o : ChildOp) (p : CopyP) : State :=
  let s := s.tellHost p.dsp (s.gang o.gang).ten o.token
  if p.chk && o.runck.toNat != p.expck then s.endOp c o 6 5 (BitVec.ofNat 64 p.dst)
  else
    let s := if p.hoden then
        let hit := p.places.filterMap (s.landsOn (s.moverOf c o) c p.dsp)
        s.landSlots p.hod o.seen ((s.hodCores c o.gang p.dsp p.places).dedup) (fun d l => hit.contains (d, l))
      else s
    s.endOp c o 4 0 0

/-- Line `n` of a copy moves: read, converted, swizzled and written to every target; the converted line and the stamps it
has read or made, or the fault, which leaves the line at LINES undefined (R305, R329 to R333). -/
def State.moveLine (s : State) (m : Mover) (p : CopyP) (n : Nat) : State × Moved (Nat × List (Nat × Nat)) :=
  let (sa, sl, da, i2) := p.line n
  let (s, v) := s.readBytes m p.ssp 9 sa sl
  match v with
  | .error e => (s.spoil m p.dsp (p.targets da), .error e)
  | .ok x =>
    let y := convLine p x.1
    let z := if p.swz then swizzle i2 y else y
    let (s, w) := s.writeTargets m p.dsp z (p.targets da)
    match w with
    | .error e => (s.spoil m p.dsp (p.targets da), .error e)
    | .ok ws => (s, .ok (y, x.2 ++ ws))

/-- One granted line of a running copy: cancelled or suspended at the boundary, or moved (R302, R304, R309, R330). -/
def State.copyLine (s : State) (c : Nat) (o : ChildOp) : State :=
  let p := copyP o.packet o.fromF o.toF
  if o.cancel then s.endOp c o 5 0 0
  else if o.suspend then s.setCore c ((s.core c).setOp { o with state := 3, suspend := false })
  else
    let old := (s.ctxAt c o.cx).pairs
    let da := (p.line o.lines).2.2.1
    let (s, w) := s.moveLine (s.moverOf c o) p o.lines
    match w with
    | .error (cause, a) => s.endOp c o 6 cause (BitVec.ofNat 64 a)
    | .ok (y, ws) =>
      let o := s.opNote { o with lines := o.lines + 1, runck := BitVec.ofNat 32 (ckLine p.ckm o.runck.toNat y) } ws
      let s := s.setCore c ((s.core c).setOp o)
      let s := if p.dsp = 1 then s.filled c o old (p.ssp == 0) da else s
      let s := if p.hoden then s.landBytes p.hod o.seen (s.hodCores c o.gang p.dsp (p.targets da)) else s
      if p.total ≤ o.lines then s.copyEnd c o p else s

/-! ### Starting an operation (R302, R305, R307, R288) -/

/-- The operation's earlier stores and atomics have performed (R288). -/
def Core.startable (k : Core) (o : ChildOp) : Bool :=
  !k.accs.any (fun a => a.cx == o.cx && (a.op.isStore || a.op.isAtomic) && decide (a.bundle < o.bundle))
    && !k.delayed.any (fun d => d.cx == o.cx && d.store && decide (d.bundle < o.bundle))

/-- The operations of a gang move only while it runs; those of the runtime queue, and of the control complex, belong to
none (R313). -/
def State.opsRun (s : State) (o : ChildOp) : Bool := o.owner == 2 || o.gang == 0 || (s.gang o.gang).state == 3

/-- The writes that come before an operation: its context's, its predecessor's, and those of its channel's earlier
operations, retired ones among them (R288 to R290, R307). -/
def State.opDeps (s : State) (c : Nat) (o : ChildOp) : List (Nat × Nat) :=
  let k := s.core c
  let x := k.ctx o.cx
  let pred := match s.tokIssued c o.gang o.pred with
    | none => []
    | some d => s.tokWrites d o.pred
  s.prune (x.known ++ pred ++ k.cb0.retired ++ k.cb1.retired ++ k.svc.retired
    ++ (k.ops.filter (fun q => q.ch == o.ch && decide (q.order < o.order))).flatMap (·.seen))

/-- Every locked and dynamic entry of a tenant that maps the page has its placement word changed, those of cores whose
gang is pre-empted among them (R244). -/
def State.replace (s : State) (ten page size : Nat) (f : Nat → Nat) : State :=
  let inPage := fun (pa : Nat) => decide (page ≤ pa) && decide (pa < page + size)
  let newPlc := fun (w : BitVec 32) => BitVec.ofNat 32 (f w.toNat)
  let its := fun (x : Ctx) => decide ((s.gang x.gang).ten = ten) && decide (x.gang ≠ 0)
  let ctx := fun (x : Ctx) =>
    if its x then
      { x with dyn := Tbl.mapVals {} (fun (d : Dyn) => if d.v && inPage d.pa then { d with plc := newPlc d.plc } else d) x.dyn }
    else x
  let entry := fun (e : Ltt) =>
    if e.w0.getLsbD 0 && inPage (e.w0.toNat / 2 ^ 16 % 2 ^ 24 * 2 ^ 16) then { e with w1 := BitVec.ofNat 64 (f e.w1.toNat) } else e
  let core := fun (k : Core) =>
    { k with cb0 := ctx k.cb0, cb1 := ctx k.cb1, ltt := if its k.cb0 || its k.cb1 then Tbl.mapVals {} entry k.ltt else k.ltt }
  { s with cores := Tbl.mapVals {} core s.cores,
           gangs := s.gangs.map (fun (e : Nat × Gang) =>
             if e.2.saves.isEmpty then e
             else
               let image := fun (i : SaveImage) => if e.2.ten = ten then { i with ltt := Tbl.mapVals {} entry i.ltt } else i
               (e.1, { e.2 with saves := Tbl.mapVals {} core e.2.saves, area := Tbl.mapVals {} image e.2.area })) }

/-- The tenant of a gang's page; the control complex names a tenant's page by where it lies. -/
def State.pageTenant (s : State) (g page : Nat) : Nat :=
  if g ≠ 0 then (s.gang g).ten else ((s.tenants.find? (fun e => s.ownsFrame e.1 page)).map (·.1)).getD 0

/-- A page's re-stripe begins: its entries show MIG (R244 step 1). -/
def State.stripeBegin (s : State) (ten : Nat) (t : Stripe) : State :=
  let s := s.replace ten t.page t.size (fun w => w % 2 ^ 14 + 2 ^ 14)
  { s with stripes := s.stripes ++ [t] }

/-- A page's re-stripe is over: its frames have the new geometry, and its entries show it (R244 step 5). -/
def State.stripeEnd (s : State) (ten : Nat) (t : Stripe) : State :=
  let frames := (List.range (t.size / 65536)).map (· + t.page / 65536)
  let s := { s with stripes := s.stripes.filter (fun u => decide (u.page ≠ t.page)),
                    frameGeo := frames.foldl (fun f n => Tbl.set 0 f n (t.geo + 1)) s.frameGeo }
  s.replace ten t.page t.size (fun w => w / 16 * 16 % 2 ^ 14 + t.geo)

/-- What a re-stripe of a page finds as it starts (R339): a cause of R306, that it waits for another of the same page,
that the page has the geometry already, or the page with its size. -/
inductive StripeStart where
  | fails (cause : Nat)
  | waits
  | same
  | begins (page size : Nat)
deriving DecidableEq, Repr

/-- A re-stripe packet's page for a mover (R244, R339). -/
def State.stripeStart (s : State) (m : Mover) (pk : List Byte) : StripeStart :=
  let va := leAt pk 8 8
  let geo := leAt pk 1 1
  match s.translateM m va 2 with
  | .error (cause, _) => .fails cause
  | .ok (pa, plc) =>
    let size := pageBytes (plcPs plc)
    if va % size ≠ 0 ∨ !(s.geotAt geo).getLsbD 32 then .fails 1
    else if s.stripes.any (fun t => decide (t.page = pa)) then .waits
    else if s.geoAt (pa / 65536) = geo then .same
    else .begins pa size

/-- A re-stripe starts (R244 step 1, R339). -/
def State.startStripe (s : State) (c : Nat) (o : ChildOp) : State :=
  match s.stripeStart (s.moverOf c o) o.packet with
  | .fails cause => s.endOp c o 6 cause (BitVec.ofNat 64 (leAt o.packet 8 8))
  | .waits => s
  | .same => s.endOp c o 4 0 0
  | .begins page size =>
    let t : Stripe := { page := page, size := size, geo := leAt o.packet 1 1, done := 0, owner := o.gang, token := o.token }
    let s := s.stripeBegin (s.pageTenant o.gang page) t
    s.setCore c ((s.core c).setOp { o with state := 2 })

/-- The running checksum an operation starts from (R307, R335). -/
def State.chainSeed (s : State) (c : Nat) (o : ChildOp) : BitVec 32 :=
  match s.tokIssued c o.gang o.pred with
  | none => 0
  | some d => (((s.core d).opOf o.pred).map (·.runck)).getD 0

/-- The matrix routine's state as it begins (R188). -/
def ChildOp.routine (o : ChildOp) : Routine := { run := true, q := o.q, word := o.start }

/-- The first address of a copy's lines that breaks R218: sources, then targets (log entry 104). -/
def State.remoteBad (s : State) (g : Nat) (p : CopyP) : Option Nat :=
  let bad := fun (a n : Nat) => (s.remote g a n).isNone
  let src := if p.ssp = 2 then
      ((List.range p.total).find? (fun n => bad (p.line n).1 (p.line n).2.1)).map (fun n => (p.line n).1) else none
  match src with
  | some a => some a
  | none => if p.dsp = 2 then p.places.find? (fun a => bad a 64) else none

/-- What stops an operation at its start, before any byte moves: a fault recorded at issue, a remote address that breaks
R218, or a hod that no longer admits it (R302, R318): the cause and ADDR. Where no line faults R305 gives ADDR no value: the
model has the bad address where one address is at fault, DST for a hod's scope, and 0 otherwise (DESIGN CHOICE, log entry
139). -/
def State.startFault (s : State) (c : Nat) (o : ChildOp) : Option (Nat × Word64) :=
  if o.bad ≠ 0 then some (o.bad, o.badAddr)
  else match o.kind with
    | .copy =>
      let p := copyP o.packet o.fromF o.toF
      match s.remoteBad o.gang p with
      | some a => some (2, BitVec.ofNat 64 a)
      | none => if s.hodsAdmit c o.cx o.gang p then none else some (7, BitVec.ofNat 64 p.dst)
    | .coll =>
      let hod := leAt o.packet 7 1
      if 32 ≤ hod && !s.hodAdmits c (hod % 32) c o.cx then some (7, BitVec.ofNat 64 (leAt o.packet 16 8)) else none
    | _ => none

/-- A STRL that is not yet to be seen within a scope that the operation is in holds it up, or one that it comes after
(R274). -/
def State.opVeiled (s : State) (c : Nat) (o : ChildOp) : Bool :=
  s.unripe.any (fun u => !s.ripe u && (inScope u.scope u.gang u.tile o.gang (s.ctxAt c o.cx).gtile || o.seen.contains u.stamp))

/-- A queued operation at the head of its channel may go on: its gang runs, its context's earlier stores have performed,
and its predecessor is complete (R288, R307, R313). -/
def State.mayStart (s : State) (c : Nat) (o : ChildOp) : Bool :=
  o.state == 1 && s.opsRun o && (s.core c).startable o && !s.opVeiled c o

/-- An operation's predecessor is complete, or it has none (R307). -/
def State.predDone (s : State) (c : Nat) (o : ChildOp) : Bool :=
  o.pred == 0 || ((s.tokIssued c o.gang o.pred).map (fun d => s.tokComplete d o.pred)).getD true

/-- OP_START (R302): the queued head of a channel is granted, once its predecessor is complete and what it comes after has
performed for every observer (R288 to R290); a fault recorded at issue takes effect here. Not enabled, nothing changes. -/
def execOpStart (core ch : Nat) (s : State) : Out :=
  match (s.core core).headOp ch with
  | none => .next s
  | some o =>
    if o.kind = .kjoin ∨ !s.mayStart core o then .next s
    else if o.bad ≠ 0 then .next (s.endOp core o 6 o.bad o.badAddr)
    else if !s.predDone core o then .next s
    else
      let s := s.bringAll (s.opDeps core o)
      match s.startFault core o with
      | some (cause, a) => .next (s.endOp core o 6 cause a)
      | none =>
        let k := s.core core
        match o.kind with
        | .rstrp => .next (s.startStripe core o)
        | .copy =>
          let p := copyP o.packet o.fromF o.toF
          let seed : BitVec 32 := if p.chain then s.chainSeed core o else 0
          let o1 : ChildOp := { o with state := 2, runck := seed }
          .next (s.setCore core (Core.setOp k o1))
        | .mcall =>
          let o1 : ChildOp := { o with state := 2 }
          let k1 : Core := k.setOp o1
          .next (s.setCore core { k1 with mx := o.routine })
        | _ =>
          let o2 : ChildOp := { o with state := 2 }
          .next (s.setCore core (k.setOp o2))

/-! ### The copy engine's grants (R308, R309) -/

/-- The channel the copy engine grants next, among the running heads of channels 0 to 3 and 6. -/
def Core.nextGrant (k : Core) : Option (Nat × ChildOp) :=
  let heads := [0, 1, 2, 3, 6].filterMap (fun ch =>
    match k.headOp ch with
    | some o => if o.state = 2 ∧ o.kind ≠ .kjoin then some (ch, o) else none
    | none => none)
  let last := fun (ch : Nat) => Tbl.get 0 k.lastGrant ch
  let oldest := fun (l : List (Nat × ChildOp)) =>
    l.foldl (fun (b : Option (Nat × ChildOp)) x => match b with
      | none => some x
      | some y => if last x.1 < last y.1 then some x else some y) none
  if (k.grants + 1) % 16 = 0 then oldest heads
  else
    let top := heads.foldl (fun m x => max m x.2.pri) 0
    oldest (heads.filter (fun x => x.2.pri = top))

/-- A grant is counted (R308). The last grant is a channel's, so that a new head operation inherits its channel's (DESIGN
CHOICE: the rule says least recently granted and names no operation). -/
def Core.granted (k : Core) (ch : Nat) : Core :=
  { (k.count 20 none 1) with grants := k.grants + 1, lastGrant := Tbl.set 0 k.lastGrant ch (k.grants + 1) }

/-- COPY_LINE_GRANT (R308): one line of the copy that the engine grants. -/
def execCopyLineGrant (core : Nat) (s : State) : Out :=
  match (s.core core).nextGrant with
  | none => .next s
  | some (ch, o) =>
    if o.kind = .rstrp ∨ s.opVeiled core o then .next s
    else .next ((s.setCore core ((s.core core).granted ch)).copyLine core o)

/-- RESTRIPE_LINE_MOVE (R244 steps 2 to 5): one line of the re-stripe that the engine grants moves; with the last, the
entries take the new geometry. -/
def execRestripeLineMove (core : Nat) (s : State) : Out :=
  match (s.core core).nextGrant with
  | none => .next s
  | some (ch, o) =>
    if o.kind ≠ .rstrp then .next s
    else
      let s := s.setCore core ((s.core core).granted ch)
      match s.stripes.find? (fun t => t.owner == o.gang && t.token == o.token) with
      | none => .next s
      | some t =>
        if o.suspend then .next (s.setCore core ((s.core core).setOp { o with state := 3, suspend := false }))
        else
          let t' := { t with done := t.done + 1 }
          let o := { o with lines := o.lines + 1 }
          if 64 * t'.done < t.size then
            .next ({ s.setCore core ((s.core core).setOp o) with
              stripes := s.stripes.map (fun u => if u.page = t.page then t' else u) })
          else .next ((s.stripeEnd (s.pageTenant o.gang t.page) t).endOp core o 4 0 0)

/-! ### Collectives (R336 to R338) -/

/-- A member's part of the collective that `o` belongs to: its core and record. -/
def State.partOfColl (s : State) (g : Nat) (o : ChildOp) (sidx : Nat) : Option (Nat × ChildOp) :=
  (s.gang g).place.findSome? (fun e =>
    match e.2 with
    | none => none
    | some c => ((s.core c).ops.find? (fun q => q.kind == .coll && q.sidx == sidx && q.gang == g && q.level == o.level
        && q.nth == o.nth)).map (fun q => (c, q)))

/-- The strands of the instance (R336), ascending. -/
def State.members (s : State) (g : Nat) (o : ChildOp) : List Nat :=
  let n := perInstance (s.gang g).levels o.level
  (List.range n).map (fun i => o.sidx / n * n + i)

/-- The fields that every part must share (R336). -/
def collKey (pk : List Byte) : Nat × Nat × Nat × Nat := (leAt pk 1 1, leAt pk 3 1, leAt pk 4 2, leAt pk 24 4)

/-- One combination of two elements (R337). MAX and MIN of integers compare signed values: the spec says only that integers
wrap (DESIGN CHOICE, log entry 140). -/
def collCombine (ty red a b : Nat) : Nat :=
  let w := tyWidth ty
  if ty ≤ 3 then
    (match red with
      | 0 => (a + b) % 2 ^ w
      | 1 => if asInt w a < asInt w b then b else a
      | _ => if asInt w b < asInt w a then b else a)
  else
    (match red with
      | 0 => (tyFmt ty).sumNum a b
      | 1 => (tyFmt ty).maxNum a b
      | _ => (tyFmt ty).minNum a b)

/-- Lines of a member's destination. -/
def collLines (pk : List Byte) (n : Nat) : Nat :=
  let w := tyWidth (leAt pk 3 1 % 8) / 8
  (if leAt pk 1 1 = 2 ∨ leAt pk 1 1 = 4 then n else 1) * leAt pk 24 4 * w / 64

/-- Where destination line `l` of member `m` comes from: (member, byte offset in its SRC), in member order; a reduction
takes one from each. -/
def collSources (pk : List Byte) (n m l : Nat) : List (Nat × Nat) :=
  let blk := leAt pk 24 4 * (tyWidth (leAt pk 3 1 % 8) / 8)
  match leAt pk 1 1 with
  | 0 => (List.range n).map (fun i => (i, 64 * l))
  | 1 => (List.range n).map (fun i => (i, m * blk + 64 * l))
  | 2 => [(64 * l / blk, 64 * l % blk)]
  | 3 => [(leAt pk 4 2, 64 * l)]
  | _ => [(64 * l / blk, m * blk + 64 * l % blk)]

/-- A member of a collective by its number: its part on this device, or what another device has told of its part (R336,
R414). -/
inductive Member where
  | here (c : Nat) (o : ChildOp)
  | far (f : FarColl)
  | missing
deriving DecidableEq, Repr

/-- The members of the collective that `o` belongs to, by their numbers. -/
def State.collMembers (s : State) (o : ChildOp) : List Member :=
  let g := s.gang o.gang
  (s.members o.gang o).map (fun m =>
    match s.partOfColl o.gang o m with
    | some (c, q) => .here c q
    | none =>
      match s.farColls.find? (fun f => isFabric g.levels && f.ten == g.ten && f.rec_ == g.recVa.toNat && f.nth == g.nth
          && f.sidx == m && f.level == o.level && f.ord == o.nth) with
      | some f => .far f
      | none => .missing)

/-- The parts of a collective on this device, each with its member number. -/
def hereParts (ms : List Member) : List (Nat × Nat × ChildOp) :=
  ms.zipIdx.filterMap (fun e => match e.1 with | .here c o => some (e.2, c, o) | _ => none)

/-- Lines from the members' sources are read, until one fails: the failing member with cause and address, or the lines. -/
def State.collRead (s : State) (ms : List Member) : List (Nat × Nat) → State × Except (Nat × Nat × Nat) (List Got)
  | [] => (s, .ok [])
  | (i, off) :: r =>
    match ms.getD i .missing with
    | .missing => (s, .error (i, 9, 0))
    | .far f =>
      match Tbl.get none f.lines (off / 64) with
      | none => (s, .error (i, 9, 0))
      | some v =>
        let (s, w) := s.collRead ms r
        match w with
        | .error e => (s, .error e)
        | .ok l => (s, .ok ((v, []) :: l))
    | .here c o =>
      let (s, v) := s.readBytes (s.moverOf c o) (leAt o.packet 6 1 % 8) 2 ((leAt o.packet 8 8 + off) % 2 ^ 64) 64
      match v with
      | .error (cause, a) => (s, .error (i, cause, a))
      | .ok x =>
        let (s, w) := s.collRead ms r
        match w with
        | .error e => (s, .error e)
        | .ok l => (s, .ok (x :: l))

/-- The lines of a reduction combined element by element in the fixed tree; a single source passes (R337). -/
def collLine (pk : List Byte) (xs : List Nat) : Nat :=
  let ty := leAt pk 3 1 % 8
  let w := tyWidth ty
  match xs with
  | [x] => x
  | _ => (List.range (512 / w)).foldr (fun k acc =>
      treeFold (collCombine ty (leAt pk 3 1 / 16 % 4)) 0 16 (xs.map (fun x => elAt w x k)) + 2 ^ w * acc) 0

/-- The space and address of destination line `l` of a collective part (R336, R338). -/
def ChildOp.collDst (o : ChildOp) (l : Nat) : Nat × Nat :=
  (leAt o.packet 6 1 / 16 % 8, (leAt o.packet 16 8 + 64 * l) % 2 ^ 64)

/-- A combined line is written to one member's destination, and its record follows (R305, R338). -/
def State.collPut (s : State) (c : Nat) (o : ChildOp) (l v : Nat) (read : List (Nat × Nat)) : State × Moved Unit :=
  let (dsp, dst) := o.collDst l
  let old := (s.ctxAt c o.cx).pairs
  let (s, w) := s.writeLine (s.moverOf c o) dsp dst v
  match w with
  | .error e => (s, .error e)
  | .ok w =>
    let q := s.opNote { (((s.core c).opOf o.token).getD o) with lines := l + 1 } (read ++ [w])
    let s := s.setCore c ((s.core c).setOp q)
    let s := if dsp = 1 then s.filled c o old (leAt o.packet 6 1 % 8 == 0) dst else s
    (if 32 ≤ leAt o.packet 7 1 then s.landBytes (leAt o.packet 7 1 % 32) q.seen [c] else s, .ok ())

/-- Line `l` of every member on this device: all sources are read, then all destinations are written (R336, R338). -/
def State.collMove (s : State) (ms : List Member) (l : Nat) : State × Option (Nat × Nat × Nat) :=
  let n := ms.length
  let read := (hereParts ms).foldl (fun (acc : State × Except (Nat × Nat × Nat) (List Got)) e =>
    match acc with
    | (s, .error e) => (s, .error e)
    | (s, .ok out) =>
      let (s, v) := s.collRead ms (collSources e.2.2.packet n e.1 l)
      match v with
      | .error e => (s, .error e)
      | .ok xs => (s, .ok (out ++ [(collLine e.2.2.packet (xs.map (·.1)), xs.flatMap (·.2))]))) (s, .ok [])
  match read with
  | (s, .error e) => (s, some e)
  | (s, .ok lines) =>
    ((hereParts ms).zip lines).foldl (fun (acc : State × Option (Nat × Nat × Nat)) e =>
      match acc.2 with
      | some _ => acc
      | none =>
        match acc.1.collPut e.1.2.1 e.1.2.2 l e.2.1 e.2.2 with
        | (s, .error (cause, a)) => (s, some (e.1.1, cause, a))
        | (s, .ok _) => (s, none)) (s, none)

/-- Every part of a collective ends in a state. -/
def State.endParts (s : State) (parts : List (Nat × ChildOp)) (state cause : Nat) : State :=
  parts.foldl (fun (s : State) e =>
    match (s.core e.1).opOf e.2.token with
    | none => s
    | some q => if settledCode q.state then s else s.endOp e.1 q state cause 0) s

/-- A running part faults: the line at LINES of its destination becomes undefined (R305). -/
def State.collFault (s : State) (c : Nat) (o : ChildOp) (cause a : Nat) : State :=
  let o := ((s.core c).opOf o.token).getD o
  let (dsp, dst) := o.collDst o.lines
  (s.spoil (s.moverOf c o) dsp [dst]).endOp c o 6 cause (BitVec.ofNat 64 a)

/-- Every part of a collective lands for its hod, and ends DONE (R316, R338). -/
def State.collDone (s : State) (parts : List (Nat × ChildOp)) (total : Nat) : State :=
  parts.foldl (fun (s : State) e =>
    let q := ((s.core e.1).opOf e.2.token).getD e.2
    let hit := ((List.range total).map (fun l => (q.collDst l).2)).filterMap (s.landsOn (s.moverOf e.1 q) e.1 (q.collDst 0).1)
    let s := if 32 ≤ leAt q.packet 7 1 then s.landSlots (leAt q.packet 7 1 % 32) q.seen [e.1] (fun d l => hit.contains (d, l)) else s
    s.endOp e.1 q 4 0 0) s

/-- A member as the state now has it. -/
def State.memberNow (s : State) : Member → Member
  | .here c o => .here c (((s.core c).opOf o.token).getD o)
  | m => m

/-- The lines of the step that a collective stands at (R338). -/
def stepLines (o : ChildOp) (total : Nat) : List Nat :=
  ((List.range 64).map (· + o.lines)).filter (fun l => decide (l < total))

/-- The next 4 KiB of every member on this device moves, with the end after the last (R338). -/
def State.collRun (s : State) (ms : List Member) (o : ChildOp) : State :=
  let total := collLines o.packet ms.length
  let r := (stepLines o total).foldl (fun (acc : State × Option (Nat × Nat × Nat)) l =>
    match acc.2 with
    | some _ => acc
    | none => acc.1.collMove (ms.map acc.1.memberNow) l) (s, none)
  match r.2 with
  | some (i, cause, a) => (match ms.getD i .missing with
      | .here c q => r.1.collFault c q cause a
      | _ => r.1)
  | none => if total ≤ o.lines + 64 then r.1.collDone ((hereParts ms).map (·.2)) total else r.1

/-- The source lines of a step that a member's part on this device owes to the members on others (R336). -/
def owedLines (ms : List Member) (o : ChildOp) (i : Nat) : List Nat :=
  let n := ms.length
  ((ms.zipIdx.filter (fun e => match e.1 with | .here _ _ => false | _ => true)).flatMap (fun e =>
    (stepLines o (collLines o.packet n)).flatMap (fun l =>
      ((collSources o.packet n e.2 l).filter (fun q => q.1 == i)).map (·.2)))).dedup

/-- The other devices learn the packets of this device's parts and the source lines that they need of them for the step;
a source that cannot be read faults its part (R336, R414). -/
def State.collTell (s : State) (ms : List Member) (o : ChildOp) : State :=
  (hereParts ms).foldl (fun (s : State) e =>
    let (i, c, q) := e
    let say := fun (s : State) (m : Nat → Nat → Nat → FlitMsg) => s.tellPeers q.gang m
    let s := say s (fun t r n => .coll t r n q.sidx q.level q.nth q.packet)
    let out := (owedLines ms o i).foldl (fun (acc : State × Option (Nat × Nat)) off =>
      match acc.2 with
      | some _ => acc
      | none =>
        match acc.1.collRead ms [(i, off)] with
        | (s, .error (_, cause, a)) => (s, some (cause, a))
        | (s, .ok xs) => (say s (fun t r n => .collLine t r n q.sidx q.level q.nth off ((xs.map (·.1)).headD 0)), none)) (s, none)
    match out with
    | (s, some (cause, a)) => s.collFault c q cause a
    | (s, none) => s.setCore c ((s.core c).setOp { (((s.core c).opOf q.token).getD q) with told := o.lines / 64 + 1 })) s

/-- Every source line of the step that lies on another device has come. -/
def collHeard (ms : List Member) (o : ChildOp) : Bool :=
  let n := ms.length
  (hereParts ms).all (fun e => (stepLines o (collLines o.packet n)).all (fun l =>
    (collSources o.packet n e.1 l).all (fun q => match ms.getD q.1 .missing with
      | .here _ _ => true
      | .far f => (Tbl.get none f.lines (q.2 / 64)).isSome
      | .missing => false)))

/-- The parts of a collective that run go to SUSPENDED together, at this step boundary (R313, R338). -/
def State.collSuspend (s : State) (parts : List (Nat × ChildOp)) : State :=
  parts.foldl (fun (s : State) e =>
    if e.2.state = 2 then s.setCore e.1 ((s.core e.1).setOp { e.2 with state := 3, suspend := false }) else s) s

/-- A member's part has an end that faults the others: it has halted without issuing its part, or its part has faulted or
is lost with its die (R336, R409). -/
def State.memberGone (s : State) (core g sidx : Nat) : Member → Bool
  | .here d q => q.state == 6 || q.state == 7 || (dieOf d != dieOf core && (s.die (dieOf d)).lost)
  | .far f => f.ended == 6
  | .missing => s.strandHalted g sidx || s.farHalted g sidx

/-- COLL_STEP (R313, R336 to R338, R414): parts that disagree fault; a cancel of any part ends every part; a peer that is
halted, faulted or on a lost die faults the part (R409); a pre-emption suspends the parts that run; and once every part runs,
every member's next 4 KiB moves, after the devices have told each other the lines of it. -/
def execCollStep (core : Nat) (s : State) : Out :=
  match (s.core core).headOp 5 with
  | none => .next s
  | some o =>
    if o.state ≠ 2 ∨ o.kind ≠ .coll then .next s
    else
      let ms := s.collMembers o
      let found := (hereParts ms).map (·.2)
      let sound := (found.filter (fun e => e.2.bad = 0)).map (·.2.packet)
        ++ ms.filterMap (fun m => match m with | .far f => if f.packet.isEmpty then none else some f.packet | _ => none)
      let far := !ms.all (fun m => match m with | .here _ _ => true | _ => false)
      if !ms.contains .missing ∧ sound.any (fun p => decide (collKey p ≠ collKey o.packet)) then .next (s.collFault core o 1 0)
      else if found.any (fun e => e.2.cancel || e.2.state == 5)
          || ms.any (fun m => match m with | .far f => f.ended == 5 | _ => false) then .next (s.endParts found 5 0)
      else if ((s.members o.gang o).zip ms).any (fun e => s.memberGone core o.gang e.1 e.2) then .next (s.collFault core o 9 0)
      else if found.any (fun e => e.2.state == 2 && e.2.suspend) then .next (s.collSuspend found)
      else if found.any (fun e => e.2.state ≠ 2 || s.opVeiled e.1 e.2) then .next s
      else if !far then .next (s.collRun ms o)
      else if !isFabric (s.gang o.gang).levels ∨ !((s.members o.gang o).zip ms).all (fun e =>
          e.2 != .missing || !s.strandHere o.gang e.1) then .next s
      else if o.told ≤ o.lines / 64 then .next (s.collTell ms o)
      else if collHeard ms o then .next (s.collRun ms o)
      else .next s

/-! ### Crypto and joins (R340, R341) -/

/-- The line of a crypto packet's destination, and its source as a mover reads it: for XTS line `l`, deciphered or
enciphered, for SHA-256 the digest (R340). -/
def State.crypLine (s : State) (m : Mover) (pk : List Byte) (l : Nat) : State × Moved Got :=
  let opc := leAt pk 1 1
  let sp := leAt pk 3 1 % 8
  let len := if opc = 2 then leAt pk 4 4 else 64
  let (s, v) := s.readBytes m sp (len / 64 + 2) ((leAt pk 8 8 + 64 * l) % 2 ^ 64) len
  (s, match v with
    | .error e => .error e
    | .ok x =>
      let bytes := Crypto.leBytes len x.1
      .ok (if opc = 2 then Crypto.leNat (Crypto.sha256 bytes)
        else Crypto.leNat (Crypto.xts (opc == 0) (s.keyBytes (leAt pk 2 1)) (leAt pk 24 8 + l) bytes), x.2))

/-- The space and address of destination line `l` of a crypto packet (R340). -/
def crypDst (pk : List Byte) (l : Nat) : Nat × Nat := (leAt pk 3 1 / 16, (leAt pk 16 8 + 64 * l) % 2 ^ 64)

/-- The lines of a crypto operation, from `o.lines` on, until one fails and is left undefined (R305, R340). -/
def State.crypLines (s : State) (c : Nat) (o : ChildOp) : Nat → State
  | 0 => s.endOp c o 4 0 0
  | n + 1 =>
    let m := s.moverOf c o
    let (dsp, dst) := crypDst o.packet o.lines
    let fail := fun (s : State) (cause a : Nat) => (s.spoil m dsp [dst]).endOp c o 6 cause (BitVec.ofNat 64 a)
    let (s, v) := s.crypLine m o.packet o.lines
    match v with
    | .error (cause, a) => fail s cause a
    | .ok x =>
      let old := (s.ctxAt c o.cx).pairs
      let (s, w) := s.writeLine m dsp dst x.1
      match w with
      | .error (cause, a) => fail s cause a
      | .ok w =>
        let q := s.opNote { o with lines := o.lines + 1 } (x.2 ++ [w])
        let s := s.setCore c ((s.core c).setOp q)
        let s := if dsp = 1 then s.filled c o old (leAt o.packet 3 1 % 8 == 0) dst else s
        s.crypLines c q n

/-- CRYPTO_OPERATION (R340): the running head of channel 7 runs whole; an empty key slot faults it. -/
def execCryptoOperation (core : Nat) (s : State) : Out :=
  match (s.core core).headOp 7 with
  | none => .next s
  | some o =>
    if o.state ≠ 2 ∨ o.kind ≠ .cryp ∨ s.opVeiled core o then .next s
    else if o.cancel then .next (s.endOp core o 5 0 0)
    else
      let pk := o.packet
      if leAt pk 1 1 = 2 then .next (s.crypLines core o 1)
      else if (s.keySlot (leAt pk 2 1)).isNone then .next (s.endOp core o 6 1 0)
      else .next (s.crypLines core o (leAt pk 4 4 / 64))

/-- KJOIN_COMPLETE (R289, R341): the join at the head of its channel completes once its predecessor and every earlier
operation of its channels are complete. -/
def execKjoinComplete (core ch : Nat) (s : State) : Out :=
  let k := s.core core
  match k.headOp ch with
  | none => .next s
  | some o =>
    if o.kind ≠ .kjoin ∨ o.state ≠ 1 ∨ !s.opsRun o then .next s
    else if o.bad ≠ 0 then .next (s.endOp core o 6 o.bad 0)
    else if !s.predDone core o then .next s
    else
      let joined := k.ops.filter (fun q => decide (q.order < o.order) && o.mask.testBit q.ch)
      if joined.any (fun q => !completeCode q.state) then .next s
      else .next (s.endOp core { o with seen := s.prune (s.opDeps core o ++ joined.flatMap (·.seen)) } 4 0 0)

end Sys2Proof.Machine
end

