-- ==== Sys2Proof/Machine/Rings.lean ====
section
/-! DEFINITION. The engines of the bed dies as agents of memory, and the rings they keep in a tenant's memory: the
header of R350, the fault queue of R378, the trace ring of R449 (12 R266, R293; 15 R350; 25 R448 to R451). -/

namespace Sys2Proof.Machine

/-! ### Accesses of an engine through a tenant's page table -/

/-- The writes an engine's next release is ordered after (R284). -/
def State.agentDeps (s : State) (agent : Nat) : List (Nat × Nat) := Tbl.get [] s.agentSeen agent

/-- An engine has made or read stamped writes. -/
def State.agentNote (s : State) (agent : Nat) (ws : List (Nat × Nat)) : State :=
  let l := s.prune (s.agentDeps agent ++ ws.filter (fun w => decide (w.2 ≠ 0)))
  { s with agentSeen := Tbl.set [] s.agentSeen agent l }

/-- The physical address and placement word of a tenant's virtual address; 1 unmapped, 2 without permission (R237,
R418). -/
def State.tenantAt (s : State) (ten va need : Nat) : Except Nat (Nat × BitVec 32) :=
  if 2 ^ 48 ≤ va then .error 1
  else match s.walk ten va with
    | .leaf base _ pa perm plc =>
      if permOk perm need then .ok (pa + (va - base), BitVec.ofNat 32 plc) else .error 2
    | _ => .error 1

/-- An engine reads `n` bytes of one line as an LDA at DEV (R352, R293), but for the trace units, agents from
1024, whose reads order nothing (R295); 3 when the home refuses or the line is marked. -/
def State.engRead (s : State) (agent ten va n : Nat) : State × Except Nat Nat :=
  match s.tenantAt ten va 1 with
  | .error e => (s, .error e)
  | .ok (pa, plc) =>
    if isBell pa then (s, .ok 0)
    else
      let (s, v) := s.homeReadW 8 (some ten) (pa / 64) plc
      match v with
      | none => (s, .error 3)
      | some l => (if 1024 ≤ agent then s else s.agentNote agent (l.stamps ++ acquired (Tbl.get [] l.rels (pa % 64 / 8)) 7 0 0 ++ carriedDev (Tbl.get [] l.rels (pa % 64 / 8))),
          .ok (l.data / 256 ^ (pa % 64) % 256 ^ n))

/-- An engine reads any number of bytes, line by line; `fuel` bounds the lines. -/
def State.engReadBytes (s : State) (agent ten : Nat) : Nat → Nat → Nat → State × Except Nat (List Byte)
  | 0, _, _ => (s, .ok [])
  | fuel + 1, va, n =>
    if n = 0 then (s, .ok [])
    else
      let k := min n (64 - va % 64)
      let (s, v) := s.engRead agent ten va k
      match v with
      | .error e => (s, .error e)
      | .ok x =>
        let (s, r) := s.engReadBytes agent ten fuel (va + k) (n - k)
        match r with
        | .error e => (s, .error e)
        | .ok l => (s, .ok (natToBytes k x ++ l))

/-- The bytes of one line at a physical address are written by an engine, after all it has made or read has performed
for every observer (R284, R293). -/
def State.engPut (s : State) (agent ten pa : Nat) (plc : BitVec 32) (n v : Nat) : State :=
  let o := pa % 64
  let deps := s.agentDeps agent
  let mask := (2 ^ n - 1) * 2 ^ o
  let s := s.bringAll deps
  let (s, w) := s.homeWrite 8 (some ten) (pa / 64) plc mask (v % 256 ^ n * 256 ^ o) deps true
    (wordMarks mask [⟨5, 0, 0, deps ++ [(8, s.nextCount 8)], false, false⟩])
  s.agentNote agent [w]

/-- An engine writes `n` bytes of one line as a STRL at DEV (R293, R352, R354). -/
def State.engWrite (s : State) (agent ten va n v : Nat) : State × Except Nat Unit :=
  match s.tenantAt ten va 2 with
  | .error e => (s, .error e)
  | .ok (pa, plc) =>
    (if isBell pa then s else s.engPut agent ten pa plc n v, .ok ())

/-- An engine writes bytes, line by line. -/
def State.engWriteBytes (s : State) (agent ten : Nat) : Nat → Nat → List Byte → State
  | 0, _, _ => s
  | fuel + 1, va, bs =>
    if bs.isEmpty then s
    else
      let k := min bs.length (64 - va % 64)
      (s.engWrite agent ten va k (leAt bs 0 k)).1.engWriteBytes agent ten fuel (va + k) (bs.drop k)

/-- A number is a power of two within bounds. -/
def pow2In (n lo hi : Nat) : Bool := decide (lo ≤ n) && decide (n ≤ hi) && decide (2 ^ Nat.log2 n = n)

/-- The header of a ring, read by an engine (R350): write index, read index, slot count, slot base; none when it
cannot be read or breaks R350. -/
def State.ringHeader (s : State) (agent ten hdr align : Nat) : State × Option (Nat × Nat × Nat × Nat) :=
  if hdr % 64 ≠ 0 then (s, none)
  else
    let (s, h) := s.engReadBytes agent ten 2 hdr 64
    match h with
    | .error _ => (s, none)
    | .ok b =>
      let nslot := leAt b 0x18 4
      let slotb := leAt b 0x20 8
      if pow2In nslot 2 65536 && decide (slotb % align = 0) then (s, some (leAt b 0 8, leAt b 8 8, nslot, slotb))
      else (s, none)

/-- A record is appended to a ring of `size`-byte slots: the slot, then WI (R378, R449); false when the ring is full or
cannot be used. -/
def State.ringAppend (s : State) (agent ten hdr size : Nat) (record : List Byte) : State × Option Bool :=
  match s.ringHeader agent ten hdr 128 with
  | (s, none) => (s, none)
  | (s, some (wi, ri, nslot, slotb)) =>
    if nslot ≤ (wi + 2 ^ 64 - ri) % 2 ^ 64 then (s, some false)
    else
      match s.tenantAt ten (slotb + size * (wi % nslot)) 2, s.tenantAt ten hdr 2 with
      | .ok _, .ok _ =>
        let s := s.engWriteBytes agent ten (size / 64 + 2) (slotb + size * (wi % nslot)) record
        ((s.engWrite agent ten hdr 8 (wi + 1)).1, some true)
      | _, _ => (s, none)

/-! ### The trace unit (R448 to R451) -/

/-- A trace record's 64 bytes (R450), for a strand `x`. -/
def traceBytes (kind : Nat) (cx : CtxId) (x : Ctx) (pc scyc : Nat) (payload : List Byte) : List Byte :=
  (natToBytes 1 kind ++ natToBytes 1 (bankOf cx) ++ natToBytes 1 (x.gtile / 96) ++ natToBytes 1 (x.gtile % 96)
    ++ natToBytes 4 x.gang ++ natToBytes 8 pc ++ natToBytes 8 scyc ++ payload ++ List.replicate 40 0).take 64

/-- What the trace unit of a core works with in cycle `t` (R448). -/
def Core.traceIn (k : Core) (t : Nat) : TraceSet :=
  match k.trWas with
  | some w => if t ≤ w.at_ then w else ⟨k.trctl, k.trrb, k.trFault, t⟩
  | none => ⟨k.trctl, k.trrb, k.trFault, t⟩

/-- The place of a kind of record among those of one cycle: INTERLOCK, BANKCONF, MARK, SAMPLE, STOP (R449). -/
def recRank (kind : Nat) : Nat := match kind with | 3 => 0 | 4 => 1 | 2 => 2 | 1 => 3 | _ => 4

/-- A record enters the ring no later than another (R449). -/
def TraceRec.notAfter (a b : TraceRec) : Bool :=
  decide (a.at_ < b.at_) || (a.at_ == b.at_ && decide (recRank a.kind ≤ recRank b.kind))

/-- The trace unit of a core completes a record in cycle `t` about the strand that a context works for, with schedule cycle
`at_` of the event given as a cycle: it waits in the ring's order for its turn (R449, R450). -/
def State.trace (s : State) (c kind : Nat) (cx : CtxId) (t pc at_ : Nat) (payload : List Byte) : State :=
  let k := s.core c
  let u := k.traceIn t
  if !u.ctl.getLsbD 0 || u.flt then s
  else
    let x := k.strandOf cx
    let r : TraceRec := ⟨t, kind, u.rb, (s.gang x.gang).ten, traceBytes kind cx x pc (at_ - x.start) payload⟩
    s.setCore c { k with due := k.due.takeWhile (·.notAfter r) ++ r :: k.due.dropWhile (·.notAfter r) }

/-- A record enters its ring: it is dropped and counted when the ring is full, and a fault stops the ring; a ring that TRRB
no longer names tells TRST nothing (R449). `bad` lists the rings that have faulted. -/
def State.writeRecord (s : State) (c : Nat) (bad : List Word64) (r : TraceRec) : State × List Word64 :=
  let k := s.core c
  if bad.contains r.rb || (r.rb == k.trrb && k.trFault) then (s, bad)
  else
    let tell := fun (s : State) (f : Core → Core) => if r.rb = k.trrb then s.setCore c (f (s.core c)) else s
    match s.ringAppend (1024 + c) r.ten r.rb.toNat 64 r.bytes with
    | (s, none) => (tell s (fun (k : Core) => { k with trFault := true }), r.rb :: bad)
    | (s, some false) => (tell s (fun (k : Core) => { k with trDrop := min (k.trDrop + 1) 0xFFFFFFFF }), bad)
    | (s, some true) => (s, bad)

/-- The contexts of a core that issue: SVC while it serves, and the full ones that hold a strand and are neither trapped,
parked nor stopped. -/
def Core.issuers (k : Core) : List CtxId :=
  [CtxId.cb0, .cb1].filter (fun cx =>
      let x := k.ctx cx
      x.gang != 0 && !x.halted && !x.trapped && !x.stopped && !k.parked.contains cx)
    ++ (if k.serving.isSome then [.svc] else [])

/-- The least of some cycles. -/
def leastOf (ts : List Nat) : Option Nat := ts.foldl (fun b t => some (match b with | some m => min m t | none => t)) none

/-- The cycle in which a core stands: no context of it can issue in an earlier one; none while none issues. -/
def Core.present (k : Core) : Option Nat := leastOf (k.issuers.map (fun cx => (k.ctx cx).clock))

/-- The cycle before which no more record of a core can be completed (R449). -/
def Core.traceEnd (k : Core) : Option Nat :=
  leastOf (k.present.toList ++ (k.delayed.filter (fun d => !d.refetch)).map (·.since + 1))

/-- The records of a core whose turn has come enter the ring (R449). -/
def State.flushTrace (s : State) (c : Nat) (upto : Option Nat) : State :=
  let k := s.core c
  let out := match upto with
    | some t => k.due.filter (fun (r : TraceRec) => decide (r.at_ < t))
    | none => k.due
  if out.isEmpty then s
  else
    let s := s.setCore c { k with due := match upto with | some t => k.due.filter (fun (r : TraceRec) => decide (t ≤ r.at_)) | none => [] }
    (out.foldl (fun (a : State × List Word64) r => a.1.writeRecord c a.2 r) (s, [])).1

/-- The run of cycles in which a context's next bundle did not issue is over: while interlock trace is armed, it is written
as one record (R451). -/
def State.traceHold (s : State) (c : Nat) (cx : CtxId) (why cycles : Nat) : State :=
  let x := s.ctxAt c cx
  if x.armed && decide (0 < cycles) && ((s.core c).traceIn x.clock).ctl.getLsbD 4 then
    s.trace c 3 cx x.clock x.pc.toNat (x.clock - cycles) (natToBytes 4 why ++ natToBytes 4 cycles)
  else s

/-- A MARK has issued in the bundle of the context that stood as `b` (R451): its drift, its record, and the arming of
interlock trace. -/
def State.traceMark (s : State) (c : Nat) (cx : CtxId) (b : Ctx) (e : BitVec 20) (tag : BitVec 6) : State :=
  let t := b.clock
  let ctl := ((s.core c).traceIn t).ctl
  let d : Int := (BitVec.ofNat 20 (t - ((s.core c).strandOf cx).start) - e).toInt
  let s := if ctl.getLsbD 2 then
      s.trace c 2 cx t b.pc.toNat t (natToBytes 4 e.toNat ++ natToBytes 4 tag.toNat ++ natToBytes 4 (d % (2 ^ 32 : Nat)).toNat)
    else s
  let th := ctl.toNat / 2 ^ 32 % 65536
  let x := s.ctxAt c cx
  if d.natAbs ≤ th then s.setCtxAt c cx { x with armed := false }
  else if ctl.getLsbD 4 && decide (th ≠ 0) then s.setCtxAt c cx { x with armed := true }
  else s

/-- What a context that issues shows in cycle `t` (R450): the bundle that it tried, the one that its owed flip held, or one
still held as before. -/
def Ctx.sampleAt (x : Ctx) (t : Nat) : Sample :=
  if t = x.last.at_ then x.last
  else if x.last.state = 0 then { pc := x.pc, state := 1, at_ := t, phn := x.last.phn }
  else { x.last with at_ := t }

/-- One sample of a full context in cycle `t` is written, if the trace unit takes one in that cycle (R450). A context that SVC
has stopped shows its next bundle, for whose hold R450 has no reason: that byte is a free value (log entry 132). -/
def State.sampleIn (s : State) (c : Nat) (cx : CtxId) (t : Nat) : State :=
  let ctl := ((s.core c).traceIn t).ctl
  if !ctl.getLsbD 0 || !ctl.getLsbD 1 || decide (t % 2 ^ (10 + ctl.toNat / 256 % 16) ≠ 0) then s
  else
    let x := s.ctxAt c cx
    let e := x.sampleAt t
    if x.trapped then
      let (s, b) := s.freeBytes 1
      s.trace c 1 cx t x.pc.toNat t (natToBytes 8 x.phn.toNat ++ b)
    else s.trace c 1 cx t e.pc.toNat t (natToBytes 8 e.phn.toNat ++ natToBytes 1 e.state)

/-- The samples of a full context that holds a strand are taken for its cycles before `upto` (R450). -/
def State.sampled (s : State) (c : Nat) (cx : CtxId) (upto : Nat) : State :=
  let x := s.ctxAt c cx
  if x.gang = 0 ∨ upto ≤ x.sampledTo then s
  else
    let first := (x.sampledTo + 1023) / 1024
    let s := (List.range ((upto + 1023) / 1024 - first)).foldl (fun (s : State) i => s.sampleIn c cx (1024 * (first + i))) s
    s.setCtxAt c cx { s.ctxAt c cx with sampledTo := upto }

/-- The cycle to which a full context of a core has come: a context that does not issue comes as far as the core has. -/
def Core.reached (k : Core) (cx : CtxId) : Nat :=
  let x := k.ctx cx
  if x.trapped || k.parked.contains cx then max x.clock (k.present.getD x.clock) else x.clock

/-- The latest cycle that any context of a core has reached. -/
def Core.lastCycle (k : Core) : Nat := max k.cb0.clock (max k.cb1.clock k.svc.clock)

/-- Event 1 counts the cycles that a core has come through (R453). -/
def Core.tallied (k : Core) (t : Nat) : Core := { k.count 1 none (t - k.tally) with tally := max k.tally t }

/-- The trace unit and the counters of a core keep up with its contexts: its samples are taken, its cycles are counted, and
the records whose turn has come enter the ring (R449, R450, R453). -/
def State.traced (s : State) (c : Nat) : State :=
  let s := (s.sampled c .cb0 ((s.core c).reached .cb0)).sampled c .cb1 ((s.core c).reached .cb1)
  let s := s.setCore c ((s.core c).tallied (s.core c).lastCycle)
  s.flushTrace c (s.core c).traceEnd

/-- A gang leaves a core in cycle `now`: what the trace unit and the counters still owe it is settled. -/
def State.traceClosed (s : State) (c now : Nat) : State :=
  let s := (s.sampled c .cb0 now).sampled c .cb1 now
  let s := s.setCore c ((s.core c).tallied now)
  s.flushTrace c none

/-- TRACE_SAMPLE (R450): the samples that the contexts of the core are due are taken, and records enter the ring. -/
def execTraceSample (core : Nat) (s : State) : Out := .next (s.traced core)

/-! ### The fault queue (R378) -/

/-- A parked walk's record in the fault queue of the context's tenant; false when there is no usable queue, or no
room (R378, R379). -/
def State.faultRecord (s : State) (c : Nat) (cx : CtxId) (va : Nat) : State × Bool :=
  let x := s.ctxAt c cx
  let ten := (s.gang x.gang).ten
  let fqb := (s.tenant ten).fqb
  if fqb = 0 ∨ isControl c then (s, false)
  else
    let rec32 := natToBytes 8 x.gang ++ natToBytes 2 (x.gtile / 96 + 256 * (x.gtile % 96)) ++ natToBytes 1 (bankOf cx)
      ++ natToBytes 5 0 ++ natToBytes 8 va ++ natToBytes 8 0
    match s.ringAppend 2 ten fqb 32 rec32 with
    | (s, some true) => (s, true)
    | (s, _) => (s, false)

end Sys2Proof.Machine
end

