-- ==== Sys2Proof/Machine/Sync.lean ====
section
/-! DEFINITION. Fences, barriers, flags, translation, paired regions, cache invalidation and segments (05 R132 to R134,
10 R222 to R227, 11 R260 to R265, 15 R348, R349, 18 R378, R379, R387, 19 R399, R400), and how a context is held. -/

namespace Sys2Proof.Machine

/-! ### Held bundles (R40, R323, R450) -/

/-- WAIT_TIMEOUT: the count of the held bundle's cycles exceeds its bound (R323). -/
def State.timeout (s : State) (c : Nat) (cx : CtxId) : State :=
  let x := s.ctxAt c cx
  match x.bound with
  | none => s
  | some b =>
    if x.holding && decide (b < x.waited) && !x.trapped then
      if cx = .svc then ({ s with focus := c, cx := cx } : State).svcFault 9
      else s.setCore c ((s.core c).takeTrap cx 9 7 0 x.pc false true)
    else s

/-- The event code of a hold reason's cycles (R453); a hold that R450 gives no reason for counts in no event. -/
def holdEvent (why : Nat) : Nat := if why ≤ 12 then why + 2 else if why ≤ 14 then why + 9 else 0

/-- A context's next bundle is held for one more cycle. -/
def State.markHeld (s : State) (c : Nat) (cx : CtxId) (why : Nat) (bound : Option Nat) : State :=
  let k := (s.core c).count (holdEvent why) (some cx) 1
  let x := k.ctx cx
  let x := { x with why := if x.holding then x.why else why, holding := true, held := x.held + 1, clock := x.clock + 1,
                    waited := if bound.isSome then x.waited + 1 else x.waited, bound := bound, 
                    last := { pc := x.pc, state := why, at_ := x.clock, phn := x.phn } }
  (s.setCore c (k.setCtx cx x)).timeout c cx

/-- HELD_BUNDLE_RELEASE (R40): the context's held bundle tries again next; it issues once its condition is clear. -/
def execHeldBundleRelease (core : Nat) (cx : CtxId) (s : State) : Out :=
  if (s.ctxAt core cx).holding then .next { s with agenda := .core core :: s.agenda } else .next s

/-- WAIT_TIMEOUT (R323). -/
def execWaitTimeout (core : Nat) (cx : CtxId) (s : State) : Out := .next (s.timeout core cx)

/-- An instruction that issues only in CB0 and CB1 (R71). -/
def State.fullOnly (s : State) (k : State → Out) : Out := if s.cx = .svc then s.raise 1 1 6 (s.slotWord 6) else k s

/-- An instruction that issues only in SVC (R71). -/
def State.svcOnly (s : State) (k : State → Out) : Out := if s.cx = .svc then k s else s.raise 1 1 6 (s.slotWord 6)

/-! ### FENCE and BAR -/

/-- FENCE (R260): later bundles with operations of its classes are held by the step until `fenceOver`. -/
def execFence (h : Hdr) (sc : BitVec 3) (m : BitVec 5) (s : State) : Out :=
  s.whenOn h fun s => (s.setMe { s.me with fences := s.me.fences ++ [(sc, m, s.me.bundles)] }).done

/-- The contexts that hold or held the strands of a gang on this device. -/
def State.strandsOf (s : State) (g : Nat) : List (Nat × CtxId) :=
  (s.gang g).place.flatMap (fun e =>
    match e.2 with
    | none => []
    | some c => [CtxId.cb0, CtxId.cb1].filterMap (fun cx =>
        if (s.ctxAt c cx).gang = g ∧ g ≠ 0 then some (c, cx) else none))

/-- Every access that a strand's arrival releases has performed: those of bundles up to the arrival, or all of them
when it has halted (R132, R133). -/
def State.released (s : State) (c : Nat) (cx : CtxId) (level : Nat) : Bool :=
  let k := s.core c
  let x := k.ctx cx
  let n := (Tbl.get (0, 0) x.arrive level).2
  !k.accs.any (fun a => a.cx == cx && (x.halted || decide (a.bundle ≤ n))) && !k.delayed.any (fun d => d.cx == cx)

/-- How many strands of the instance that begins at strand `b` and holds `p`, other than those of `here`, have arrived on
other devices at the epoch, or have halted (R133, R414). -/
def State.farArrived (s : State) (g : Gang) (b p l e : Nat) (here : List Nat) : Nat :=
  let there := s.farStrands.filter (fun f => f.ten == g.ten && f.rec_ == g.recVa.toNat && f.nth == g.nth
    && (match f.level with
        | none => true
        | some n => n == l && decide (e ≤ f.epoch)))
  ((List.range p).filter (fun i => !here.contains (b + i) && there.any (fun f => f.sidx == b + i))).length

/-- The BAR wait of a context ends, with that of every other strand of the instance here that waits at no later an epoch, once
every strand has arrived at its epoch or has halted, and what they released has performed (those of a lost die never do, R409); each then acquires, from an instance that spans devices
also what peers have sent (R132, R133). -/
def State.tryBar (s : State) (c : Nat) (cx : CtxId) : State :=
  let x := s.ctxAt c cx
  match x.barWait with
  | none => s
  | some l =>
    let g := s.gang x.gang
    let p := perInstance g.levels l
    let e := (Tbl.get (0, 0) x.arrive l).1
    let mine := (s.strandsOf x.gang).filter (fun m => (s.ctxAt m.1 m.2).sidx.toNat / p == x.sidx.toNat / p)
    let there := mine.all (fun m =>
      let y := s.ctxAt m.1 m.2
      !(s.die (dieOf m.1)).lost && (y.halted || decide (e ≤ (Tbl.get (0, 0) y.arrive l).1)) && s.released m.1 m.2 l)
    let far := if mine.length = p then 0
      else s.farArrived g (p * (x.sidx.toNat / p)) p l e (mine.map (fun m => (s.ctxAt m.1 m.2).sidx.toNat))
    if mine.length + far = p ∧ there then
      let peers := if far = 0 then [] else (s.agentSeen.filter (fun e => decide (4096 ≤ e.1))).flatMap (·.2)
      let deps := s.prune (mine.flatMap (fun m => (s.ctxAt m.1 m.2).seen ++ (s.ctxAt m.1 m.2).must) ++ peers)
      mine.foldl (fun (s : State) m =>
        let y := s.ctxAt m.1 m.2
        if y.barWait = some l ∧ (Tbl.get (0, 0) y.arrive l).1 ≤ e then
          s.setCtxAt m.1 m.2 { (y.acquire deps) with barWait := none, waited := 0 }
        else s) s
    else s

/-- BAR (R132): it arrives at issue; the wait follows. -/
def execBar (h : Hdr) (v : BitVec 3) (s : State) : Out :=
  s.fullOnly fun s => s.whenOn h fun s =>
    let l := v.toNat
    let x := s.me
    if x.nlev ≤ l then s.raise 4 5 6 (BitVec.ofNat 64 l)
    else
      let e := (Tbl.get (0, 0) x.arrive l).1 + 1
      (((s.setMe { x with arrive := Tbl.set (0, 0) x.arrive l (e, x.bundles), barWait := some l }).escape).tellPeers x.gang
        (fun t r n => .arrive t r n x.sidx.toNat l e)).done

/-- BAR_RELEASE (R132). -/
def execBarRelease (core : Nat) (cx : CtxId) (s : State) : Out := .next (s.tryBar core cx)

/-! ### SIGNAL and WAIT -/

/-- SIGNAL (R348): a STRL through C0's rules, of FENCE class HOD. -/
def execSignal (h : Hdr) (a b : BitVec 5) (sc : BitVec 3) (s : State) : Out :=
  s.whenOn h fun s =>
    let e := s.me.s a.toNat
    if e.toNat % 8 ≠ 0 then s.raise 6 6 6 e
    else match s.remote s.strand.gang e.toNat 8 with
      | none => s.raise 6 4 6 e
      | some (c, o) => s.watched 61 2 [(e.toNat, 8)] fun s =>
        let s := s.escape.issueAccess .c0 .store 8 (s.me.s b.toNat).toNat [⟨.tess c o, 0, 8⟩] 0 0 (BitVec.allOnes 128)
          (some sc.toNat) false
        let k := s.kore
        (s.setKore { k with accs := k.accs.map (fun (q : Access) =>
          if q.id + 1 = k.nextId then { q with signal := true } else q) }).done

/-- The condition of a WAIT (R349). -/
def waitCond (f : BitVec 3) (v w : Word64) : Bool := if f = 0 then cmpLeU w v else if f = 1 then v == w else v != w

/-- WAIT (R349). -/
def execWait (h : Hdr) (a b : BitVec 5) (f : BitVec 3) (s : State) : Out :=
  s.whenOn h fun s =>
    let o := s.me.s a.toNat
    if o.toNat % 8 ≠ 0 then s.raise 6 6 6 o
    else if Config.tessSize ≤ o.toNat then s.raise 6 4 6 o
    else s.ownRead [o.toNat / 64] fun s =>
      if waitCond f (BitVec.ofNat 64 (Mem.read s.kore.tess o.toNat 8)) (s.me.s b.toNat) then
        (s.setMe (s.me.took s.strand 1 s.me.bundles (some 7) (s.relAt (tessRel s.focus o.toNat)) [])).done
      else s.waitFor s.lim

/-! ### Translation (R236 to R238, R262, R263, R378, R379) -/

/-- XLAT (R262): the walk starts; XR names its slot. -/
def execXlat (h : Hdr) (a : BitVec 5) (sl : BitVec 6) (s : State) : Out :=
  s.whenOn h fun s =>
    let v := s.me.s a.toNat
    if s.me.walk.isSome then s.hold 3
    else if 2 ^ 48 ≤ v.toNat then s.raise 6 4 6 v
    else ((s.setMe { s.me with xr := { w3 := BitVec.ofNat 64 (16 * sl.toNat) },
                               walk := some { va := v, slot := sl.toNat } }).escape).done

/-- XMOV (R263). -/
def execXmov (h : Hdr) (d : BitVec 5) (w : BitVec 2) (s : State) : Out :=
  s.whenOn h fun s =>
    let r := s.me.xr
    if s.me.walk.isSome then s.hold 3
    else s.putS d (if w = 0 then r.w0 else if w = 1 then r.w1 else if w = 2 then r.w2 else r.w3) h.land 1

/-- The physical addresses of the entries a walk reads (R237). -/
def walkAddrs (m : Mem) (v : Nat) : Nat → Nat → Nat → List Nat
  | 0, _, _ => []
  | fuel + 1, l, table =>
    let a := table + 16 * (v / 2 ^ levelShift l % levelCount l)
    let w0 := Mem.read m a 8
    a :: (if w0 % 4 = 1 then walkAddrs m v fuel (l + 1) (w0 / 512 % 2 ^ 39 * 512) else [])

/-- What the walk of a context finds: the control complex stands outside every page table (R391). -/
def State.walkOf (s : State) (c : Nat) (cx : CtxId) (va : Nat) : WalkEnd :=
  match s.tenOf c cx with
  | none => .missing
  | some ten => s.walk ten va

/-- The walk of a context is over: XR and, with a leaf, the dynamic slot of a full context are written, and a parked
context goes on (R238, R262, R379). The entries read are acquired at DEV (R237). -/
def State.walkDone (s : State) (c : Nat) (cx : CtxId) (w : Walk) (e : WalkEnd) : State :=
  let k := s.core c
  let x := k.ctx cx
  let deps := match s.tenOf c cx with
    | none => []
    | some ten => (walkAddrs s.mem w.va.toNat 4 0 (s.tenant ten).ptb).flatMap (fun a => acquired (s.relAt (a / 8)) 5 0 0)
  -- a parked context goes on in the cycle that its core has come to
  let x := if w.parked then { x.acquire deps with clock := max x.clock (k.present.getD 0) } else x.acquire deps
  let x := match e with
    | .leaf base size pa perm plc =>
      let ps := plc / 16 % 4
      let xr : XrReg := {
        w0 := BitVec.ofNat 64 (pa + (w.va.toNat - base)), w1 := BitVec.ofNat 64 (perm * 2 ^ 32 + plc),
        w2 := BitVec.ofNat 64 base, w3 := BitVec.ofNat 64 (16 * w.slot + 4 * ps + 1) }
      let dyn := if cx = .svc then x.dyn
        else Tbl.set {} x.dyn w.slot { v := true, base := base, size := size, pa := pa, perm := BitVec.ofNat 3 perm,
                                       plc := BitVec.ofNat 32 plc }
      { x with xr := xr, dyn := dyn, walk := none }
    | _ => { x with xr := { w3 := BitVec.ofNat 64 (16 * w.slot + 3) }, walk := none }
  s.setCore c { (k.setCtx cx x) with parked := k.parked.filter (· != cx) }

/-- The record of a page-table entry that breaks its layout (R237, R418). -/
def State.badEntry (s : State) (c : Nat) (cx : CtxId) (va : Nat) (e : WalkEnd) : State :=
  let x := s.ctxAt c (if cx = .svc then (s.core c).servedId else cx)
  match e with
  | .broken l w0 w1 =>
    s.runtimeRecord (s.gang x.gang).ten 5 x.gang va
      (l + 256 * (x.gtile / 96) + 65536 * (x.gtile % 96) + 16777216 * (bankOf cx % 2)) (natToBytes 8 w0 ++ natToBytes 8 w1)
  | _ => s

/-- XLAT_WALK_COMPLETE (R262): a walk that finds a leaf completes; a walk of SVC completes in any case (R379). -/
def execXlatWalkComplete (core : Nat) (cx : CtxId) (s : State) : Out :=
  match (s.ctxAt core cx).walk with
  | none => .next s
  | some w =>
    if w.parked || w.abandoned then .next s
    else
      let e := s.walkOf core cx w.va.toNat
      match e with
      | .leaf _ _ _ _ _ => .next (s.walkDone core cx w e)
      | _ => if cx = .svc then .next ((s.badEntry core cx w.va.toNat e).walkDone core cx w e) else .next s

/-- PAGE_WALK_PARK (R378, R379): a walk of a full context that meets a missing page parks the context, with a record
in the fault queue; without a usable queue PAGE_FAULT is raised and the walk is abandoned. -/
def execPageWalkPark (core : Nat) (cx : CtxId) (s : State) : Out :=
  match (s.ctxAt core cx).walk with
  | none => .next s
  | some w =>
    if w.parked || w.abandoned || cx == .svc then .next s
    else
      let e := s.walkOf core cx w.va.toNat
      match e with
      | .leaf _ _ _ _ _ => .next s
      | _ =>
        let s := s.badEntry core cx w.va.toNat e
        let (s, held) := s.faultRecord core cx w.va.toNat
        let k := s.core core
        let x := k.ctx cx
        if held then
          let x := (x.settle x.clock)
          let k := k.setCtx cx { x with walk := some { w with parked := true } }
          let k := { k with parked := if k.parked.contains cx then k.parked else k.parked ++ [cx] }
          let o := k.ctx (otherCtx cx)
          let k := k.settlePrim
          let k := if k.primary = cx && o.gang != 0 && !o.halted then
              { k with prim := !k.prim, primWas := some (k.primWas.getD k.prim) } else k
          .next (s.setCore core k)
        else
          .next (s.setCore core (k.setCtx cx { x with walk := some { w with abandoned := true }, pageFault := some w.va }))

/-! ### Paired regions -/

/-- PAIRSET (R264, R265). -/
def execPairset (h : Hdr) (a b : BitVec 5) (r : BitVec 3) (s : State) : Out :=
  s.whenOn h fun s =>
    let p := (s.me.s a.toNat).toNat
    let q := (s.me.s b.toNat).toNat
    let base := p % 2 ^ 20
    let half := q % 2 ^ 20
    let clr := q / 2 ^ 33 % 2 == 1
    let x := s.strand
    let apart := x.pairs.all (fun e => decide (e.1 = r.toNat) || !e.2.en
      || decide (e.2.base + 2 * e.2.half ≤ base) || decide (base + 2 * half ≤ e.2.base))
    let ok := decide (q < 2 ^ 34) && decide (q / 2 ^ 20 % 2 ^ 12 = 0)
      && (if clr then decide (p = 0) && decide (q = 2 ^ 33)
          else decide (p < 2 ^ 20) && decide (base % 64 = 0) && decide (half % 64 = 0) && decide (64 ≤ half)
            && decide (half ≤ 0x60000) && decide (base + 2 * half ≤ Config.tessSize) && apart)
    if !ok then s.raise 6 7 6 0
    else
      let n : Pair := if clr then {} else
        { en := true, base := base, half := half, ref := q / 2 ^ 32 % 2 == 1, born := s.kore.nextId,
          fresh := s.cx != .svc && s.iss.flip.isSome }
      let s := s.setStrand { x with pairs := Tbl.set {} x.pairs r.toNat n }
      ((s.setKore { s.kore with nextId := s.kore.nextId + 1 }).escape).done

/-! ### IINV and segments -/

/-- IINV (R399): the cores of the gang within the scope are to drop their instruction caches. -/
def execIinv (h : Hdr) (sc : BitVec 3) (s : State) : Out :=
  s.whenOn h fun s =>
    let x := s.strand
    let cores := (s.gang x.gang).place.filterMap (fun e =>
      match e.2 with
      | none => none
      | some c => if inScope sc.toNat x.gang x.gtile x.gang e.1 then some c else none)
    ((s.setMe { s.me with iinv := (s.focus :: cores).dedup }).escape).done

/-- The IINV of a context completes once its earlier stores have performed at the scope: every core drops its cache
(R399, R458). -/
def State.tryIinv (s : State) (c : Nat) (cx : CtxId) : State :=
  let k := s.core c
  let x := k.ctx cx
  if x.iinv.isEmpty then s
  else if k.accs.any (fun a => a.cx == cx && decide (a.bundle + 1 < x.bundles) && (a.op.isStore || a.op.isAtomic))
      || x.known.any (s.pending 3 (fun d => x.iinv.any (fun e => decide (dieOf e = d)))) then s
  else
    -- what is fetched from now on is memory as it stands: nothing that has reached its home is still on its way (R458)
    let s := x.iinv.foldl (fun (s : State) e =>
      let d := s.die (dieOf e)
      (s.setCore e { s.core e with icache := [] }).setDie (dieOf e) (d.notices.foldl Die.applyNotice d)) s
    s.setCtxAt c cx { (s.ctxAt c cx) with iinv := [] }

/-- SEGB (R387, R400). -/
def execSegb (h : Hdr) (s : State) : Out :=
  s.whenOn h fun s =>
    let s := s.setMe { s.me with sega := true, segCnt := 0, segSig := 0 }
    { s with iss := { s.iss with seg := true } }.done

/-- SEGE (R387, R400). -/
def execSege (h : Hdr) (a b : BitVec 5) (s : State) : Out :=
  s.whenOn h fun s =>
    let x := s.me
    let n := if x.sega then x.segCnt else 0
    let g := if x.sega then x.segSig else 0
    if n = (x.s a.toNat).setWidth 32 ∧ g = (x.s b.toNat).setWidth 32 then
      let s := s.setMe { x with sega := false }
      { s with iss := { s.iss with seg := true } }.done
    else s.raise 6 14 6 (n ++ g)

end Sys2Proof.Machine
end

