-- ==== Sys2Proof/Machine/SysRegs.lean ====
section
/-! DEFINITION. System registers: the index map of R388, SRD and SWR, and the writes that have an effect of their own
(19 R388 to R393; 01 R49, R53 to R56; 08 R183, R212; 10 R227, R234, R240; 14 R303, R314, R315; 16 R355, R362; 18 R369;
23 R428, R429; 24 R442; 25 R447 to R454; 26 R463). -/

namespace Sys2Proof.Machine

/-! ### Register images -/

/-- PHCTL (R53). -/
def Ctx.phctl (x : Ctx) : Nat := x.dwt.toNat + 2 * x.rot.toNat

/-- PRGn (R227). -/
def Pair.prg (p : Pair) : Nat :=
  p.base + 2 ^ 20 * p.half + 2 ^ 40 * p.en.toNat + 2 ^ 41 * p.ref.toNat + 2 ^ 42 * p.dirty0.toNat
    + 2 ^ 43 * p.dirty1.toNat + 2 ^ 44 * p.sel.toNat

/-- LTTC (R234). -/
def Ctx.lttc (x : Ctx) : Nat := x.lttGran.toNat + 4 * x.lttEn.toNat + 2 ^ 28 * x.lttBase.toNat

/-- TVEC (R235). -/
def Ctx.tvecReg (x : Ctx) : Nat := x.tvec.toNat + 256 * x.tvecKind.toNat

/-- KDONEn (R303). -/
def Ctx.kdone (x : Ctx) (ch : Nat) : Nat := (Tbl.get 0 x.dones ch).toNat + 2 ^ 32 * (Tbl.get 0 x.seqs ch).toNat

/-- STRM (R49). -/
def Core.strm (k : Core) : Nat := k.prim.toNat + 65536 * k.secbnd.toNat

/-- MXST (R212). -/
def Core.mxst (k : Core) : Nat := k.mxRepl.toNat + 65536 * k.mxUnchk.toNat

/-- IGST (R392). -/
def Core.igst (k : Core) : Nat :=
  2 ^ 32 * (k.ingress.length % 256) + ((k.ingress.head?.map (fun (r : IngRec) => r.seq.toNat)).getD 0)

/-- SECNT (R429). -/
def Core.secntReg (k : Core) : Nat :=
  (List.range 6).foldl (fun a i => a + (Tbl.get 0 k.secnt i).toNat * 256 ^ i) 0

/-- ALARM at a cycle (R362). -/
def Core.alarmAt (k : Core) (now : Nat) : Nat := min k.quantum (k.alarm - now)

/-- HCFG (R314). -/
def Hod.cfg (h : Hod) : Nat :=
  h.base.toNat + 2 ^ 20 * h.ssz.toNat + 2 ^ 32 * h.nslot.toNat + 2 ^ 49 * h.scope.toNat + 2 ^ 52 * h.mode.toNat
    + 2 ^ 53 * h.carry.toNat + 2 ^ 54 * h.en.toNat + 2 ^ 55 * h.priv.toNat + 2 ^ 56 * h.own

/-- HCNT (R314). -/
def Hod.cnt (h : Hod) : Nat := h.rp.toNat + 2 ^ 32 * h.wp.toNat

/-- HST (R314). -/
def Hod.st (h : Hod) : Nat := h.epoch.toNat + 2 ^ 32 * h.xset.toNat + 2 ^ 33 * h.ovf.toNat

/-- DVFSd (R463). -/
def Die.dvfs (d : Die) : Nat := d.req.toNat + 16 * d.uvx.toNat + 256 * d.lock.toNat + 4096 * d.cur.toNat

/-- One of the four phase registers of a context (R53 to R56). -/
def Ctx.phaseReg (x : Ctx) (i : Nat) : Nat :=
  match i with
  | 0 => x.phctl
  | 1 => x.phs.toNat
  | 2 => x.phn.toNat
  | _ => x.lpst.toNat

/-- A device register of the control cores (R388): none when the index is not assigned. -/
def State.controlReg (s : State) (i : Nat) : Option Nat :=
  if 0x200 ≤ i ∧ i ≤ 0x21F then
    some (if i % 2 = 0 then Tbl.get 0 s.dtq ((i - 0x200) / 2) else Tbl.get 0 s.dtc ((i - 0x200) / 2)).toNat
  else if 0x220 ≤ i ∧ i ≤ 0x22F then some (Tbl.get 0 s.rcls (i - 0x220)).toNat
  else if i = 0x240 then some (s.scrbPer.toNat + 65536 * s.scrbEn.toNat + 2 ^ 32 * s.scrbPass.toNat)
  else if i = 0x241 then some (s.lcs.toNat + 16 * s.dbg.toNat + 256 * s.svn.toNat)
  else if i = 0x242 then some (s.tlim.toNat + 2 ^ 32 * s.plim.toNat)
  else if i = 0x243 then some (s.watts % 65536 + 65536 * (s.temp % 256))
  else if 0x248 ≤ i ∧ i ≤ 0x24F then some (s.die (i - 0x248)).dvfs
  else none

/-- A register of the context, the strand or the core in focus (R388): none when the index is not assigned there. -/
def State.localReg (s : State) (i : Nat) : Option Nat :=
  let x := s.me
  let y := s.strand
  let k := s.kore
  if i ≤ 3 then some (x.phaseReg i)
  else if i = 0x008 then some k.strm
  else if 0x040 ≤ i ∧ i ≤ 0x047 then some (y.lidx.getD (i - 0x040) 0).toNat
  else if 0x048 ≤ i ∧ i ≤ 0x04F then some (if y.nlev = 0 then 0 else (y.lcnt.getD (i - 0x048) 1).toNat)
  else if i = 0x050 then some y.sidx.toNat
  else if i = 0x051 then some y.scnt.toNat
  else if i = 0x052 then some y.gloc.toNat
  else if i = 0x058 then some y.fmtt.toNat
  else if i = 0x060 then some k.mxcfg.toNat
  else if i = 0x061 then some k.mxst
  else if i = 0x062 then some y.lttc
  else if i = 0x063 then some y.wdt.toNat
  else if 0x064 ≤ i ∧ i ≤ 0x06B then some (x.kdone (i - 0x064))
  else if 0x070 ≤ i ∧ i ≤ 0x077 then some (Tbl.get {} y.pairs (i - 0x070)).prg
  else if i = 0x078 then some y.taddr.toNat
  else if i = 0x079 then some y.tvecReg
  else if 0x080 ≤ i ∧ i ≤ 0x08F then some (s.geotAt (i - 0x080)).toNat
  else if i = 0x090 then some x.clock
  else if i = 0x091 then some (k.alarmAt x.clock)
  else if i = 0x0A0 then some k.hvb.toNat
  else if i = 0x0A1 then some y.tfb.toNat
  else if i = 0x0A2 then some y.rpst.toNat
  else if i = 0x0A3 then some y.segst.toNat
  else if i = 0x0A4 then some k.intp.toNat
  else if i = 0x0A5 then some k.intm.toNat
  else if i = 0x0A6 then some k.igst
  else if i = 0x0A8 then some k.secntReg
  else if i = 0x0B0 then some (x.clock - y.start)
  else if i = 0x0B1 then some k.trctl.toNat
  else if i = 0x0B2 then some k.trrb.toNat
  else if i = 0x0B3 then some (k.trDrop % 2 ^ 32 + 2 ^ 32 * k.trFault.toNat)
  else if i = 0x0B4 then some k.pmcsel.toNat
  else if 0x0B5 ≤ i ∧ i ≤ 0x0B8 then some (Tbl.get 0 k.pmc (i - 0x0B5)).toNat
  else if i = 0x0BA then some y.wpb0.toNat
  else if i = 0x0BB then some y.wpl0.toNat
  else if i = 0x0BC then some y.wpb1.toNat
  else if i = 0x0BD then some y.wpl1.toNat
  else if 0x100 ≤ i ∧ i ≤ 0x17F then
    let h := k.hod ((i - 0x100) / 4)
    some (if i % 4 = 0 then h.cfg else if i % 4 = 1 then h.cnt else if i % 4 = 2 then h.st else 0)
  else if 0x300 ≤ i ∧ i ≤ 0x303 ∧ s.cx = .svc then some (y.phaseReg (i - 0x300))
  else none

/-- A system register as SRD reads it; none when the index is not assigned on the issuing core and context (R388,
R389). -/
def State.sysReg (s : State) (i : Nat) : Option Word64 :=
  match s.localReg i with
  | some v => some (BitVec.ofNat 64 v)
  | none => if isControl s.focus then (s.controlReg i).map (BitVec.ofNat 64) else none

/-! ### Writes -/

/-- PHCTL, PHS and LPST of a context take the writable part of a value; PHN takes none (R53 to R56). -/
def Ctx.writePhase (x : Ctx) (i : Nat) (v : Word64) : Ctx :=
  match i with
  | 0 => { x with dwt := v.getLsbD 0, rot := v.getLsbD 1 }
  | 1 => { x with dw := x.dw && !v.getLsbD 0 }
  | 2 => x
  | _ => { x with rpos := v.setWidth 3, tail := (v >>> 8).setWidth 8 }

/-- The fields of an HCFG value are valid (R314, R315). -/
def hcfgOk (v : Nat) : Bool :=
  let base := v % 2 ^ 20
  let ssz := v / 2 ^ 20 % 2 ^ 11
  let nslot := v / 2 ^ 32 % 2 ^ 13
  decide (v / 2 ^ 49 % 8 ≠ 6)
    && (if v / 2 ^ 52 % 2 = 1 then base == 0 && ssz == 0 && nslot == 0
        else decide (1 ≤ nslot) && decide (nslot ≤ 4096) && decide (1 ≤ ssz) && decide (ssz ≤ 1024)
          && decide (base % 64 = 0) && decide (base + 64 * ssz * nslot ≤ Config.tessSize))

/-- A hod as a creating write makes it (R315). -/
def hodOf (v own : Nat) : Hod :=
  { own := own, priv := v / 2 ^ 55 % 2 == 1, en := true, carry := v / 2 ^ 53 % 2 == 1, mode := v / 2 ^ 52 % 2 == 1,
    scope := BitVec.ofNat 3 (v / 2 ^ 49), nslot := BitVec.ofNat 13 (v / 2 ^ 32), ssz := BitVec.ofNat 11 (v / 2 ^ 20),
    base := BitVec.ofNat 20 v }

/-- An SWR to HCFG: creation, destruction, or nothing (R315). -/
def Core.writeHcfg (k : Core) (j v own : Nat) : Core :=
  let h := k.hod j
  if v / 2 ^ 54 % 2 = 0 then (if h.en then k.setHod j { h with en := false } else k)
  else if h.en || !hcfgOk v then k
  else k.setHod j (hodOf v own)

/-- The trace unit keeps what it works with in cycle `t`, whose write of TRCTL or TRRB takes effect in the next one
(R448). -/
def Core.holdTrace (k : Core) (t : Nat) : Core :=
  match k.trWas with
  | some w => if w.at_ = t then k else { k with trWas := some ⟨k.trctl, k.trrb, k.trFault, t⟩ }
  | none => { k with trWas := some ⟨k.trctl, k.trrb, k.trFault, t⟩ }

/-- A write of the trace ring base in cycle `t` clears TRST (R448). -/
def Core.writeTrrb (k : Core) (t : Nat) (v : Word64) : Core :=
  { k.holdTrace t with trrb := v &&& 0x0000FFFFFFFFFFC0, trFault := false, trDrop := 0 }

/-- MXCFG sets the bay and invalidates every bay entry (R183). -/
def Core.writeMxcfg (k : Core) (v : Word64) : Core := { k with mxcfg := v.setWidth 2, bay := [] }

/-- INTP: the ones of a write of SVC clear pending bits (R392). -/
def Core.writeIntp (k : Core) (v : Word64) : Core := { k with intp := k.intp &&& ~~~ (v.setWidth 16) }

/-- DTQn takes the header address; from the next selection the distributor uses it, and examines the header again (R354,
R355). -/
def State.writeDtq (s : State) (n : Nat) (v : Word64) : State :=
  { s with dtq := Tbl.set 0 s.dtq n (v &&& 0x0000FFFFFFFFFFC0), dtqNew := s.dtqNew.filter (· != n) ++ [n] }

/-- RCLSc, unless its dies meet another class's (R355). -/
def State.writeRcls (s : State) (c : Nat) (v : Word64) : State :=
  let w := v &&& 0x00000000FFFF00FF
  if c = 0 ∨ s.rcls.any (fun e => decide (e.1 ≠ c) && (e.2 &&& w &&& 0xFF) != 0) then s
  else { s with rcls := Tbl.set 0 s.rcls c w }

/-- A write of a control core to a device register (R240, R355, R428, R463). -/
def State.writeControl (s : State) (i : Nat) (v : Word64) : State :=
  if 0x080 ≤ i ∧ i ≤ 0x08F then
    let w := (v &&& 0x00000001FFF07F03) ^^^ (if i = 0x080 then 0x00000001FFF05001 else 0)
    { s with geot := Tbl.set 0 s.geot (i - 0x080) w }
  else if 0x200 ≤ i ∧ i ≤ 0x21F then
    (if i % 2 = 0 then s.writeDtq ((i - 0x200) / 2) v
      else { s with dtc := Tbl.set 0 s.dtc ((i - 0x200) / 2) (v &&& 0xFFFF00) })
  else if 0x220 ≤ i ∧ i ≤ 0x22F then s.writeRcls (i - 0x220) v
  else if i = 0x240 then { s with scrbPer := v.setWidth 16, scrbEn := v.getLsbD 16 }
  else if i = 0x242 then
    let p := v.toNat / 2 ^ 32 % 4096
    let t := v.toNat % 256
    if 1000 ≤ p ∧ p ≤ 2600 ∧ 80 ≤ t ∧ t ≤ 105 then { s with plim := BitVec.ofNat 12 p, tlim := BitVec.ofNat 8 t } else s
  else if 0x248 ≤ i ∧ i ≤ 0x24F then
    s.setDie (i - 0x248) { s.die (i - 0x248) with req := v.setWidth 2, uvx := (v >>> 4).setWidth 1 }
  else s

/-- A write of SVC to a register that only SVC writes (R388). -/
def State.writeSvc (s : State) (i : Nat) (v : Word64) : State :=
  let k := s.kore
  if i = 0x008 then
    let b := v.toNat / 65536 % 65536
    s.setKore { k with primSet := some (v.getLsbD 0, s.me.clock), secbnd := BitVec.ofNat 16 (if 1 ≤ b ∧ b ≤ 15 then 16 else b) }
  else if i = 0x063 then s.setStrand { s.strand with wdt := v.setWidth 32 }
  else if i = 0x0A0 then s.setKore { k with hvb := v &&& 0x0000FFFFFFFFE000 }
  else if i = 0x0A2 then s.setStrand { s.strand with rcnt := (v >>> 56).setWidth 8 }
  else if i = 0x0A4 then s.setKore (k.writeIntp v)
  else if i = 0x0A5 then s.setKore { k with intm := v.setWidth 16 }
  else if 0x300 ≤ i ∧ i ≤ 0x303 then s.setStrand (s.strand.writePhase (i - 0x300) v)
  else s

/-- A write of any context to a register that any context writes (R388). -/
def State.writeAny (s : State) (i : Nat) (v : Word64) : State :=
  let k := s.kore
  if i ≤ 3 then s.setMe (s.me.writePhase i v)
  else if i = 0x058 then s.setStrand { s.strand with fmtt := v }
  else if i = 0x060 then s.setKore (k.writeMxcfg v)
  else if i = 0x061 then s.setKore { k with mxRepl := v.setWidth 8, mxUnchk := (v >>> 16).setWidth 16 }
  else if i = 0x0B1 then s.setKore { k.holdTrace s.me.clock with trctl := v &&& 0x0000FFFF00000F1F }
  else if i = 0x0B2 then s.setKore (k.writeTrrb s.me.clock v)
  else if i = 0x0B4 then
    s.setKore { k with pmcsel := (v &&& 0x00000003FFFFFFFF) ||| (k.pmcsel &&& 0x0000010000000000 &&& ~~~ v) }
  else if 0x0B5 ≤ i ∧ i ≤ 0x0B8 then s.setKore { k with pmc := Tbl.set 0 k.pmc (i - 0x0B5) (v &&& 0x0000FFFFFFFFFFFF) }
  else if i = 0x0BA then s.setStrand { s.strand with wpb0 := v &&& 0xE000FFFFFFFFFFFF }
  else if i = 0x0BB then s.setStrand { s.strand with wpl0 := v &&& 0xF0000000FFFFFFFF }
  else if i = 0x0BC then s.setStrand { s.strand with wpb1 := v &&& 0xE000FFFFFFFFFFFF }
  else if i = 0x0BD then s.setStrand { s.strand with wpl1 := v &&& 0xF0000000FFFFFFFF }
  else if 0x100 ≤ i ∧ i ≤ 0x17F ∧ i % 4 = 0 then
    s.setKore (k.writeHcfg ((i - 0x100) / 4) v.toNat (bankOf s.cx))
  else s

/-- An SWR's effect: the writers R388 names, and nothing else (R9, R389). -/
def State.writeSys (s : State) (i : Nat) (v : Word64) : State :=
  let s := s.writeAny i v
  let s := if s.cx = .svc then s.writeSvc i v else s
  if isControl s.focus then s.writeControl i v else s

/-- The matrix channel holds an operation that is queued, running or suspended (R183, R190). -/
def Core.matrixBusy (k : Core) : Bool := k.ops.any (fun o => o.ch == 4 && !settledCode o.state)

/-- SRD (R389, R393). -/
def execSrd (h : Hdr) (d : BitVec 5) (i : BitVec 10) (s : State) : Out :=
  match s.sysReg i.toNat with
  | none => s.raise 1 1 6 (s.slotWord 6)
  | some v => s.whenOn h fun s => s.putS d v h.land 1

/-- SWR (R183, R389, R393). -/
def execSwr (h : Hdr) (d : BitVec 5) (i : BitVec 10) (s : State) : Out :=
  match s.sysReg i.toNat with
  | none => s.raise 1 1 6 (s.slotWord 6)
  | some _ => s.whenOn h fun s =>
    if i = 0x060 && s.kore.matrixBusy && !s.iss.judged then s.hold 8
    else (s.escape.writeSys i.toNat (s.me.s d.toNat)).done

/-! ### Writes as events of the core in focus -/

/-- HCFG_CREATE (R315): a write that sets EN of a hod that does not exist, with valid fields. -/
def execHcfgCreate (hod : BitVec 5) (v : Word64) (s : State) : Out :=
  if v.toNat / 2 ^ 54 % 2 = 0 then .next s
  else .next (s.setKore (s.kore.writeHcfg hod.toNat v.toNat (bankOf s.cx)))

/-- HCFG_DESTROY (R315): a write with EN = 0. -/
def execHcfgDestroy (hod : BitVec 5) (v : Word64) (s : State) : Out :=
  if v.toNat / 2 ^ 54 % 2 = 1 then .next s
  else .next (s.setKore (s.kore.writeHcfg hod.toNat v.toNat (bankOf s.cx)))

/-- MXCFG_WRITE (R183): held while the matrix channel holds an unsettled operation. -/
def execMxcfgWrite (v : Word64) (s : State) : Out :=
  if s.kore.matrixBusy then .next s else .next (s.setKore (s.kore.writeMxcfg v))

/-- INTP_WRITE (R392): a write of SVC. -/
def execIntpWrite (v : Word64) (s : State) : Out := .next (s.setKore (s.kore.writeIntp v))

/-- TRRB_WRITE (R448). -/
def execTrrbWrite (v : Word64) (s : State) : Out := .next (s.setKore (s.kore.writeTrrb s.me.clock v))

/-- DTQ_WRITE (R354, R355). -/
def execDtqWrite (ten : BitVec 4) (v : Word64) (s : State) : Out := .next (s.writeDtq ten.toNat v)

/-- RCLS_WRITE (R355). -/
def execRclsWrite (cls : BitVec 4) (v : Word64) (s : State) : Out := .next (s.writeRcls cls.toNat v)

end Sys2Proof.Machine
end

