-- ==== Sys2Proof/Machine/Traps.lean ====
section
/-! DEFINITION. Trap order and return, TRAP, BKPT and HALT, reaching another context, context images, host ingress, and
phase replay (18 R367 to R383, 19 R394 to R401, 14 R310 to R312). -/

namespace Sys2Proof.Machine

/-- The context holds a running strand; on a control core it runs firmware (R391). -/
def State.holds (s : State) (c : Nat) (cx : CtxId) : Bool :=
  let x := s.ctxAt c cx
  !x.halted && (x.gang != 0 || isControl c)

/-! ### Pending traps at a boundary (R371, R372, R409, R416) -/

/-- The asynchronous trap of a context to be taken first, with its INFO and slot: DIE_LOST, UE_DATA, KFAULT, each
oldest first. -/
def Ctx.firstAsync (x : Ctx) : Option AsyncTrap :=
  match x.asyncs.find? (·.code == 20) with
  | some a => some a
  | none =>
    match x.asyncs.find? (·.code == 13) with
    | some a => some a
    | none => x.asyncs.head?

/-- The interrupt source that a context takes: the lowest enabled and pending, by the primary when it holds a strand and
by the secondary otherwise (R392). -/
def State.interruptOf (s : State) (c : Nat) (cx : CtxId) : Option Nat :=
  let k := s.core c
  let on := k.intp &&& k.intm
  let taker := if s.holds c k.primary then k.primary else otherCtx k.primary
  if on != 0 && decide (taker = cx) && s.holds c cx then some (lowestBit on 16) else none

/-- The trap pending at the boundary of a full context, by the order of R371: code, INFO, and the context with what is
no longer pending removed. -/
def State.pendingTrap (s : State) (c : Nat) (cx : CtxId) : Option (Nat × Word64 × Ctx) :=
  let x := s.ctxAt c cx
  match x.firstAsync with
  | some a => some (a.code, a.info, { x with asyncs := x.asyncs.erase a })
  | none =>
    if x.preempt then some (19, 0, { x with preempt := false })
    else match s.interruptOf c cx with
      | some n =>
        some (18, BitVec.ofNat 64 n, x.acquire ((s.relAt (bellRel c n)).flatMap (·.deps)))
      | none =>
        match x.pageFault with
        | some va => some (12, va, { x with pageFault := none })
        | none => none

/-- The boundary of a full context: a pending trap is taken, and after those of R371 one that an issued bundle has raised
and that was kept (R368, R371, R372); the state, and whether the context stops there. While SVC is busy the context stops
and what is pending stays pending. -/
def State.boundary (s : State) (c : Nat) (cx : CtxId) : State × Bool :=
  let k := s.core c
  let y := k.ctx cx
  match s.pendingTrap c cx, y.kept with
  | none, none => (s, false)
  | none, some (code, slot, info, pc, async) =>
    if k.busy cx then (s.setCtxAt c cx { y with trapped := true }, true)
    else (s.setCore c ((k.setCtx cx { y with kept := none }).takeTrap cx code slot info pc async false), true)
  | some (code, info, x), _ =>
    if k.busy cx then (s.setCtxAt c cx { y with trapped := true, holding := false, held := 0, skipped := 0 }, true)
    else
      let s := s.setCtxAt c cx x
      let s := if code = 18 then
          s.setCtxAt c .svc ((s.ctxAt c .svc).acquire x.must)
        else s
      (s.setCore c ((s.core c).takeTrap cx code 7 info x.pc true false), true)

/-- TRAP_ENTRY (R372): a trap that a context has due is entered when it can be; otherwise the context's boundary takes
what is pending. -/
def execTrapEntry (core : Nat) (cx : CtxId) (s : State) : Out :=
  let x := s.ctxAt core cx
  if cx = .svc then .next s
  else if x.trapped then .next (s.setCore core ((s.core core).tryEnter cx))
  else if s.holds core cx then .next (s.boundary core cx).1
  else .next s

/-! ### TRAP and BKPT (R394) -/

/-- TRAP: the bundle issues whole and then raises SVCALL with the code. -/
def execTrap (h : Hdr) (i : BitVec 13) (s : State) : Out :=
  s.whenOn h fun s =>
    let s := s.escape
    { s with iss := { s.iss with svc := some (BitVec.ofNat 64 (s.immU 6 i)) } }.done

/-- BKPT: precise, after every other check of R79; it escapes its phase (R381). -/
def execBkpt (h : Hdr) (i : BitVec 13) (s : State) : Out :=
  s.whenOn h fun s => (s.setMe { s.me with esc := true }).raise 8 16 7 (BitVec.ofNat 64 (s.immU 6 i))

/-! ### RETT (R376, R395) -/

/-- A load record of a frame (R375): its bundle, word, slot, entry index and IMX word. -/
structure LoadRec where
  pc   : Word64
  word : Word32
  slot : Nat
  idx  : Nat
  imx  : Word32
deriving DecidableEq, Repr

/-- Load record `j` of the frame at `b`. -/
def loadRec (m : Mem) (b j : Nat) : LoadRec :=
  let l := b + 0x680 + 32 * j
  let w := Mem.read m (l + 12) 4
  { pc := BitVec.ofNat 64 (Mem.read m l 8), word := BitVec.ofNat 32 (Mem.read m (l + 8) 4), slot := w % 8, idx := w / 8,
    imx := BitVec.ofNat 32 (Mem.read m (l + 24) 4) }

/-- The access that a reissued read makes, from its slot word: its checks, and the record put on the core; no guard is
judged again (R376). The state is focused on the served context. -/
def State.reread (s : State) (un : CUnit) (word : Word32) : Out :=
  let all := BitVec.allOnes 128
  match decodeSlot (match un with | .c0 => .c0 | .c1 => .c1) word with
  | .ok (.ldr _ h _ a w o) =>
    let size := sizeOfW w
    let _ := h
    s.cScalar un (s.addrFM (cnum un) a o size) size 1 fun loc s =>
      (s.issueAccess un (.load (decide (w.toNat < 4))) size 0 [⟨loc, 0, size⟩] 0 0 all none false).done
  | .ok (.lda _ _ _ a c o) =>
    s.cScalar un (s.addrFM (cnum un) a o 8) 8 1 fun loc s =>
      (s.issueAccess un (.load false) 8 0 [⟨loc, 0, 8⟩] 0 0 all (some c.toNat) false).done
  | .ok (.vldr _ h _ a b m) =>
    let (e, stride, idx) := s.fvm m a b
    let part := partOf m false (s.lanes h)
    s.cVector un m.toNat (laneAddrs m.toNat e stride idx part) 1 fun ps s =>
      (s.issueAccess un (.load false) 512 0 ps 0 0 part none true).done
  | .ok (.kstat _ _ _ a f) =>
    let t := s.me.k a.toNat
    match s.tokCore s.focus s.strand.gang t with
    | none => s.done
    | some c => (s.issueAccess un (.kstat t f.toNat) 8 0 [⟨.tess c 0, 0, 0⟩] 0 0 all none false).done
  | _ => s.done

/-- The lanes that take part in a reissued read. -/
def State.rereadLanes (s : State) (word : Word32) : Pred :=
  match decodeSlot .c1 word with
  | .ok (.vldr _ h _ _ _ m) => partOf m false (s.lanes h)
  | _ => BitVec.allOnes 128

/-- One load of the frame is reissued for the served context, and keeps the place of its bundle in the context's order
(R259, R260, R376): the state, or the failing check's code, slot and INFO
with TADDR and TVEC set (R376). -/
def State.reissue (s : State) (cx : CtxId) (r : LoadRec) : State × Option (Nat × Nat × Word64) :=
  let un : CUnit := if r.slot = 4 then .c0 else .c1
  let imx : Option (Nat × BitVec 23) := if r.imx = 0 then none else some (r.slot, r.imx.setWidth 23)
  let t : State := { s with cx := cx, iss := { imx := imx, words := (List.replicate 7 0).set r.slot r.word ++ [r.imx] } }
  match t.reread un r.word with
  | .next u =>
    match u.iss.out with
    | .trapped _ slot code info =>
      let y := u.ctxAt s.focus cx
      let x := s.ctxAt s.focus cx
      (s.setCtxAt s.focus cx { x with taddr := y.taddr, tvecKind := y.tvecKind, tvec := y.tvec }, some (code, slot, info))
    | _ =>
      let k := u.kore
      let id := k.nextId - 1
      let made := k.accs.any (fun a => a.id == id) && decide (s.kore.nextId < k.nextId)
      let lanes := t.rereadLanes r.word
      let x := k.ctx cx
      let old := x.origins.find? (fun o => o.pc == r.pc && o.word == r.word && decide (o.slot = r.slot))
      let x := { x with
        pwq := x.pwq.mapIdx (fun i (e : Pwq) => if i = r.idx then
          (if made then { e with acc := id, lanes := if e.reg / 32 = 5 then lanes else e.lanes }
            else { e with val := some 0, ready := x.clock }) else e),
        origins := match old with | some o => x.origins.erase o | none => x.origins }
      let k := { k with accs := k.accs.map (fun (a : Access) => if a.id = id then
        { a with writes := true, pc := r.pc, word := r.word, imxw := r.imx,
                 bundle := (old.map (fun (o : Origin) => o.bundle)).getD (a.bundle - 1) } else a) }
      ({ u with cx := s.cx, iss := s.iss }.setKore (k.setCtx cx x), none)
  | _ => (s, none)

/-- The loads of the frame are reissued in order, until one fails (R376). -/
def State.reissueAll (s : State) (cx : CtxId) : List LoadRec → State × Option (Nat × Nat × Word64)
  | [] => (s, none)
  | r :: rs =>
    match s.reissue cx r with
    | (s, some f) => (s, some f)
    | (s, none) => s.reissueAll cx rs

/-- An SVC fault of the bundle in focus that has no trap code of its own (R368). -/
def State.svcStop (s : State) (sub : Nat) : Out :=
  let t := s.svcFault sub
  .next { t with iss := { t.iss with out := .trapped 6 6 0 0 } }

/-- The queue of the served context as the frame gives it, in frame order (R376). -/
def Ctx.fromFrame (x : Ctx) (m : Mem) (now : Nat) : Ctx :=
  x.restoreEntries m (Mem.read m x.tfb.toNat 8 / 2097152 % 64) now

/-- The lines of the frame at `b` (R373). -/
def frameLines (b : Nat) : List Nat := (List.range 34).map (b / 64 + ·)

/-- RETT reads its frame's lines: a second read that comes clean supplies them, and a line still bad is an SVC fault with
UE_DATA before RETT does anything (R368, R380, log entry 129). -/
def State.frameRead (s : State) (b : Nat) (k : State → Out) : Out :=
  let bad := s.kore.badLines false (frameLines b)
  let soft := s.kore.softLines false (frameLines b)
  if bad.isEmpty && soft.isEmpty then k (s.corrected s.focus 0 (frameLines b))
  else
    let s := s.readErrors false (frameLines b) bad soft
    if bad.isEmpty then k s else s.svcStop 13

/-- RETT (R376, R395). It reads the frame as it stood before its bundle, acts after the bundle's other slots, and SVC goes
on, if at all, at the handler of the next trap. -/
def execRett (h : Hdr) (s : State) : Out :=
  s.svcOnly fun s => s.whenOn h fun s =>
    if !s.me.pwq.isEmpty && !s.iss.judged then s.hold 14
    else match s.kore.serving with
      | none => s.svcStop 0x81
      | some (cx, _) =>
        let k := s.kore
        let x := k.ctx cx
        let b := x.tfb.toNat
        let f := s.iss.before.getD k.tess
        s.inTurn (frameLines b) fun s => s.frameRead b fun s =>
        if !frameOk f b then s.svcStop 0x80
        else
          let now := s.me.clock + 1
          let n := Mem.read f b 8 / 134217728 % 32
          let s := s.setKore (s.kore.setCtx cx (x.fromFrame f now))
          let (s, bad) := s.reissueAll cx ((List.range n).map (loadRec f b))
          let s := match bad with
            | none => s.setKore (s.kore.leave f cx now)
            | some (code, slot, info) => s.setKore (s.kore.leaveFailed f cx now code slot info)
          (s.setIss { s.iss with next := some s.me.pc }).done

/-! ### Another context's registers (R396) -/

/-- SVC may reach a context: the served one, or one that holds no strand (R396). -/
def State.reachable (s : State) (cx : CtxId) : Bool :=
  (match s.kore.serving with | some (t, _) => decide (t = cx) | none => false) || !s.holds s.focus cx

/-- The register that an XREG class code and index name. -/
def xregKey (k : BitVec 3) (a : BitVec 5) : Nat :=
  regKey (match k.toNat with | 0 => 0 | 1 => 1 | 2 => 1 | 3 => 2 | 4 => 3 | _ => 4) a.toNat

/-- A face of a register: visible or hidden. -/
def Two.face (t : Two) (hidden : Bool) : Vec := if hidden then t.hid else t.vis

/-- A register with one face replaced; no W bit, selector or stamp changes (R396). -/
def Two.setFace (t : Two) (hidden : Bool) (v : Vec) : Two := if hidden then t.setHid v else t.setVis v

/-- The full context of a one-bit field. -/
def ctxBit (c : BitVec 1) : CtxId := if c = 0 then .cb0 else .cb1

/-- XREG, read (R396). -/
def execXregRd (h : Hdr) (d a : BitVec 5) (f c : BitVec 1) (k : BitVec 3) (s : State) : Out :=
  s.svcOnly fun s => s.whenOn h fun s => s.dest (keyS d.toNat) h.land.toNat (decide (0 < h.land.toNat)) fun s =>
    if !s.reachable (ctxBit c) then s.raise 6 7 6 0
    else
      let v := (((s.kore.ctx (ctxBit c)).two (xregKey k a)).face (f == 1)).toNat
      let w := if k = 2 then v / 2 ^ 64 else v
      s.putS d (if xregKey k a = 0 then 0 else BitVec.ofNat 64 w) h.land 1

/-- XREG, write (R396): an escaping operation of the target's phase (R381). -/
def execXregWr (h : Hdr) (d a : BitVec 5) (f c : BitVec 1) (k : BitVec 3) (s : State) : Out :=
  s.svcOnly fun s => s.whenOn h fun s =>
    if !s.reachable (ctxBit c) then s.raise 6 7 6 0
    else
      let x := s.kore.ctx (ctxBit c)
      let key := xregKey k a
      let t := x.two key
      let old := (t.face (f == 1)).toNat
      let v := (s.me.s d.toNat).toNat
      let w := match k.toNat with
        | 1 => old / 2 ^ 64 * 2 ^ 64 + v
        | 2 => old % 2 ^ 64 + v * 2 ^ 64
        | 5 => v % 2 ^ 32
        | _ => v
      let x := if key = 0 then x else x.setTwo key (t.setFace (f == 1) (BitVec.ofNat 4096 w))
      (s.setKore (s.kore.setCtx (ctxBit c) { x with esc := true })).done

/-! ### Ingress (R398) -/

/-- HWIN: the oldest ingress record is applied as stores of the context. -/
def execHwin (h : Hdr) (a : BitVec 5) (s : State) : Out :=
  s.whenOn h fun s =>
    match s.kore.ingress with
    | [] => s.waitFor s.lim
    | r :: rest =>
      let x := s.me
      if r.seq ≠ (x.s a.toNat).setWidth 32 then s.raise 6 7 6 0
      else match (List.range r.data.length).find? (fun i => (x.mapOwn true (r.ofs + i)).isNone) with
        | some i => s.raise 6 5 6 (BitVec.ofNat 64 (r.ofs + i))
        | none =>
          -- its bytes are written in its issue cycle (R292), over those of the bundle's other stores (R80)
          if s.kore.delayed.any (fun d => d.cx == s.cx) then s.hold 10
          else s.inTurn (x.physLines true [⟨r.ofs, 0, r.data.length⟩]) fun s =>
            let s := s.ownStore false [⟨r.ofs, 0, r.data.length⟩] (leAt r.data 0 r.data.length)
            ((s.setKore { s.kore with ingress := rest }).escape).done

/-! ### HALT (R310, R311, R401, R133) -/

/-- The attached operations of the strand in focus, which its HALT waits for: its own bundle's among them, so a HALT
beside an attached operation's issue is held (R311). -/
def State.attached (s : State) : List ChildOp :=
  let x := s.me
  s.kore.ops.filter (fun o => !o.det && decide (o.owner = 0) && decide (o.gang = x.gang)
    && decide (o.ownerSidx = x.sidx.toNat))

/-- Detached operations of a strand that ends pass to the anchor of its parent level, or outward (R310); one that is
faulted when it passes to the runtime queue is reported. -/
def State.passOps (s : State) (g sidx : Nat) : State :=
  (s.gang g).place.foldl (fun (s : State) e =>
    match e.2 with
    | none => s
    | some c => (s.core c).ops.foldl (fun (s : State) o =>
        if o.gang = g ∧ o.owner ≠ 2 ∧ o.ownerSidx = sidx ∧ o.det ∧ !completeCode o.state then
          match s.heir g sidx ((s.gang g).levels.length - 1) with
          | some a => s.setCore c ((s.core c).setOp { o with owner := 1, ownerSidx := a })
          | none =>
            let q := { o with owner := 2 }
            let s := s.setCore c ((s.core c).setOp q)
            if q.state = 6 then s.reportOp q 2 else s
        else s) s) s

/-- The launch queue's header address of a tenant, as the distributor's latest selection took it (R355). -/
def State.lqHdr (s : State) (ten : Nat) : Nat := (Tbl.get 0 s.dtqIn ten).toNat

/-- A claim takes a new STATUS in its slot of the launch queue at `hdr`, written by the distributor as a STRL at DEV (R354,
R357). -/
def State.writeStatus (s : State) (ten hdr claim state code gang : Nat) : State :=
  let (s, h) := s.ringHeader 1 ten hdr 64
  match h with
  | none => s
  | some (_, _, nslot, slotb) =>
    (s.engWrite 1 ten (slotb + 64 * (claim % nslot) + 0x10) 8 (state + 256 * code + gang % 2 ^ 32 * 2 ^ 32)).1

/-- The first claim from `n` on that is not among the completed ones, at most `fuel` claims on. -/
def firstOpen (done : List Nat) : Nat → Nat → Nat
  | 0, n => n
  | fuel + 1, n => if done.contains n then firstOpen done fuel (n + 1) else n

/-- A claim of the launch queue at `hdr` is complete, and DONEI advances up to the first claim that is not: it does not pass
the claim of a suspended gang (R357). -/
def State.bumpDone (s : State) (ten hdr claim : Nat) : State :=
  let (s, v) := s.engRead 1 ten (hdr + 0x10) 8
  let t := s.tenant ten
  match v with
  | .error _ => s
  | .ok n =>
    let done := claim :: (t.doneC.filter (fun e => decide (e.1 = hdr))).map (·.2)
    let m := firstOpen done done.length n
    let s := s.setTenant ten { t with doneC := t.doneC.filter (fun e => decide (e.1 ≠ hdr))
      ++ (done.filter (fun c => decide (m < c))).map (fun c => (hdr, c)) }
    if m = n then s else (s.engWrite 1 ten (hdr + 0x10) 8 m).1

/-- A gang is done: every strand has halted (R357, R401). -/
def State.gangDone (s : State) (g : Nat) : State :=
  let x := s.gang g
  let s := s.setGang g { x with state := 7 }
  let s := { s with farStrands := s.farStrands.filter (fun f => !(isFabric x.levels && f.ten == x.ten
    && f.rec_ == x.recVa.toNat && f.nth == x.nth)),
                    farColls := s.farColls.filter (fun f => !(isFabric x.levels && f.ten == x.ten && f.rec_ == x.recVa.toNat
                      && f.nth == x.nth)) }
  (s.writeStatus x.ten x.hdr x.claim 4 0 g).bumpDone x.ten x.hdr x.claim

/-- HALT. In SVC it is an SVC fault (R368). It judges operations after the other slots of its bundle (R342). -/
def execHalt (h : Hdr) (s : State) : Out :=
  s.whenOn h fun s =>
    if s.cx = .svc then s.svcStop 0x82
    else
      let mine := s.attached
      if mine.any (fun o => !settledCode o.state) then s.hold 13
      else match mine.find? (fun o => o.state == 6) with
        | some o => s.raise 6 15 6 o.token
        | none =>
          let x := s.me
          let k := s.kore
          -- a due value lands, which SVC may read (R24); what is still to come is dropped
          let x : Ctx := (x.pwq.filter (fun (e : Pwq) => e.rem == 0 && e.val.isSome && !e.poison)).foldl Ctx.landEntry x
          let x := { x with pwq := [], halted := true }
          let k := { k with accs := k.accs.filter (fun a => !(a.cx == s.cx && a.op.isRead)),
                            delayed := k.delayed.filter (fun d => !(d.cx == s.cx && !d.store)) }
          let s := (s.setKore (k.setCtx s.cx x)).escape
          if x.gang = 0 then s.done
          else
            let s := (s.passOps x.gang x.sidx.toNat).tellPeers x.gang (fun t r n => .halted t r n x.sidx.toNat)
            let g := s.gang x.gang
            let s := s.setGang x.gang { g with unhalted := g.unhalted - 1 }
            (if g.unhalted ≤ 1 then s.gangDone x.gang else s).done

/-! ### Phase replay (R382, R383) -/

/-- A transient error of the context's current phase is judged: a clean first pass is replayed from its start, anything
else raises UE_DATA. What earlier phases issued goes on (R382). -/
def State.replay (s : State) (c : Nat) (cx : CtxId) : State :=
  let x := s.ctxAt c cx
  if !x.transient && !x.resid then s
  else if x.esc || x.rpl then
    let s := if x.resid then s.residue c false else s
    s.setCtxAt c cx { x with transient := false, resid := false, asyncs := x.asyncs ++ [{ code := 13 }] }
  else
    let s := if x.resid then s.residue c true else s
    let k := s.core c
    let ck := x.check
    let tess := x.hidW.foldl (fun m l => Mem.clear m (64 * l) 64) k.tess
    let tess := (ck.pairBytes.filter (fun b => x.hidW.contains (b.1 / 64))).foldl (fun m b => Mem.setByte m b.1 b.2) tess
    -- an earlier phase's operation that has completed since stays complete (R303)
    let done := fun (t : Tbl (BitVec 32)) ch =>
      let d := Tbl.get 0 x.dones ch
      let i := Tbl.get 0 ck.seqs ch
      Tbl.set 0 t ch (if olderStamp i d then i else d)
    let y := { x with
      regs := ck.regs, pwq := ck.pwq, lr := ck.lr, tail := ck.tail, rpos := ck.rpos, dw := ck.dw, segCnt := ck.segCnt,
      segSig := ck.segSig, sega := ck.sega, seqs := ck.seqs, dones := (List.range 8).foldl done [], rpl := true,
      hidW := [], ckKeys := [],
      rcnt := if x.rcnt = 0xFF then x.rcnt else x.rcnt + 1, pc := x.pstart, owed := none, ready := 0, transient := false, resid := false,
      phase0 := x.bundles, holding := false, held := 0, waited := 0, skipped := 0 }
    let k := { (k.count 21 (some cx) 1) with
      tess := tess,
      accs := k.accs.filter (fun a => !(a.cx == cx && decide (x.phase0 ≤ a.bundle))),
      delayed := k.delayed.filter (fun d => !(d.cx == cx && decide (x.phase0 ≤ d.bundle))),
      ops := k.ops.filter (fun o => !(o.cx == cx && decide (ck.opOrder < o.order))) }
    s.setCore c (k.setCtx cx y)

/-- PHASE_REPLAY (R382). -/
def execPhaseReplay (core : Nat) (cx : CtxId) (s : State) : Out := .next (s.replay core cx)

end Sys2Proof.Machine
end

