-- ==== Sys2Proof/Machine/Images.lean ====
section
/-! DEFINITION. Context images: SAVEPH and LOADPH (19 R397, with R374, R227, R303, R236). -/

namespace Sys2Proof.Machine

/-- Registers of each class of R374, in class order s, p, m, k, lc, v. -/
def classCount : List Nat := [32, 16, 8, 16, 4, 32]

/-- Bytes of a face of each class. -/
def classBytes : List Nat := [8, 16, 8, 8, 4, 512]

/-- The keys of all two-faced registers, in class order. -/
def allKeys : List Nat := (classCount.zipIdx).flatMap (fun e => (List.range e.1).map (regKey e.2))

/-- The keys of the classes that the block at 0x180 holds, with their offset in it and the bytes of a face. -/
def faceSlots : List (Nat × Nat × Nat) :=
  let starts := [0, 512, 1024, 1152, 1408]
  (List.range 5).flatMap (fun c => (List.range (classCount.getD c 0)).map (fun i =>
    (regKey c i, starts.getD c 0 + 2 * (classBytes.getD c 0) * i, classBytes.getD c 0)))

/-- Bits as a number, the first the least significant. -/
def bitsNat (l : List Bool) : Nat := l.foldr (fun b a => b.toNat + 2 * a) 0

/-- The dynamic entry in the words of XR (R238): page address, placement and permissions, virtual base, size and V. -/
def Dyn.bytes (d : Dyn) : List Byte :=
  natToBytes 8 d.pa ++ natToBytes 8 (d.plc.toNat + 2 ^ 32 * d.perm.toNat) ++ natToBytes 8 d.base
    ++ natToBytes 8 (d.v.toNat + 4 * (if d.size = 0x10000 then 0 else if d.size = 0x200000 then 1 else 2))

/-- The dynamic entry of 32 bytes. -/
def dynOf (b : List Byte) : Dyn :=
  let w1 := leAt b 8 8
  let w3 := leAt b 24 8
  if w3 % 2 = 0 then {}
  else { v := true, pa := leAt b 0 8, plc := BitVec.ofNat 32 w1, perm := BitVec.ofNat 3 (w1 / 2 ^ 32), base := leAt b 16 8,
         size := pageBytes (w3 / 4 % 4) }

/-- The 160 bytes of a fill record (log entry 41): first line, lines, packet length, issue order, the formats, the
packet. A packet that does not fit leaves no record. -/
def fillBytes (f : Option Fill) : List Byte :=
  match f with
  | some f =>
    if 144 < f.pkt.length then List.replicate 160 0
    else (natToBytes 4 f.first ++ natToBytes 4 f.count ++ natToBytes 2 f.pkt.length ++ natToBytes 4 f.order
      ++ natToBytes 1 f.fromF ++ natToBytes 1 f.toF ++ f.pkt ++ List.replicate 144 0).take 160
  | none => List.replicate 160 0

/-- The fill record of 160 bytes. -/
def fillOf (b : List Byte) : Option Fill :=
  let n := leAt b 8 2
  if n = 0 then none
  else some { pkt := (b.drop 16).take n, fromF := leAt b 14 1, toF := leAt b 15 1, first := leAt b 0 4, count := leAt b 4 4,
              got := (2 ^ leAt b 4 4 - 1) * 2 ^ leAt b 0 4, order := leAt b 10 4 }

/-- A vector entry whose value is resident holds all its lanes: inactive ones take the visible value (log entry 41). -/
def Ctx.wholeLanes (x : Ctx) (e : Pwq) : Pwq :=
  match e.val with
  | some v => { e with val := some (mergeFor e.reg e.lanes v (x.vis e.reg)), lanes := BitVec.allOnes 128 }
  | none => e

/-- Registers written in the current phase (R397): the hidden face has a value of this phase, W is newly set, or the image
that the context was loaded from has a record of them. -/
def Ctx.writtenKeys (x : Ctx) : List Nat :=
  allKeys.filter (fun q => (x.two q).stamp.isSome || ((x.two q).w && !(Tbl.get {} x.check.regs q).w) || x.ckKeys.contains q)

/-- A checkpoint record of a register: its hidden face at phase start. -/
def Ctx.regRecord (x : Ctx) (key : Nat) : List Byte :=
  let t := Tbl.get ({} : Two) x.check.regs key
  let v := (if (x.two key).sel then t.f0 else t.f1).toNat
  natToBytes 16 (key / 32 + 256 * (key % 32)) ++ natToBytes (if key / 32 = 5 then 512 else 16) v

/-- The lines of the hidden halves. -/
def Ctx.hiddenLines (x : Ctx) : List Nat :=
  x.pairs.flatMap (fun e =>
    let lo := if e.2.sel then e.2.base else e.2.base + e.2.half
    if e.2.en then (List.range (e.2.half / 64)).map (· + lo / 64) else [])

/-- The hidden-half lines that the phase wrote, with their bytes at phase start. -/
def Ctx.lineRecords (x : Ctx) : List (List Byte) :=
  (x.hiddenLines.filter (x.hidW.contains ·)).map (fun l =>
    natToBytes 16 (7 + 256 * (64 * l))
      ++ (List.range 64).map (fun i => ((x.check.pairBytes.find? (fun b => b.1 == 64 * l + i)).map (·.2)).getD 0))

/-- The image of a context (R397). -/
def Ctx.image (x : Ctx) : List Byte :=
  let pwq : List Pwq := x.pwq.map x.wholeLanes
  let res := pwq.filter (fun e => e.reg / 32 == 5 && e.val.isSome)
  let cks := x.writtenKeys.map x.regRecord ++ x.lineRecords
  let words := [x.lr.toNat, x.xr.w0.toNat, x.xr.w1.toNat, x.xr.w2.toNat, x.xr.w3.toNat, x.phctl, x.phs.toNat, x.phn.toNat,
    x.lpst.toNat, x.rpst.toNat, x.segst.toNat, x.fmtt.toNat, x.wdt.toNat, x.taddr.toNat, x.tvecReg, 0]
  let sels := bitsNat (allKeys.map (fun q => (x.two q).sel)) + 2 ^ 108 * bitsNat (allKeys.map (fun q =>
    (Tbl.get ({} : Two) x.check.regs q).w))
  let faces := faceSlots.foldl (fun (m : Mem) e =>
    Mem.write (Mem.write m e.2.1 e.2.2 (x.two e.1).f0.toNat) (e.2.1 + e.2.2) e.2.2 (x.two e.1).f1.toNat) []
  let body := (words.flatMap (natToBytes 8))
    ++ (List.range 8).flatMap (fun i => natToBytes 8 (x.kdone i))
    ++ (List.range 8).flatMap (fun i => natToBytes 8 (Tbl.get {} x.pairs i).prg)
    ++ natToBytes 64 sels ++ Mem.bytes faces 0 1664
    ++ (List.range 64).flatMap (fun i => (Tbl.get {} x.dyn i).bytes)
    ++ (pwq.flatMap (fun (e : Pwq) => e.save x.origins) ++ List.replicate 1536 0).take 1536
    ++ (List.range 8).flatMap (fun i => fillBytes (Tbl.get {} x.pairs i).fill0 ++ fillBytes (Tbl.get {} x.pairs i).fill1)
    ++ (List.range 32).flatMap (fun i => natToBytes 512 (x.two (regKey 5 i)).f0.toNat
      ++ natToBytes 512 (x.two (regKey 5 i)).f1.toNat)
    ++ res.flatMap (fun e => natToBytes 512 (e.val.getD 0).toNat) ++ cks.flatten
  let len := (64 + body.length + 63) / 64 * 64
  (natToBytes 8 1 ++ natToBytes 4 len ++ natToBytes 1 res.length ++ natToBytes 2 cks.length ++ List.replicate 49 0 ++ body
    ++ List.replicate 63 0).take len

/-- Bytes of a memory are all zero. -/
def zeroAt (m : Mem) (a n : Nat) : Bool := (Mem.bytes m a n).all (· == 0)

/-- FORMAT and the reserved bytes of an image are right, those of its entries among them (R374, R397). -/
def imageOk (m : Mem) (b : Nat) : Bool :=
  Mem.read m b 8 == 1 && zeroAt m (b + 15) 49 && zeroAt m (b + 0xB8) 8 && zeroAt m (b + 0x15B) 37
    && zeroAt m (b + 0x180 + 1440) 224 && (let n := Mem.read m (b + 0x70) 8 / 256 % 64
      decide (n ≤ 48) && zeroAt m (b + 0x1000 + 32 * n) (1536 - 32 * n)
        && (List.range n).all (fun i =>
          decide (Mem.read m (b + 0x1010 + 32 * i) 8 < 2 ^ 18) && zeroAt m (b + 0x101C + 32 * i) 4))

/-- The checkpoint records of an image, from an address: registers and hidden-half bytes. -/
def records (m : Mem) : Nat → Nat → List (Nat × Nat) × List (Nat × Byte)
  | 0, _ => ([], [])
  | n + 1, a =>
    let t := Mem.read m a 4
    let kind := t % 8
    let idx := t / 256
    let size := if kind = 7 then 64 else if kind = 5 then 512 else 16
    let (r, l) := records m n (a + 16 + size)
    if kind = 7 then (r, (List.range 64).map (fun i => (idx + i, Mem.byte m (a + 16 + i))) ++ l)
    else ((regKey kind idx, Mem.read m (a + 16) size) :: r, l)

/-- The queue that an image holds, with the values of RES entries. -/
def imageQueue (m : Mem) (b now : Nat) : List Pwq :=
  let n := Mem.read m (b + 0x70) 8 / 256 % 64
  ((List.range n).foldl (fun (acc : List Pwq × Nat) i =>
    let e := b + 0x1000 + 32 * i
    let d := Mem.read m (e + 16) 8
    let res := d / 4096 % 2 == 1
    let old : Pwq := { val := if res then some (BitVec.ofNat 4096 (Mem.read m (b + 0xA000 + 512 * acc.2) 512)) else none }
    (acc.1 ++ [Pwq.restore old (Mem.read m e 8) (Mem.read m (e + 8) 8) d (Mem.read m (e + 24) 4) now],
      if res then acc.2 + 1 else acc.2)) ([], 0)).1

/-- A paired region from its PRG word and fill records. A region that stands in its place, declared in the bundle whose
flip is still owed, keeps that (R265, log entry 127). -/
def pairOfImage (old : Pair) (g born : Nat) (f0 f1 : Option Fill) : Pair :=
  if g = 0 then {}
  else { fresh := old.fresh && decide (old.base = g % 2 ^ 20) && decide (old.half = g / 2 ^ 20 % 2 ^ 20), en := g / 2 ^ 40 % 2 == 1, base := g % 2 ^ 20, half := g / 2 ^ 20 % 2 ^ 20, ref := g / 2 ^ 41 % 2 == 1,
         dirty0 := g / 2 ^ 42 % 2 == 1, dirty1 := g / 2 ^ 43 % 2 == 1, sel := g / 2 ^ 44 % 2 == 1, fill0 := f0, fill1 := f1,
         born := born }

/-- The context with its state replaced from an image; identity, PC and frame base stay (R397, log entry 41). Its regions
are born as number `born`. -/
def Ctx.fromImage (x : Ctx) (m : Mem) (b now born : Nat) : Ctx :=
  let w := fun (i : Nat) => Mem.read m (b + 0x40 + 8 * i) 8
  let bits := Mem.read m (b + 0x140) 64
  let nres := Mem.read m (b + 12) 1
  let (rr, lines) := records m (Mem.read m (b + 13) 2) (b + 0xA000 + 512 * nres)
  let face := fun (q f : Nat) =>
    if q / 32 = 5 then Mem.read m (b + 0x2000 + 1024 * (q % 32) + 512 * f) 512
    else match faceSlots.find? (fun e => e.1 == q) with
      | some (_, o, n) => Mem.read m (b + 0x180 + o + n * f) n
      | none => 0
  let two := fun (i q : Nat) =>
    ({ f0 := BitVec.ofNat 4096 (face q 0), f1 := BitVec.ofNat 4096 (face q 1), sel := bits.testBit i,
       w := bits.testBit (108 + i) } : Two)
  let start := allKeys.zipIdx.foldl (fun (t : Tbl Two) e =>
    let y := two e.2 e.1
    let y := match rr.find? (fun r => r.1 == e.1) with
      | some r => y.setHid (BitVec.ofNat 4096 r.2)
      | none => y
    Tbl.set {} t e.1 y) []
  let regs := allKeys.zipIdx.foldl (fun (t : Tbl Two) e =>
    let y := two e.2 e.1
    Tbl.set {} t e.1 { y with w := y.w || rr.any (fun r => r.1 == e.1) }) []
  let phctl := w 5
  let lpst := w 8
  let rpst := w 9
  let seg := w 10
  let y := { x with
    regs := regs, lr := BitVec.ofNat 64 (w 0),
    xr := ⟨BitVec.ofNat 64 (w 1), BitVec.ofNat 64 (w 2), BitVec.ofNat 64 (w 3), BitVec.ofNat 64 (w 4)⟩,
    dwt := phctl % 2 == 1, rot := phctl / 2 % 2 == 1, dw := w 6 % 2 == 1, phn := BitVec.ofNat 64 (w 7),
    rpos := BitVec.ofNat 3 lpst, tail := BitVec.ofNat 8 (lpst / 256),
    sega := rpst / 4 % 2 == 1, rpl := rpst / 8 % 2 == 1, esc := rpst / 16 % 2 == 1,
    pstart := BitVec.ofNat 64 (rpst / 32 % 2 ^ 43 * 32 % 2 ^ 48), rcnt := BitVec.ofNat 8 (rpst / 2 ^ 56),
    segCnt := BitVec.ofNat 32 seg, segSig := BitVec.ofNat 32 (seg / 2 ^ 32), fmtt := BitVec.ofNat 64 (w 11),
    wdt := BitVec.ofNat 32 (w 12), taddr := BitVec.ofNat 48 (w 13), tvec := BitVec.ofNat 8 (w 14),
    tvecKind := w 14 / 256 % 2 == 1,
    dones := (List.range 8).foldl (fun t i => Tbl.set 0 t i (BitVec.ofNat 32 (Mem.read m (b + 0xC0 + 8 * i) 4))) [],
    seqs := (List.range 8).foldl (fun t i => Tbl.set 0 t i (BitVec.ofNat 32 (Mem.read m (b + 0xC4 + 8 * i) 4))) [],
    pairs := (List.range 8).foldl (fun (t : Tbl Pair) i =>
      let f := fun (j : Nat) => fillOf (Mem.bytes m (b + 0x1600 + 320 * i + 160 * j) 160)
      Tbl.set {} t i (pairOfImage (Tbl.get {} x.pairs i) (Mem.read m (b + 0x100 + 8 * i) 8) born (f 0) (f 1))) [],
    dyn := (List.range 64).foldl (fun (t : Tbl Dyn) i =>
      Tbl.set {} t i (dynOf (Mem.bytes m (b + 0x800 + 32 * i) 32))) [],
    pwq := imageQueue m b now, phase0 := x.bundles, ckKeys := rr.map (fun (e : Nat × Nat) => e.1), hidW := (lines.map (fun (e : Nat × Byte) => e.1 / 64)).dedup }
  { y with check := { regs := start, pwq := y.pwq, lr := y.lr, tail := y.tail, rpos := y.rpos, dw := y.dw,
                      segCnt := y.segCnt, segSig := y.segSig, sega := y.sega, seqs := y.seqs,
                      dones := y.dones,
                      opOrder := x.check.opOrder, pairBytes := lines } }

/-- Operations of the target are in flight: accesses, delayed accesses, a walk (R397). -/
def Core.inFlight (k : Core) (cx : CtxId) : Bool :=
  k.accs.any (·.cx == cx) || k.delayed.any (·.cx == cx) || (match (k.ctx cx).walk with | some w => !w.abandoned | none => false)

/-- The checks of SAVEPH and LOADPH at step 6 (R397): alignment, the end of the image, the target and the image; then the
turn of the image's lines among the accesses of SVC. R450 gives the hold no reason: 15 (log entry 128). -/
def State.imageChecks (s : State) (h : Hdr) (a : BitVec 5) (c : BitVec 1) (len : Nat → Nat) (ok : Nat → Bool)
    (reads : Bool) (go : Nat → State → Out) : Out :=
  s.svcOnly fun s => s.whenOn h fun s =>
    let b := (s.me.s a.toNat).toNat
    if s.kore.inFlight (ctxBit c) then s.hold 15
    else if b % 64 ≠ 0 then s.raise 6 6 6 (BitVec.ofNat 64 b)
    else if Config.tessSize < b + len b then s.raise 6 4 6 (BitVec.ofNat 64 b)
    else if !s.reachable (ctxBit c) || !ok b then s.raise 6 7 6 0
    else
      let lines := (List.range ((len b + 63) / 64)).map (b / 64 + ·)
      if reads then s.ownRead lines fun s => go b s else s.inTurn lines fun s => go b s

/-- SAVEPH (R397). -/
def execSaveph (h : Hdr) (a : BitVec 5) (c : BitVec 1) (s : State) : Out :=
  let img := (s.kore.ctx (ctxBit c)).image
  s.imageChecks h a c (fun _ => img.length) (fun _ => true) false fun b s =>
    (s.setKore { s.kore with tess := Mem.setBytes s.kore.tess b img }).done

/-- LOADPH (R397). An image's end is the end that its LEN names, and at least its fixed blocks'. -/
def execLoadph (h : Hdr) (a : BitVec 5) (c : BitVec 1) (s : State) : Out :=
  let m := s.kore.tess
  s.imageChecks h a c (fun b => max 0xA000 (Mem.read m (b + 8) 4)) (imageOk m) true fun b s =>
    let k := s.kore
    let x := (k.ctx (ctxBit c)).fromImage m b s.me.clock k.nextId
    (s.setKore { (k.setCtx (ctxBit c) { x with esc := true }) with nextId := k.nextId + 1 }).done

end Sys2Proof.Machine
end

