-- ==== Sys2Proof/Machine/Perform.lean ====
section
/-! DEFINITION. What happens in a core between issues: accesses perform, write notices reach the dies, values land, owed
flips complete, delayed accesses are granted, refetches end (01 R20 to R30, R46 to R48, 11 R249, R250, 12 R269 to R274,
15 R342, R343, 18 R380). -/

namespace Sys2Proof.Machine

/-! ### C-slot accesses (R249, R250, R342, R343) -/

/-- The core that a request to another core's operations goes to. -/
def Access.goal (a : Access) : Nat := ((a.pieces.head?.bind (fun p => p.loc.core?))).getD 0

/-- An access is a request about an operation of another core (R342, R343). -/
def AccOp.asks : AccOp → Bool
  | .kstat _ _ => true
  | .steer _ _ _ => true
  | _ => false

/-- The access may perform now: nothing orders an outstanding access before it (R250, R259, R274); a request about an
operation follows its context's earlier C0 accesses and requests to that core (R342). -/
def Core.mayPerform (k : Core) (a : Access) : Bool :=
  !k.accBlocked a
    && (!a.op.asks || !k.accs.any (fun b => b.cx == a.cx && decide (b.id < a.id) && (b.un == .c0 || b.op.asks)
      && decide (b.goal = a.goal)))

/-- A request about an operation of another core takes effect there (R342, R343): KSTAT binds the word. An
operation of a lost die never settles, so nothing steers it (R409). -/
def State.performRequest (s : State) (c : Nat) (a : Access) : State :=
  let k := s.core c
  let k := { k with accs := k.accs.filter (fun b => b.id ≠ a.id) }
  let g := (k.ctx (if a.cx = .svc then k.servedId else a.cx)).gang
  match a.op with
  | .kstat t w =>
    let v := match s.tokIssued c g t with
      | some d => (s.core d).kstat t w
      | none => 0
    let x := k.ctx a.cx
    let x := if a.writes then x.deliver a.id (v.setWidth 4096) (a.readyAt x.clock) false else x
    s.setCore c ((k.setCtx a.cx x).advance a.cx)
  | .steer what t pri =>
    if (s.die (dieOf a.goal)).lost then s.setCore c k else (s.setCore c k).steer a.goal what t pri
  | _ => s

/-- An outstanding access may perform: nothing of its core orders it later, no STRL that runs ahead is in its way, and a
STRL has nothing of its context before it or may run ahead itself (R259, R274, R284). -/
def State.mayPerform (s : State) (c : Nat) (a : Access) : Bool :=
  (s.core c).mayPerform a && !s.unripe.any (fun u => s.veils u c a)
    && (!a.releases || !(s.core c).earlierOpen a.cx a.bundle || s.mayLead c a)

/-- ACCESS_PERFORM: the `k`-th outstanding access of a core, in issue order, performs its next line. -/
def execAccessPerform (core k : Nat) (s : State) : Out :=
  match (s.core core).accs[k]? with
  | none => .next s
  | some a =>
    if !s.mayPerform core a then .next s
    else match a.op with
      | .kstat _ _ => .next (s.performRequest core a)
      | .steer _ _ _ => .next (s.performRequest core a)
      | _ => .next (s.performAccess core a)

/-! ### Write notices (R231, R269, R270) -/

/-- A notice of a die may be applied: no earlier one for its line waits there, and nothing it comes after. -/
def Die.mayApply (d : Die) (k : Nat) (n : Notice) : Bool :=
  !(d.notices.take k).any (fun m => m.line == n.line)
    && !d.notices.any (fun m => n.deps.contains (m.comp, m.count) && !(m.comp == n.comp && m.count == n.count))

/-- WRITE_NOTICE_APPLY: the `k`-th of the writes on their way between a die and the homes arrives: a notice that the die
waits for is applied there, or, for a `k` beyond the notices, a store that the die's cache has taken reaches its home with
those to its line before it. -/
def execWriteNoticeApply (die k : Nat) (s : State) : Out :=
  let d := s.die die
  match d.notices[k]? with
  | none =>
    (match d.buffer[k - d.notices.length]? with
      | none => .next s
      | some b => .next (s.flushLine die b.line (k - d.notices.length + 1)))
  | some n => if d.mayApply k n then .next (s.setDie die (d.applyNotice n)) else .next s

/-! ### Flips and landings (R20, R22, R28) -/

/-- FLIP_COMPLETE: the flip that a context owes completes, when nothing it waits for is missing. -/
def execFlipComplete (core : Nat) (cx : CtxId) (s : State) : Out := .next (s.setCore core ((s.core core).advance cx))

/-- PWQ_LAND: the `k`-th entry of a context's queue lands, when it is due with its value at hand. -/
def execPwqLand (core : Nat) (cx : CtxId) (k : Nat) (s : State) : Out :=
  let x := s.ctxAt core cx
  match x.pwq[k]? with
  | none => .next s
  | some e =>
    if e.canLand x.clock then .next (s.setCtxAt core cx { (x.landEntry e) with pwq := x.pwq.eraseIdx k }) else .next s

/-! ### The secondary stream (R46 to R48) -/

/-- SECBND_BUBBLE (R48): the primary issues nothing in its next cycle. -/
def execSecbndBubble (core : Nat) (s : State) : Out :=
  let k := s.core core
  if !k.bubble then .next s
  else
    let s := s.setCore core { k with bubble := false }
    let cx := match k.serving with
      | some (c, _) => if c = k.primary then CtxId.svc else k.primary
      | none => k.primary
    .next (s.markHeld core cx 9 none)

/-- The value that a delayed load finds: what the stores of its own bundle have changed is as it was (R41). -/
def Core.delayedValue (k : Core) (d : Delayed) : Nat :=
  let m := d.snap.foldl (fun m b => Mem.setByte m b.1 b.2) (if d.acm then k.acm else k.tess)
  d.pieces.foldl (fun acc p => match p.loc with
    | .tess _ o => acc + Mem.read m o p.len * 256 ^ p.pos
    | .mem _ _ => acc) 0

/-- The own memory after a delayed store, a later piece over an earlier one (R164). -/
def Core.delayedStore (k : Core) (d : Delayed) : Core :=
  (d.pieces.foldl (fun k p => match p.loc with
    | .tess _ o =>
      let v := d.val / 256 ^ p.pos % 256 ^ p.len
      if d.acm then { k with acm := Mem.write k.acm o p.len v } else { k with tess := Mem.write k.tess o p.len v }
    | .mem _ _ => k) k).heal d.acm d.whole

/-- A delayed store of an earlier phase belongs to what the present phase started from (R382): the checkpoint's bytes of
the hidden halves take it. -/
def Core.late (k : Core) (d : Delayed) : Core :=
  let x := k.ctx d.cx
  if d.acm || x.pairs.isEmpty || decide (x.phase0 ≤ d.bundle) then k
  else
    let old : Core := { tess := x.check.pairBytes }
    k.setCtx d.cx { x with check := { x.check with pairBytes := (Core.delayedStore old d).hiddenBytes x } }

/-- The lines that a delayed access touches. -/
def Delayed.lines (d : Delayed) : List Nat :=
  (d.pieces.flatMap (fun p => match p.loc with
    | .tess _ o => [o / 64, (o + p.len - 1) / 64]
    | .mem _ _ => [])).dedup

/-- A delayed load's value arrives (R28, R47): straight into the hidden face for LAND 0, otherwise in its entry. A
poisoned value always has an entry (R380 step 3). -/
def Ctx.arrived (x : Ctx) (d : Delayed) (v : Vec) (ready : Nat) (bad : Bool) : Ctx :=
  if d.reg = 0 then x
  else if d.land = 0 then
    if bad then
      x.poisoned { reg := d.reg, val := some v, ready := ready, poison := true, stamp := d.stamp, lanes := d.lanes }
        (Config.pwqDepth - x.pwq.length)
    else
      let y := x.landIn d.reg v d.lanes d.stamp
      { y with ready := max y.ready ready }
  else x.deliver d.id v ready bad

/-- What follows on a core when something a context waited for has come, for it and for the STRLs that it held up (R22, R28,
R274). -/
def State.advanced (s : State) (c : Nat) (cx : CtxId) : State := (s.setCore c ((s.core c).advance cx)).ripen

/-- A delayed access performs in cycle `t`: it reads or writes all its bytes, and its result is ready after its
latency (R43, R47). Those of later bundles that wait behind it perform no earlier, and what met them before counts no
more. -/
def State.performDelayed (s : State) (c : Nat) (d : Delayed) (t : Nat) : State :=
  let k := s.core c
  let k := { k with delayed := (k.delayed.filter (fun (e : Delayed) => decide (e.id ≠ d.id))).map (fun (e : Delayed) =>
    if e.cx == d.cx && decide (d.bundle < e.bundle) && decide (e.since < t) then { e with since := t - 1, hits := [] } else e) }
  let offs := d.pieces.flatMap (fun p => match p.loc with
    | .tess _ o => (List.range p.len).map (o + ·)
    | .mem _ _ => [])
  if d.store then
    let k := ((k.keepFor d.cx d.bundle d.acm offs).delayedStore d).late d
    let k := if d.acm || decide (d.bundle < (k.ctx d.cx).phase0) then k else k.setCtx d.cx ((k.ctx d.cx).wrote (d.lines))
    ((s.setCore c k).storedOwn c d.cx d.acm offs).advanced c d.cx
  else
    let s := s.heardOwn c d.cx d.bundle d.acm offs
    let k : Core := { s.core c with delayed := k.delayed }
    let bad := k.badLines d.acm d.lines
    let soft := k.softLines d.acm d.lines
    let s := { ({ s.setCore c k with focus := c } : State).readErrors d.acm d.lines bad soft with focus := s.focus }
    let k := s.core c
    let x := (k.ctx d.cx).arrived d (loadValue d.sext (k.delayedValue d)) (t + d.lat) (!bad.isEmpty)
    -- the error belongs to the phase that issued the read (R382)
    let x := if soft.isEmpty || !bad.isEmpty then x
      else if x.phase0 ≤ d.bundle then { x with transient := true }
      else { x with asyncs := x.asyncs ++ [{ code := 13 }] }
    (s.setCore c (k.setCtx d.cx x)).advanced c d.cx

/-- The cycle of the primary's next bundle; none while it issues nothing (R46, R367). -/
def State.primaryClock (s : State) (c : Nat) : Option Nat :=
  let k := s.core c
  let x := k.ctx k.primary
  if !x.trapped && s.holds c k.primary then some x.clock
  else match k.serving with
    | some (cx, _) => if cx = k.primary then some k.svc.clock else none
    | none => none

/-- The bank conflict of a granted access is traced, once for its bundle (R450). -/
def State.traceBank (s : State) (c : Nat) (d : Delayed) (t : Nat) : State :=
  if d.hits.isEmpty then s
  else
    let k := s.core c
    let s := s.setCore c { k with delayed := k.delayed.map (fun (e : Delayed) =>
      if e.cx == d.cx && e.stamp == d.stamp then { e with hits := [] } else e) }
    if ((s.core c).traceIn t).ctl.getLsbD 3 then
      s.trace c 4 d.cx t d.pc.toNat d.orig
        (natToBytes 2 (t - d.orig) ++ natToBytes 2 0 ++ natToBytes 12 (d.hits.foldl (fun a b => a ||| 2 ^ b) 0))
    else s

/-- A delayed access of a core may be granted: none of an earlier bundle of its context waits before it, and no primary
access can meet it in its next cycle any more (R43, R47). -/
def State.grantable (s : State) (c : Nat) (d : Delayed) : Bool :=
  !d.refetch && !(s.core c).delayed.any (fun e => e.cx == d.cx && decide (e.bundle < d.bundle))
    && ((s.primaryClock c).map (fun n => decide (d.since + 1 < n))).getD true

/-- The first delayed access of a core that may be granted is granted (R47). -/
def State.grantFirst (s : State) (c : Nat) : Option State :=
  ((s.core c).delayed.find? (s.grantable c)).map
    (fun d => (s.performDelayed c d (d.since + 1)).traceBank c d (d.since + 1))

/-- SECONDARY_ACCESS_GRANT (R47). -/
def execSecondaryAccessGrant (core : Nat) (s : State) : Out := .next ((s.grantFirst core).getD s)

/-- Every delayed access that its turn has come for is granted; `fuel` bounds them. -/
def State.grantDue (s : State) (c : Nat) : Nat → State
  | 0 => s
  | n + 1 => match s.grantFirst c with
    | none => s
    | some t => t.grantDue c n

/-! ### Refetch (R380 step 1) -/

/-- The visible half that holds a line: the region and its fill record, with the half's first byte and whether it is
the upper half. -/
def Ctx.fillAt (x : Ctx) (line : Nat) : Option (Nat × Pair × Fill × Nat) :=
  x.pairs.findSome? (fun e =>
    let p := e.2
    let lo := if p.sel then p.base + p.half else p.base
    if p.en && decide (lo ≤ 64 * line) && decide (64 * line < lo + p.half) then
      (if p.sel then p.fill1 else p.fill0).map (fun f => (e.1, p, f, lo))
    else none)

/-- The bytes that the fill packet delivers for logical destination offset `a`, read again from its source; none when
the source cannot be read. -/
def State.refill (s : State) (c : Nat) (cx : CtxId) (f : Fill) (a : Nat) : State × Option Nat :=
  let x := s.ctxAt c cx
  let o : ChildOp := { token := 0, ch := 0, cx := cx, kind := .copy, gang := x.gang, packet := f.pkt, fromF := f.fromF,
                       toF := f.toF, seen := x.must }
  match leAt f.pkt 0 1 with
  | 3 =>
    match (s.core c).ops.find? (fun q => q.kind == .coll && decide (q.order = f.order) && q.cx == cx) with
    | none => (s, none)
    | some q =>
      let ms := s.members q.gang q
      let parts := s.collMembers q
      let me := ms.findIdx? (fun m => m == q.sidx)
      let l := (a - leAt f.pkt 16 8) / 64
      match me with
      | none => (s, none)
      | some i =>
        match s.collRead parts (collSources f.pkt ms.length i l) with
          | (s, .ok xs) => (s, some (collLine f.pkt (xs.map (·.1))))
          | (s, .error _) => (s, none)
  | 5 =>
    let n := if leAt f.pkt 1 1 = 2 then 1 else leAt f.pkt 4 4 / 64
    match (List.range n).find? (fun l => (crypDst f.pkt l).2 == a) with
    | none => (s, none)
    | some l =>
      match s.crypLine (s.moverOf c o) f.pkt l with
      | (s, .error _) => (s, none)
      | (s, .ok v) => (s, some v.1)
  | _ =>
    let p := copyP f.pkt f.fromF f.toF
    match (List.range p.total).find? (fun n => (p.line n).2.2.1 == a) with
    | none => (s, none)
    | some n =>
      let (sa, sl, _, i2) := p.line n
      let (s, v) := s.readBytes (s.moverOf c o) p.ssp 9 sa sl
      match v with
      | .error _ => (s, none)
      | .ok w =>
        let y := convLine p w.1
        (s, some (if p.swz then swizzle i2 y else y))

/-- One bad line of the own tessera is filled again from its record: its bytes are as they were, so nothing becomes DIRTY. -/
def State.refetchLine (s : State) (c : Nat) (cx : CtxId) (line : Nat) : State :=
  match (s.ctxAt c cx).fillAt line with
  | none => s
  | some (_, p, f, lo) =>
    match s.refill c cx f (p.base + (64 * line - lo)) with
    | (s, none) => s
    | (s, some v) => s.setCore c (({ s.core c with tess := Mem.write (s.core c).tess (64 * line) 64 v } : Core).heal false [line])

/-- REFETCH_DONE: the lines are filled again, and the read is redone; its ready cycle moves by the time lost. -/
def execRefetchDone (core : Nat) (cx : CtxId) (s : State) : Out :=
  match (s.core core).delayed.find? (fun d => d.cx == cx && d.refetch) with
  | none => .next s
  | some d =>
    let bad := d.lines.filter (fun l => (s.ctxAt core cx).refetchable l
      && ((s.core core).badTess.contains l || (s.core core).softTess.contains l))
    let s := bad.foldl (fun (s : State) l => (s.refetchLine core cx l).sramUe core 0 (64 * l) 1) s
    .next (s.performDelayed core d (max d.orig ((s.ctxAt core cx).clock - 1)))

end Sys2Proof.Machine
end

