-- ==== Sys2Proof/Machine/Matrix.lean ====
section
/-! DEFINITION. The matrix channel from the program's side: MCALL, the routine store and its directory, its
verification, and MLDR (08 R184 to R193). -/

namespace Sys2Proof.Machine

/-! ### Directory and store (R189) -/

/-- The directory entry of a routine: 16 bits of a store word. -/
def dirEntry (st : Tbl Word64) (i : Nat) : Nat := (Tbl.get 0 st (i / 4)).toNat / 2 ^ (16 * (i % 4)) % 65536

/-- V of a directory entry. -/
def dirValid (e : Nat) : Bool := e / 32768 == 1

/-! ### Verification (R191) -/

/-- What a stretch of words costs: with no suspension point, its whole cost in `pre` and `suf`; otherwise the cost
before its first, after its last, and the largest between two. -/
structure Seg where
  susp : Bool := false
  pre  : Nat := 0
  suf  : Nat := 0
  most : Nat := 0
deriving DecidableEq, Repr

/-- Two stretches in a row. -/
def Seg.seq (a b : Seg) : Seg :=
  match a.susp, b.susp with
  | false, false => { pre := a.pre + b.pre, suf := a.pre + b.pre }
  | false, true => { b with pre := a.pre + b.pre }
  | true, false => { a with suf := a.suf + b.suf }
  | true, true => { susp := true, pre := a.pre, suf := b.suf, most := max (max a.most b.most) (a.suf + b.pre) }

/-- A loop body run `n` times, or any number of times when `n` is not fixed: `a` the first time, `b` every later time. -/
def Seg.loop (a b : Seg) (n : Option Nat) : Seg :=
  if a.susp then
    (if n.any (· ≤ 1) then a
      else { susp := true, pre := a.pre, suf := if n.isSome then b.suf else max a.suf b.suf,
             most := max (max a.most b.most)
               (if n.any (· ≤ 2) then a.suf + b.pre else max (a.suf + b.pre) (b.suf + b.pre)) })
  else
    let c := a.pre + b.pre * (max 1 (n.getD 1) - 1)
    { pre := c, suf := c }

/-- A word that costs `n`. -/
def Seg.of (n : Nat) : Seg := { pre := n, suf := n }

/-- A suspension point: the cost between two counts the words after the first, the second included (log entry 42). -/
def Seg.point : Seg := { susp := true, pre := 1, suf := 0, most := 1 }

/-- The rate of a mode (R193): 0 where every row costs one cycle, 1 in FP32, whose MACS rows cost two, 2 in FP64, whose
loads and drains do too. -/
def rateOf (mode : Nat) : Nat := if mode = 4 then 1 else if mode = 5 then 2 else 0

/-- The worst-case cost of a micro-operation (R193) in a mode of a rate. -/
def uopSeg (rate : Nat) (i : Instr) : Seg :=
  let n := fun (nr : BitVec 6) => nr.toNat + 1
  match i with
  | .macs nr _ _ _ _ => .of (if rate = 0 then n nr else 2 * n nr)
  | .accl nr _ _ _ fx => .of (if fx = 1 then 4 * n nr else if rate = 2 then 2 * n nr else n nr)
  | .drn nr _ _ dst _ _ => .of (if dst = 1 then 4 * n nr else if rate = 2 then 2 * n nr else n nr)
  | .adptDown nr _ _ _ _ _ => .of (n nr)
  | .adptUp nr _ _ _ _ _ => .of (n nr)
  | .abftCheck nr _ _ => .of (n nr)
  | .yld => .point
  | .hwtWaitf _ _ => .point
  | .hwtWaitb _ => .point
  | .endOp => .point
  | _ => .of 1

/-- A stretch of words as it costs when entered at each rate, and the rate that its last FMTS leaves. -/
structure Stretch where
  plain  : Seg := {}
  single : Seg := {}
  double : Seg := {}
  out    : Option Nat := none
deriving DecidableEq, Repr

/-- The stretch whose costs a function of the rate gives. -/
def Stretch.make (f : Nat → Seg) (out : Option Nat) : Stretch := ⟨f 0, f 1, f 2, out⟩

/-- The cost of a stretch entered at a rate. -/
def Stretch.at (a : Stretch) (rate : Nat) : Seg := if rate = 0 then a.plain else if rate = 1 then a.single else a.double

/-- Two stretches in a row. -/
def Stretch.seq (a b : Stretch) : Stretch :=
  .make (fun c => (a.at c).seq (b.at (a.out.getD c))) (if b.out.isSome then b.out else a.out)

/-- A loop body run as `Seg.loop` says: every time but the first it is entered at the rate it leaves. -/
def Stretch.loop (a : Stretch) (n : Option Nat) : Stretch :=
  .make (fun c => (a.at c).loop (a.at (a.out.getD c)) n) a.out

/-- One micro-operation as a stretch. -/
def uopStretch (i : Instr) : Stretch :=
  .make (fun c => uopSeg c i) (match i with | .fmts m _ _ => some (rateOf m.toNat) | _ => none)

/-- A loop found by the walk: first word, LOOPM, level. -/
structure MLoop where
  first : Nat
  last  : Nat
  lvl   : Nat
deriving DecidableEq, Repr

/-- What the walk has seen of a routine: the words so far as stretches, last first, with where each begins; its loops;
the ARM not yet checked; every ARM and CHECK pair; and whether a rule is broken. -/
structure Walked where
  segs  : List (Nat × Stretch) := []
  loops : List MLoop := []
  arm   : Option Nat := none
  spans : List (Nat × Nat) := []
  ylds  : List Nat := []
  ok    : Bool := true
deriving DecidableEq, Repr

/-- A word that may not stand between an ARM and its CHECK. -/
def notInSpan (i : Instr) : Bool :=
  match i with
  | .drn _ _ _ _ _ _ => true
  | .accl _ _ _ _ _ => true
  | .adptDown _ _ _ _ _ _ => true
  | .adptUp _ _ _ _ _ _ => true
  | .fmts _ _ _ => true
  | .hwtWaitf _ _ => true
  | .hwtAdvr _ _ => true
  | .hwtWaitb _ => true
  | .yld => true
  | _ => false

/-- One word of the walk, at store word `p` of a routine that starts at `start`. -/
def Walked.word (w : Walked) (start p : Nat) (i : Instr) : Walked :=
  let w := if w.arm.isSome && notInSpan i then { w with ok := false } else w
  let w := { w with segs := (p, uopStretch i) :: w.segs }
  match i with
  | .abftArm _ _ _ => { w with arm := some p, ok := w.ok && w.arm.isNone }
  | .abftCheck _ _ _ =>
    match w.arm with
    | none => { w with ok := false }
    | some a => { w with arm := none, spans := (a, p) :: w.spans }
  | .yld => { w with ylds := p :: w.ylds }
  | .loopm lvl src _ cnt tgt =>
    let t := tgt.toNat
    let body := w.segs.takeWhile (fun e => decide (t ≤ e.1))
    let rest := w.segs.dropWhile (fun e => decide (t ≤ e.1))
    let whole := body.foldl (fun (acc : Stretch) e => e.2.seq acc) {}
    let good := decide (start ≤ t) && decide (t ≤ p) && (body.getLast?.map (·.1)) == some t
      && (src == 0 || w.ylds.any (fun y => decide (t ≤ y)))
    { w with segs := (t, whole.loop (if src = 0 then some cnt.toNat else none)) :: rest,
             loops := ⟨t, p, lvl.toNat⟩ :: w.loops, ok := w.ok && good }
  | _ => w

/-- The walk from word `p` to the first END. None when no END comes before word 16,384 or a word is no micro-operation. -/
def walkRoutine (st : Tbl Word64) (start : Nat) : Nat → Nat → Walked → Option Walked
  | 0, _, _ => none
  | fuel + 1, p, w =>
    if 16384 ≤ p then none
    else match decodeUop (Tbl.get 0 st p) with
      | .error _ => none
      | .ok i =>
        let w := w.word start p i
        if i = .endOp then some w else walkRoutine st start fuel (p + 1) w

/-- The loops that hold a word. -/
def loopsAt (ls : List MLoop) (p : Nat) : List MLoop := ls.filter (fun l => decide (l.first ≤ p) && decide (p ≤ l.last))

/-- A routine that starts at a word passes R191. -/
def routineOk (st : Tbl Word64) (start : Nat) : Bool :=
  decide (256 ≤ start) && (match walkRoutine st start 16384 start {} with
    | none => false
    | some w =>
      let all := (w.segs.foldl (fun (acc : Stretch) e => e.2.seq acc) {}).at 0
      w.ok && w.arm.isNone
        && w.loops.all (fun l => decide (((w.loops.filter (fun m => decide (l.last < m.last) && decide (m.first ≤ l.first))).length)
            = l.lvl))
        && w.spans.all (fun s => loopsAt w.loops s.1 == loopsAt w.loops s.2)
        && decide (max all.pre all.most ≤ 4096))

/-- A store passes verification: every valid directory entry's routine does (R191). -/
def storeOk (st : Tbl Word64) : Bool :=
  st.all (fun e => !decide (e.1 < 256) || (List.range 4).all (fun i =>
    let d := e.2.toNat / 2 ^ (16 * i) % 65536
    !dirValid d || (decide (d / 16384 % 2 = 0) && routineOk st (d % 16384))))

/-! ### MCALL and MLDR -/

/-- MCALL (R186): the directory is judged before any hold. -/
def execMcall (h : Hdr) (k : BitVec 4) (i : BitVec 10) (p : BitVec 2) (d : BitVec 1) (s : State) : Out :=
  s.whenOn h fun s =>
    let e := dirEntry s.kore.store i.toNat
    if !dirValid e then s.raise 3 7 3 0
    else if s.chFull 4 then s.hold 7
    else
      let x := s.me
      let o : ChildOp := {
        token := 0, ch := 4, cx := s.cx, kind := .mcall, pri := p.toNat, halves := x.halves 0,
        q := (List.range 8).map x.m, fmtt := s.strand.fmtt, lc0 := (x.lc 0).toNat % 16, wdog := s.strand.wdt.toNat,
        start := e % 16384 }
      s.escape.createOp h k (d == 1) o

/-- The store with `n` words of the tessera copied from offset `a` to word `w`. -/
def Core.loaded (k : Core) (x : Ctx) (a w n : Nat) : Tbl Word64 :=
  (List.range n).foldl (fun st j => Tbl.set 0 st (w + j) (BitVec.ofNat 64 (k.loadOwn x (a + 8 * j) 8))) k.store

/-- The fault of steps 1 to 3 of an MLDR whose registers are `d`, `a` and `b` (R190): its step of R79, code and INFO. -/
def State.mldrFault (s : State) (d a b : BitVec 5) : Option (Nat × Nat × Word64) :=
  let x := s.me
  let n := (x.s d.toNat).toNat
  let at_ := (x.s a.toNat).toNat
  if !s.strand.mlgr then some (4, 5, x.s a.toNat)
  else if at_ % 8 ≠ 0 then some (6, 6, x.s a.toNat)
  else if Config.tessSize < at_ + 8 * n then some (6, 4, x.s a.toNat)
  else if !x.ownOk at_ (8 * n) then some (6, 5, x.s a.toNat)
  else if n = 0 ∨ 16384 < (x.s b.toNat).toNat + n then some (6, 7, 0)
  else none

/-- MLDR (R190): the faults of its first three steps come before any hold. Its words are an own-tessera read, which stands
behind the context's delayed accesses (R43); the copy and the verification hold the bundle, and the words are written as it
issues. The verification takes one cycle (log entry 43). An MCALL of the other stream may enter the channel while the copy
and the verification run (log entry 111). -/
def execMldr (h : Hdr) (d a b : BitVec 5) (s : State) : Out :=
  s.whenOn h fun s =>
    match s.mldrFault d a b with
    | some (stage, code, info) => s.raise stage code 3 info
    | none =>
      let x := s.me
      let n := (x.s d.toNat).toNat
      let at_ := (x.s a.toNat).toNat
      s.ownRead (x.physLines false [⟨at_, 0, 8 * n⟩]) fun s =>
        match s.kore.mldrAt with
        | none =>
          if s.kore.depth 4 ≠ 0 then s.hold 8
          else .next { s with iss := { s.iss with out := .held 8, mldr := some (x.clock + (n + 7) / 8 + 1) } }
        | some (cx, t) =>
          if cx ≠ s.cx ∨ x.clock < t then s.hold 8
          else
            let st := s.kore.loaded x at_ (x.s b.toNat).toNat n
            if !storeOk st then s.raise 6 7 3 0
            else
              let n0 := (x.s b.toNat).toNat
              let old := fun (w : Nat) => decide (n0 ≤ w) && decide (w < n0 + n)
              let st' := fun (l : List (Nat × Nat)) => l.filter (fun e => !(e.1 == 6 && old e.2))
              ((s.setKore { s.kore with store := st, mldrAt := none, badStore := s.kore.badStore.filter (!old ·),
                                        soft := st' s.kore.soft, ce := st' s.kore.ce }).escape).done

end Sys2Proof.Machine
end

