-- ==== Sys2Proof/Machine/MatrixOps.lean ====
section
/-! DEFINITION. The matrix array: a running routine's micro-operations, exact and fused accumulation, drains and the row
latch, adapters and ABFT (07 R168 to R170, R176 to R179, 08 R181 to R213). Each micro-operation acts on the routine of the
core in focus and leaves the word of the next one; where no routine runs, nothing changes. -/

namespace Sys2Proof.Machine

/-! ### Ending and faulting (R200, R203, R205, R206) -/

/-- The matrix causes of R306. -/
def mxFormat : Nat := 16
/-- ADDRESS. -/
def mxAddress : Nat := 17
/-- BAY. -/
def mxBay : Nat := 18
/-- ADAPTER. -/
def mxAdapter : Nat := 19
/-- HOD. -/
def mxHod : Nat := 20
/-- TIMEOUT. -/
def mxTimeout : Nat := 21
/-- CHKFAIL. -/
def mxChkfail : Nat := 22

/-- The operation that the matrix array runs. -/
def Core.mxOp (k : Core) : Option ChildOp :=
  match k.headOp 4 with
  | some o => if o.state = 2 then some o else none
  | none => none

/-- The routine of the core in focus, with its operation, when one runs. -/
def State.mxRun (s : State) : Option (ChildOp × Routine) :=
  match s.kore.mxOp with
  | some o => if s.kore.mx.run then some (o, s.kore.mx) else none
  | none => none

/-- The part with the routine of the core in focus replaced. -/
def State.setMx (s : State) (r : Routine) : State := s.setKore { s.kore with mx := r }

/-- The running operation of the core in focus ends in a state, as R200 says. -/
def State.mxEnd (s : State) (o : ChildOp) (state cause : Nat) : State := s.endMx s.focus (s.kore.mxOp.getD o) state cause

/-- The routine goes on at the next word. -/
def State.mxNext (s : State) (r : Routine) : Out := .next (s.setMx { r with word := r.word + 1, waited := 0, drained := 0 })

/-- A micro-operation of a running routine; one whose end waits for the latch tries to end again. -/
def State.onMx (s : State) (f : ChildOp → Routine → State → Out) : Out :=
  match s.mxRun with
  | none => .next s
  | some (o, r) =>
    match r.ending with
    | some (state, cause) => .next (s.mxEnd o state cause)
    | none => f o r s

/-- A fault of the running operation; uncorrectable data that it has read is counted and logged (R429, R433): with cause 4,
the structure it lay in stands above as a multiple of 256. -/
def State.mxFault (s : State) (o : ChildOp) (cause : Nat) : Out :=
  .next ((if cause % 256 = 4 then s.sramUe s.focus (cause / 256) 0 0 else s).mxEnd o 6 (cause % 256))

/-- A word of the routine store is fetched (R380, R424): whether it is bad. -/
def State.storeRead (s : State) (w : Nat) : State × Bool := s.readSram s.focus 6 [w]

/-- A micro-operation that needs a mode (R194). -/
def State.onMode (s : State) (f : Nat → ChildOp → Routine → State → Out) : Out :=
  s.onMx fun o r s => match r.mode with
    | none => s.mxFault o mxFormat
    | some m => f m o r s

/-! ### Modes and elements (R165, R168, R181, R182, R194) -/

/-- K elements of a row-step (R181). -/
def modeK (m : Nat) : Nat := if m = 0 then 64 else if m = 1 then 128 else if m ≤ 3 then 32 else if m = 4 then 16 else 8

/-- Bytes of an A element. -/
def modeW (m : Nat) : Nat := if m ≤ 1 then 1 else if m ≤ 3 then 2 else if m = 4 then 4 else 8

/-- Products of one fused step (R179). -/
def modeG (m : Nat) : Nat := if m ≤ 3 then 32 else if m = 4 then 8 else 4

/-- A format code's float format. -/
def mxFmt (c : Nat) : Fmt := match num4 c with | .float f => f | .int _ _ => fp32

/-- The accumulator's format in the modes that hold rounded values. -/
def accFmt (m : Nat) : Fmt := if m = 5 then fp64 else fp32

/-- The legal combinations of FMTS (R194). -/
def fmtsOk (mode a b : Nat) : Bool :=
  match mode with
  | 0 => (a == 12 || a == 13) && (b == 12 || b == 13)
  | 1 => (a == 12 || a == 13) && b == 14
  | 2 => a == 9 && b == 9
  | 3 => a == 8 && b == 8
  | 4 => a == 10 && b == 10
  | 5 => a == 11 && b == 11
  | _ => false

/-- An element of a bank, a partial or a check value. -/
abbrev Bank := Tbl AccEl

/-- One accumulator bank. -/
def Routine.bank (r : Routine) (wb : Bool) : Bank := if wb then r.w1 else r.w0

/-- The routine with one bank replaced. -/
def Routine.setBank (r : Routine) (wb : Bool) (b : Bank) : Routine := if wb then { r with w1 := b } else { r with w0 := b }

/-- A product enters an exact element (R176). -/
def AccEl.plus (e : AccEl) (p : FVal) : AccEl :=
  match p with
  | .nan => { e with nan := true }
  | .inf n => if n then { e with ninf := true } else { e with pinf := true }
  | .fin n m x => { e with v := e.v + scaled n m x (-32) }

/-- Two exact elements added: values and flags. -/
def AccEl.add (a b : AccEl) : AccEl :=
  { v := a.v + b.v, nan := a.nan || b.nan, pinf := a.pinf || b.pinf, ninf := a.ninf || b.ninf, ovp := a.ovp || b.ovp,
    ovn := a.ovn || b.ovn }

/-- An element as it is drained or stored: OVP and OVN follow the exact sum (R176). -/
def AccEl.seen (e : AccEl) : AccEl :=
  { e with ovp := e.ovp || decide ((2 ^ 79 : Nat) ≤ e.v), ovn := e.ovn || decide (e.v < -(2 ^ 79 : Nat)) }

/-- A flag is set. -/
def AccEl.flagged (e : AccEl) : Bool := e.nan || e.pinf || e.ninf || e.ovp || e.ovn

/-- The value of an exact element by the list of R177. -/
def AccEl.val (e : AccEl) : FVal :=
  if e.nan || (e.pinf && e.ninf) then .nan
  else if e.pinf then .inf false
  else if e.ninf then .inf true
  else if e.ovp && e.ovn then .nan
  else if e.ovp then .inf false
  else if e.ovn then .inf true
  else unscaled false e.v (-32)

/-! ### Operands of a row-step (R182, R195 to R197) -/

/-- The address of byte 0 of A[m][k], before the swizzle of its chunk, and after it (R195). -/
def Routine.aAddr (r : Routine) (w m k : Nat) : Nat :=
  let x := if r.ord then (r.abase + k * r.pitch + m * w) % 2 ^ 64 else (r.abase + m * r.pitch + k * w) % 2 ^ 64
  if r.swz then x ^^^ (8 * ((if r.ord then k else m) % 8)) else x

/-- The physical offsets of the bytes of the A elements k from KCUR, n of them, or a fault (R195). -/
def Routine.aRow (r : Routine) (mv : Mover) (w m n : Nat) : Except Nat (List (List Nat)) :=
  if (r.swz || r.ord) && decide (r.abase % 64 ≠ 0) then .error mxAddress
  else (List.range n).foldr (fun t acc =>
    match acc with
    | .error e => .error e
    | .ok l =>
      let x := r.aAddr w m (r.kcur + t)
      if Config.tessSize < x + w then .error mxAddress
      else match mv.physBytes false x w with
        | some ps => .ok (ps :: l)
        | none => .error mxAddress) (.ok [])

/-- The lines that elements at physical offsets lie in. -/
def aLines (ps : List (List Nat)) : List Nat := (ps.flatMap (fun e => e.map (· / 64))).dedup

/-- A lintel row may be used: below 256 and outside the bay (R183, R196). -/
def Core.lintelRow (k : Core) (n : Nat) : Except Nat Unit :=
  if 256 ≤ n then .error mxAddress else if bayRow k.mxcfg ≤ n then .error mxBay else .ok ()

/-- The `n`-byte field at offset `o` of column `j`'s bank at a lintel row (R182). -/
def Core.bField (k : Core) (row j o n : Nat) : Nat := Mem.read k.lintel (4096 * row + 64 * j + o) n

/-- A bad line in a row of the lintel (R425). -/
def Core.badRow (k : Core) (row : Nat) : Bool := k.badLintel.any (fun l => decide (l / 64 = row))

/-- B[KCUR + t][j] as a value; in NF4W the codebook value of the index (R168, R182). -/
def Core.bElem (k : Core) (r : Routine) (mode row j t : Nat) : FVal :=
  if mode = 1 then nf4Val (k.bField row j (t / 2) 1 / 16 ^ (t % 2) % 16)
  else (mxFmt r.bfmt).val (k.bField row j (modeW mode * t) (modeW mode))

/-- The scale s of a block for a column (R170, R182). -/
def Core.blockScale (k : Core) (r : Routine) (j b : Nat) : FVal :=
  let u := k.bField (r.srow + b / 64) j (b % 64) 1
  let sup := k.bField r.ssrow j (4 * (b / 256)) 4
  fp32.val (fp32.round rne ((FVal.fin false u (-8)).mul (fp32.val sup)))

/-- The groups of `g` consecutive k that `n` elements from k = `k0` on fall into: k counts from the start of the call
(R179, R181). -/
def groups (g k0 n : Nat) : List Nat := (List.range ((k0 % g + n + g - 1) / g)).map (· + k0 / g)

/-- Of a list whose first member has k = `k0`, those in group `t`. -/
def inGroup {α : Type} (g k0 t : Nat) (l : List α) : List α := (l.take (g * t + g - k0)).drop (g * t - k0)

/-- Blocks of a row-step in which an element takes part: block b is k div 64 (R182, R197). -/
def Routine.blocks (r : Routine) (kv : Nat) : List Nat := groups 64 r.kcur kv

/-- The rows that a row-step reads are usable (R182, R183, R196): the cause that stops it. -/
def Core.rowsOk (k : Core) (r : Routine) (mode kv : Nat) : Except Nat Unit :=
  match k.lintelRow r.bcur.toNat with
  | .error e => .error e
  | .ok _ =>
    if mode ≠ 1 then (if k.badRow r.bcur.toNat then .error (4 + 256 * 2) else .ok ())
    else
      let bs := r.blocks kv
      -- every address is judged before any element is read
      let placed := bs.foldl (fun (acc : Except Nat Unit) b =>
        match acc with
        | .error e => .error e
        | .ok _ =>
          if 15 < b / 256 then .error mxAddress
          else match k.lintelRow (r.srow + b / 64), k.lintelRow r.ssrow with
            | .error e, _ => .error e
            | _, .error e => .error e
            | .ok _, .ok _ => .ok ()) (.ok ())
      match placed with
      | .error e => .error e
      | .ok _ =>
        if !bs.isEmpty && (k.badRow r.ssrow || k.badRow r.bcur.toNat || bs.any (fun b => k.badRow (r.srow + b / 64))) then
          .error (4 + 256 * 2)
        else .ok ()

/-- Exact sum of products of two lists. -/
def dot (e : AccEl) (a b : List FVal) : AccEl := (a.zip b).foldl (fun e p => e.plus (p.1.mul p.2)) e

/-- The fused steps of R179 over one row-step's products, the first with k = `k0`, grouped by k. -/
def fusedSteps (f : Fmt) (g k0 : Nat) (acc : Nat) (a b : List FVal) : Nat :=
  (groups g k0 a.length).foldl (fun acc t =>
    f.round rne ((inGroup g k0 t (a.zip b)).foldl (fun x p => x.add false (p.1.mul p.2)) (f.val acc))) acc

/-- Column `j` of a row-step: the element after it (R176 to R179); `as` are the A values that take part. -/
def Core.colStep (k : Core) (r : Routine) (mode : Nat) (e : AccEl) (as : List FVal) (j : Nat) : AccEl :=
  let row := r.bcur.toNat
  let bs := (List.range as.length).map (k.bElem r mode row j)
  match mode with
  | 0 => dot e as bs
  | 1 =>
    let c := (r.blocks as.length).foldl (fun (c : Nat) b =>
      let p := (dot {} (inGroup 64 r.kcur b as) (inGroup 64 r.kcur b bs)).seen
      fp32.round rne ((fp32.val c).add false (p.val.mul (k.blockScale r j b)))) e.v.toNat
    { v := c }
  | _ => { v := fusedSteps (accFmt mode) (modeG mode) r.kcur e.v.toNat as bs }

/-- The row's check value with a row-step's products, column sums first (R211), and in NF4W the partials as they came. -/
def Core.checkStep (k : Core) (r : Routine) (mode : Nat) (as : List FVal) : AccEl :=
  (List.range 64).foldl (fun e j => dot e as ((List.range as.length).map (k.bElem r mode r.bcur.toNat j))) {}

/-- One row-step (R197): bank element by element, check values of an armed row, and the tessera lines read. -/
def Core.rowStep (k : Core) (mv : Mover) (r : Routine) (mode kv : Nat) (wb : Bool) (m : Nat) :
    Except Nat (Routine × List Nat) :=
  match k.rowsOk r mode kv with
  | .error e => .error e
  | .ok _ =>
    match r.aRow mv (modeW mode) m kv with
    | .error e => .error e
    | .ok ps =>
      if (aLines ps).any k.badTess.contains then .error 4
      else
        let as := ps.map (fun e => (mxFmt r.afmt).val (numAt k.tess e))
        let b := (List.range 64).foldl (fun (b : Bank) j =>
          Tbl.set {} b (64 * m + j) (k.colStep r mode (Tbl.get {} b (64 * m + j)) as j)) (r.bank wb)
        let r' := r.setBank wb b
        let r' := match r.arm with
          | some (f, n, w) =>
            if w = wb ∧ f ≤ m ∧ m < f + n then
              let ck := k.checkStep r mode as
              { r' with ckA := Tbl.upd {} r'.ckA m (·.add ck), ckB := if mode = 1 then Tbl.upd {} r'.ckB m (·.add ck) else r'.ckB }
            else r'
          | none => r'
        .ok (r', aLines ps)

/-! ### The micro-operations -/

/-- FMTS (R194). -/
def execFmts (mode af bf : BitVec 4) (s : State) : Out :=
  s.onMx fun o r s =>
    let fix := fun (c : BitVec 4) => if c = 15 then o.fmtt.toNat / 16 ^ o.lc0 % 16 else c.toNat
    if !fmtsOk mode.toNat (fix af) (fix bf) then s.mxFault o mxFormat
    else s.mxNext { r with mode := some mode.toNat, afmt := fix af, bfmt := fix bf, w0 := [], w1 := [], part := [],
                           marks := [], kv := 0 }

/-- q register `i` of a routine. -/
def Routine.reg (r : Routine) (i : BitVec 3) : Word64 := r.q.getD i.toNat 0

/-- AFET (R195). -/
def execAfet (pa : BitVec 3) (pitch : BitVec 16) (ord swz : BitVec 1) (s : State) : Out :=
  s.onMx fun _ r s => s.mxNext { r with abase := (r.reg pa).toNat, pitch := pitch.toNat, ord := ord == 1, swz := swz == 1 }

/-- BSEL (R196). -/
def execBsel (pb : BitVec 3) (rofs srow ssrow : BitVec 8) (s : State) : Out :=
  s.onMx fun _ r s => s.mxNext { r with bcur := r.reg pb + rofs.setWidth 64, srow := srow.toNat, ssrow := ssrow.toNat }

/-- The tessera lines that a micro-operation has read: what a second read finds clean is counted and logged (R380). -/
def State.mxRead (s : State) (lines : List Nat) : State :=
  if s.kore.softTess.isEmpty && s.kore.ce.isEmpty then s else lines.dedup.foldl (fun (s : State) l => (s.readTessLine s.focus l).1) s

/-- Rows of the lintel that a micro-operation has read (R380, R424). -/
def State.mxRows (s : State) (rows : List Nat) : State :=
  if s.kore.soft.isEmpty && s.kore.ce.isEmpty then s
  else (s.readSram s.focus 2 (rows.dedup.flatMap (fun n => (List.range 64).map (64 * n + ·)))).1

/-- The lintel rows of a row-step (R182). -/
def Routine.rowsOf (r : Routine) (mode kv : Nat) : List Nat :=
  r.bcur.toNat :: (if mode = 1 then r.ssrow :: (r.blocks kv).map (fun b => r.srow + b / 64) else [])

/-- MACS (R197). -/
def execMacs (nr frow : BitVec 6) (wb adv : BitVec 1) (kv : BitVec 7) (s : State) : Out :=
  s.onMode fun mode o r s =>
    let n := nr.toNat + 1
    let w := modeW mode
    let kv' := if kv = 0 then modeK mode else kv.toNat
    if modeK mode < kv' then s.mxFault o mxFormat
    else if r.ord && (decide (frow.toNat * w % 64 ≠ 0) || decide (n * w % 64 ≠ 0)) then s.mxFault o mxFormat
    else
      let k := s.kore
      let mv := s.moverOf s.focus o
      let out := (List.range n).foldl (fun (acc : Except Nat (Routine × List Nat)) i =>
        match acc with
        | .error e => .error e
        | .ok (r, ls) =>
          match k.rowStep mv r mode kv' (wb == 1) (frow.toNat + i) with
          | .error e => .error e
          | .ok (r, l) => .ok (r, ls ++ l)) (.ok ({ r with kv := kv' }, []))
      match out with
      | .error e => s.mxFault o e
      | .ok (r, ls) =>
        ((s.mxRead ls).mxRows (r.rowsOf mode kv')).mxNext (if adv = 1 then { r with kcur := r.kcur + modeK mode, bcur := r.bcur + 1 } else r)

/-- The rows of a range in a bank set to zero (R198). -/
def Routine.zeroRows (r : Routine) (wb : Bool) (f n : Nat) : Routine :=
  r.setBank wb ((r.bank wb).filter (fun e => !(decide (64 * f ≤ e.1) && decide (e.1 < 64 * (f + n)))))

/-- ACCZ (R198). -/
def execAccz (nr frow : BitVec 6) (wb : BitVec 1) (s : State) : Out :=
  s.onMx fun _ r s => s.mxNext (r.zeroRows (wb == 1) frow.toNat (nr.toNat + 1))

/-- The base of a range of rows in the accumulator memory, when every byte of it may be used (R198, R199). -/
def acmBase (q : Word64) (n z : Nat) : Option Nat :=
  if q.toNat % 64 ≠ 0 ∨ Config.acmSize < q.toNat + n * z then none else some q.toNat

/-- An exact element from its 16-byte record; none with a reserved bit set (R198, R199). -/
def AccEl.ofRecord (x : Nat) : Option AccEl :=
  let fl := x / 2 ^ 80
  if 32 ≤ fl then none
  else some { v := asInt 80 (x % 2 ^ 80), nan := fl.testBit 0, pinf := fl.testBit 1, ninf := fl.testBit 2, ovp := fl.testBit 3,
              ovn := fl.testBit 4 }

/-- The 16-byte record of an exact element (R199). -/
def AccEl.record (e : AccEl) : Nat :=
  (e.v % (2 ^ 80 : Nat)).toNat + 2 ^ 80 * (e.nan.toNat + 2 * e.pinf.toNat + 4 * e.ninf.toNat + 8 * e.ovp.toNat
    + 16 * e.ovn.toNat)

/-- ACCL (R198). -/
def execAccl (nr frow : BitVec 6) (wb : BitVec 1) (pa : BitVec 3) (fx : BitVec 1) (s : State) : Out :=
  s.onMode fun mode o r s =>
    let n := nr.toNat + 1
    if decide (fx = 1) != decide (mode = 0) then s.mxFault o mxFormat
    else
      let z := if mode = 0 then 1024 else if mode = 5 then 512 else 256
      match acmBase (r.reg pa) n z with
      | none => s.mxFault o mxAddress
      | some b =>
        let k := s.kore
        let el := fun (i j : Nat) => Mem.read k.acm (b + i * z + j * (z / 64)) (z / 64)
        let cells := (List.range n).flatMap (fun i => (List.range 64).map (fun j => (i, j)))
        if k.badAcm.any (fun l => decide (b ≤ 64 * l) && decide (64 * l < b + n * z)) then s.mxFault o (4 + 256 * 1)
        else if mode = 0 && cells.any (fun c => (AccEl.ofRecord (el c.1 c.2)).isNone) then s.mxFault o mxFormat
        else
          let bank := cells.foldl (fun (t : Bank) c =>
            let e : AccEl := if mode = 0 then (AccEl.ofRecord (el c.1 c.2)).getD {} else { v := el c.1 c.2 }
            Tbl.set {} t (64 * (frow.toNat + c.1) + c.2) e) (r.bank (wb == 1))
          (s.readSram s.focus 1 ((List.range (n * z / 64)).map (b / 64 + ·))).1.mxNext (r.setBank (wb == 1) bank)

/-- The 64 drained values of a row (R177, R199). -/
def Routine.rowValues (r : Routine) (mode : Nat) (wb : Bool) (m : Nat) : List Nat :=
  (List.range 64).map (fun j =>
    let e := Tbl.get {} (r.bank wb) (64 * m + j)
    if mode = 0 then fp32.round rne e.seen.val else e.v.toNat)

/-- The row as drained: OVP and OVN follow the sums (R176), and CLR zeroes it. -/
def Routine.afterDrain (r : Routine) (mode : Nat) (wb clr : Bool) (m : Nat) : Routine :=
  if clr then r.zeroRows wb m 1
  else if mode = 0 then
    r.setBank wb ((List.range 64).foldl (fun (b : Bank) j => Tbl.upd {} b (64 * m + j) AccEl.seen) (r.bank wb))
  else r

/-- Drains to the latch from row `i` of a range on: rows until the latch is full, and how many have drained (R200). -/
def Core.drainLatch (mode : Nat) (wb clr : Bool) (f : Nat) : Nat → Core → Routine → Core × Routine
  | 0, k, r => (k, r)
  | n + 1, k, r =>
    if 4 ≤ k.latch.length then (k, r)
    else
      let m := f + r.drained
      let row : BitVec 2048 := BitVec.ofNat 2048 ((r.rowValues mode wb m).foldr (fun v a => v + 2 ^ 32 * a) 0)
      let k := match k.halfRow with
        | none => { k with halfRow := some row }
        | some low => { k with halfRow := none, latch := k.latch ++ [(row ++ low : BitVec 4096)] }
      Core.drainLatch mode wb clr f n k { (r.afterDrain mode wb clr m) with drained := r.drained + 1 }

/-- Rows that the operation has drained join the LINES of its record (R305). -/
def State.drew (s : State) (o : ChildOp) (n : Nat) : State :=
  s.setKore (s.kore.setOp { o with lines := o.lines + n })

/-- DRN (R199, R200, R305). -/
def execDrn (nr frow : BitVec 6) (wb : BitVec 1) (dst : BitVec 2) (pa : BitVec 3) (clr : BitVec 1) (s : State) : Out :=
  s.onMode fun mode o r s =>
    let n := nr.toNat + 1
    let f := frow.toNat
    if (dst = 1 ∧ mode ≠ 0) ∨ (dst = 2 ∧ mode = 5) then s.mxFault o mxFormat
    else if dst = 2 then
      let before := r.drained
      let (k, r) := Core.drainLatch mode (wb == 1) (clr == 1) f (n - r.drained) s.kore r
      let s := (s.setKore k).drew o (r.drained - before)
      if r.drained < n then .next (s.setMx r) else s.mxNext r
    else
      let z := if dst = 1 then 1024 else if mode = 5 then 512 else 256
      match acmBase (r.reg pa) n z with
      | none => s.mxFault o mxAddress
      | some b =>
        let acm := (List.range n).foldl (fun (m : Mem) i =>
          let vs := if dst = 1 then
              (List.range 64).map (fun j => (Tbl.get ({} : AccEl) (r.bank (wb == 1)) (64 * (f + i) + j)).seen.record)
            else r.rowValues mode (wb == 1) (f + i)
          vs.zipIdx.foldl (fun m e => Mem.write m (b + i * z + e.2 * (z / 64)) (z / 64) e.1) m) s.kore.acm
        let r := (List.range n).foldl (fun r i => r.afterDrain mode (wb == 1) (clr == 1) (f + i)) r
        let k := s.kore
        let good := k.badAcm.filter (fun l => !(decide (b ≤ 64 * l) && decide (64 * l < b + n * z)))
        let out := fun (e : Nat × Nat) => !(e.1 == 1 && decide (b ≤ 64 * e.2) && decide (64 * e.2 < b + n * z))
        ((s.setKore { k with acm := acm, badAcm := good, soft := k.soft.filter out, ce := k.ce.filter out }).drew o n).mxNext r

/-! ### Adapters (R207 to R210) -/

/-- Entries that the bay holds (R183). -/
def Core.bayRows (k : Core) : Nat := 256 - bayRow k.mxcfg

/-- The entry of a tag, moved to the end as the last used. -/
def Core.bayUse (k : Core) (up : Bool) (id index : Nat) : Option (Core × BayEntry) :=
  match k.bay.find? (fun e => e.up == up && e.id == id && e.index == index) with
  | none => none
  | some e => some ({ k with bay := k.bay.filter (fun x => x.row != e.row) ++ [e] }, e)

/-- A free row of the bay, or the row of the unpinned entry used longest ago, which it evicts; `pinned` says which entries
stay (R209). -/
def Core.bayRoom (k : Core) (pinned : BayEntry → Bool) : Core × Nat :=
  let lo := bayRow k.mxcfg
  match (List.range k.bayRows).find? (fun i => !k.bay.any (fun e => e.row == lo + i)) with
  | some i => (k, lo + i)
  | none =>
    match k.bay.find? (fun e => !pinned e) with
    | some e => ({ k with bay := k.bay.filter (fun x => x.row != e.row) }, e.row)
    | none => (k, lo)

/-- A row's adapter identifier, 0 for none, with the lines it lies in (R207). -/
def State.adapterId (s : State) (mv : Mover) (r : Routine) (pi : BitVec 3) (m : Nat) : Except Nat (Nat × List Nat) :=
  let a := ((r.reg pi).toNat + 2 * m) % 2 ^ 64
  if Config.tessSize < a + 2 then .error mxAddress
  else match mv.physBytes false a 2 with
    | none => .error mxAddress
    | some ps =>
      if (aLines [ps]).any s.kore.badTess.contains then .error 4 else .ok (numAt s.kore.tess ps, aLines [ps])

/-- An adapter's directory entry keeps R207's table: its row bases, rank and exponent. -/
def adapterEntry (b : Nat) : Option (Nat × Nat × Nat × Int) :=
  let dva := b % 2 ^ 64
  let uva := b / 2 ^ 64 % 2 ^ 64
  let r := b / 2 ^ 128 % 256
  let e := asInt 8 (b / 2 ^ 136 % 256)
  if dva % 4096 = 0 ∧ uva % 4096 = 0 ∧ 1 ≤ r ∧ r ≤ 64 ∧ -14 ≤ e ∧ e ≤ 15 ∧ b / 2 ^ 144 = 0 then some (dva, uva, r, e) else none

/-- The running operation has found global bytes in stamped writes (R290). -/
def State.mxNote (s : State) (ws : List (Nat × Nat)) : State :=
  match s.kore.mxOp with
  | none => s
  | some o => s.setKore (s.kore.setOp (s.opNote o ws))

/-- The directory entry of adapter `id`, as global memory holds it now (R207, log entry 106); the cause that stops it. -/
def State.adapterDir (s : State) (mv : Mover) (dir id : Nat) : State × Except Nat (Nat × Nat × Nat × Int) :=
  let (s, d) := s.readBytes mv 0 3 ((dir + 32 * id) % 2 ^ 64) 32
  match d with
  | .error (c, _) => (s, .error (if c = 4 then 4 else mxAdapter))
  | .ok b => (s.mxNote b.2, match adapterEntry b.1 with
    | none => .error mxAdapter
    | some e => .ok e)

/-- The term of one row from its entry, DOWN (R208): partials t[m][q] for q below the rank. -/
def State.downTerm (s : State) (mv : Mover) (r : Routine) (row rank m : Nat) : Except Nat (Routine × List Nat) :=
  let kv := if r.kv = 0 then 64 else r.kv
  match r.aRow mv 1 m kv with
  | .error c => .error c
  | .ok ps =>
    if (aLines ps).any s.kore.badTess.contains then .error 4
    else
      let as := ps.map (fun e => (mxFmt r.afmt).val (numAt s.kore.tess e))
      let down := fun (q : Nat) => (List.range kv).map (fun i => e4m3.val (s.kore.bField row q i 1))
      let part := (List.range rank).foldl (fun (t : Bank) q =>
        Tbl.upd {} t (64 * m + q) (fun (x : AccEl) => dot x as (down q))) r.part
      .ok ({ r with part := part }, aLines ps)

/-- The term of one row from its entry, UP (R208): the bank row, and the partials cleared. -/
def State.upTerm (s : State) (r : Routine) (row rank : Nat) (exp : Int) (wb : Bool) (m : Nat) : Routine :=
  let ys := (List.range rank).map (fun q =>
    ((e4m3.val (cvtToFloat true rne e4m3 ((Tbl.get {} r.part (64 * m + q)).seen.val))).mul (.fin false 1 exp)))
  let bank := (List.range 64).foldl (fun (b : Bank) j =>
    Tbl.upd {} b (64 * m + j) (fun (x : AccEl) => dot x ys ((List.range rank).map (fun q => e4m3.val (s.kore.bField row j q 1)))))
    (r.bank wb)
  { (r.setBank wb bank) with part := r.part.filter (fun c => c.1 / 64 != m) }

/-- What every part of one ADPT word shares (R208): its kind, mover, bank, registers and the index of its tags. -/
structure Adpt where
  up    : Bool
  mv    : Mover
  wb    : Bool
  pi    : BitVec 3
  dir   : Nat
  index : Nat
deriving DecidableEq, Repr

/-- Row `m` of adapter `id` takes its term from its entry in the bay; none where the bay does not hold it (R208, R209). -/
def State.adaptRow (s : State) (w : Adpt) (r : Routine) (m id : Nat) : Option (State × Except Nat Routine) :=
  match s.kore.bayUse w.up id w.index with
  | none => none
  | some (k, e) =>
    let (s, d) := (s.setKore k).adapterDir w.mv w.dir id
    some (match d with
      | .error c => (s, .error c)
      | .ok (_, _, rank, exp) =>
        if s.kore.badRow e.row then (s, .error (4 + 256 * 2))
        else if w.up then (s.mxRows [e.row], .ok (s.upTerm r e.row rank exp w.wb m))
        else match s.downTerm w.mv r e.row rank m with
          | .error c => (s, .error c)
          | .ok (r, ls) => ((s.mxRead ls).mxRows [e.row], .ok r))

/-- The rows of a round, each with its identifier, take their terms in ascending order; those whose entry is missing are
left over, marked (R209). -/
def State.adaptRows (s : State) (w : Adpt) (r : Routine) : List (Nat × Nat) → State × Except Nat (Routine × List (Nat × Nat))
  | [] => (s, .ok (r, []))
  | (m, id) :: rest =>
    match s.adaptRow w r m id with
    | none =>
      let (s, v) := s.adaptRows w r rest
      (s, match v with
        | .error c => .error c
        | .ok (r, left) => .ok (r, (m, id) :: left))
    | some (s, .error c) => (s, .error c)
    | some (s, .ok r) => s.adaptRows w { r with marks := r.marks ++ [m] } rest

/-- A round's rows (R209 step 1): of the rows not yet done, in ascending order, as many as `room` entries serve, with their
identifiers, and the tags they need; rows without an adapter are done at once. -/
def State.adaptRound (s : State) (w : Adpt) (room : Nat) (pins : List (Nat × Nat)) (r : Routine) :
    List Nat → State × Except Nat (Routine × List (Nat × Nat) × List (Nat × Nat))
  | [] => (s, .ok (r, [], pins))
  | m :: ms =>
    match s.adapterId w.mv r w.pi m with
    | .error c => (s, .error c)
    | .ok (id, ls) =>
      let s := s.mxRead ls
      if id = 0 then s.adaptRound w room pins { r with marks := r.marks ++ [m] } ms
      else
        let pins' := if pins.contains (id, w.index) then pins else pins ++ [(id, w.index)]
        if room < pins'.length then (s, .ok (r, [], pins))
        else
          let (s, v) := s.adaptRound w room pins' r ms
          (s, match v with
            | .error c => .error c
            | .ok (r, rows, pins) => .ok (r, (m, id) :: rows, pins))

/-- An ADPT word goes on (R209): the rows of its round take their terms as far as the bay holds their entries; the first
that is missing is fetched; when none is left the next round begins, and after the last the word is done. `fuel` bounds the
rounds, each of which completes a row. -/
def State.adapt (s : State) (o : ChildOp) (w : Adpt) (rows : List Nat) : Nat → Routine → Out
  | 0, r => .next (s.setMx r)
  | fuel + 1, r =>
    let (s, start) := if r.pins.isEmpty then
        s.adaptRound w s.kore.bayRows [] r (rows.filter (fun m => !r.marks.contains m))
      else (s, .ok (r, r.round, r.pins))
    match start with
    | .error c => s.mxFault o c
    | .ok (r, todo, pins) =>
      let (s, v) := s.adaptRows w r todo
      match v with
      | .error c => s.mxFault o c
      | .ok (r, (m, id) :: left) =>
        .next (s.setMx { r with round := (m, id) :: left, pins := pins, fetch := some (w.up, id, w.index, w.dir) })
      | .ok (r, []) =>
        if rows.all r.marks.contains then s.mxNext { r with marks := [], round := [], pins := [] }
        else s.adapt o w rows fuel { r with round := [], pins := [] }

/-- ADPT: only in FP8 mode, and with a bay (R206, R208). -/
def State.adpt (s : State) (up : Bool) (nr frow : BitVec 6) (wb : BitVec 1) (pi pt pd : BitVec 3) : Out :=
  s.onMode fun mode o r s =>
    if mode ≠ 0 then s.mxFault o mxFormat
    else if s.kore.mxcfg = 0 then s.mxFault o mxBay
    else if r.fetch.isSome then .next s
    else
      let t := (r.reg pt).toNat
      let w : Adpt := { up := up, mv := s.moverOf s.focus o, wb := wb == 1, pi := pi, dir := (r.reg pd).toNat,
                        index := if up then t / 65536 % 65536 else t % 65536 + r.kcur / 64 }
      s.adapt o w ((List.range (nr.toNat + 1)).map (· + frow.toNat)) (nr.toNat + 2) r

/-- ADPT DOWN (R208). -/
def execAdptDown (nr frow : BitVec 6) (wb : BitVec 1) (pi pt pd : BitVec 3) (s : State) : Out :=
  s.adpt false nr frow wb pi pt pd

/-- ADPT UP (R208). -/
def execAdptUp (nr frow : BitVec 6) (wb : BitVec 1) (pi pt pd : BitVec 3) (s : State) : Out :=
  s.adpt true nr frow wb pi pt pd

/-- The entry that the running ADPT of the core in focus waits for is fetched into a row of the bay (R207, R209, R210). -/
def State.adapterFetch (s : State) (o : ChildOp) (r : Routine) (up : Bool) (id index dir : Nat) : State :=
  let mv := s.moverOf s.focus o
  let (s, d) := s.adapterDir mv dir id
  let fail := fun (s : State) (cause : Nat) => s.mxEnd o 6 cause
  match d with
  | .error c => fail s c
  | .ok (dva, uva, _, _) =>
    let (s, v) := s.readBytes mv 0 65 (((if up then uva else dva) + 4096 * index) % 2 ^ 64) 4096
    match v with
    | .error (c, _) => fail s (if c = 4 then 4 else mxAdapter)
    | .ok row =>
      let s := s.mxNote row.2
      let (k, n) := s.kore.bayRoom (fun e => e.up == up && r.pins.contains (e.id, e.index))
      s.setKore { k with
        lintel := Mem.write k.lintel (4096 * n) 4096 row.1, badLintel := k.badLintel.filter (fun l => l / 64 != n),
        soft := k.soft.filter (fun e => !(e.1 == 2 && e.2 / 64 == n)), ce := k.ce.filter (fun e => !(e.1 == 2 && e.2 / 64 == n)),
        bay := k.bay ++ [{ row := n, up := up, id := id, index := index }], mx := { r with fetch := none } }

/-- ADAPTER_FETCH_COMPLETE (R209): the missing entry of a core's ADPT comes into the bay. -/
def execAdapterFetchComplete (core : Nat) (s : State) : Out :=
  let s0 := { s with focus := core }
  match s0.mxRun with
  | none => .next s
  | some (o, r) =>
    match r.fetch with
    | none => .next s
    | some (up, id, index, dir) => .next { s0.adapterFetch o r up id index dir with focus := s.focus }

/-! ### ABFT (R211, R212) -/

/-- The exact sum over the columns of a row, with the flags that its elements have (R176, R211). -/
def Routine.rowSum (r : Routine) (wb : Bool) (m : Nat) : AccEl :=
  (List.range 64).foldl (fun a j => a.add (Tbl.get {} (r.bank wb) (64 * m + j))) {}

/-- ABFT ARM (R211). -/
def execAbftArm (nr frow : BitVec 6) (wb : BitVec 1) (s : State) : Out :=
  s.onMode fun mode o r s =>
    if 1 < mode then s.mxFault o mxFormat
    else
      let n := nr.toNat + 1
      let ck := if mode = 0 then
          (List.range n).foldl (fun (t : Bank) i => Tbl.set {} t (frow.toNat + i) (r.rowSum (wb == 1) (frow.toNat + i))) []
        else []
      s.mxNext { r with arm := some (frow.toNat, n, wb == 1), armWord := r.word + 1, snapW0 := r.w0, snapW1 := r.w1,
                        snapKcur := r.kcur, snapBcur := r.bcur, snapSrow := r.srow, snapSsrow := r.ssrow, snapQ := r.q,
                        snapLm := r.lm, snapAct := r.act, snapStream := (r.abase, r.pitch, r.ord, r.swz), ckA := ck,
                        ckB := [], second := false }

/-- The routine as ARM found it, at the word after the ARM (R211). -/
def Routine.rearm (r : Routine) (mode : Nat) : Routine :=
  let r := { r with
    w0 := r.snapW0, w1 := r.snapW1, kcur := r.snapKcur, bcur := r.snapBcur, srow := r.snapSrow, ssrow := r.snapSsrow,
    q := r.snapQ, lm := r.snapLm, act := r.snapAct, abase := r.snapStream.1, pitch := r.snapStream.2.1,
    ord := r.snapStream.2.2.1, swz := r.snapStream.2.2.2, word := r.armWord, second := true, ckB := [], waited := 0,
    drained := 0 }
  { r with ckA := match r.arm with
      | some (f, n, wb) =>
        if mode = 0 then (List.range n).foldl (fun (t : Bank) i => Tbl.set {} t (f + i) (r.rowSum wb (f + i))) [] else []
      | none => [] }

/-- ABFT CHECK (R211, R212). -/
def execAbftCheck (nr frow : BitVec 6) (wb : BitVec 1) (s : State) : Out :=
  s.onMode fun mode o r s =>
    if 1 < mode then s.mxFault o mxFormat
    else
      let rows := match r.arm with
        | none => []
        | some (f, n, w) => ((List.range (nr.toNat + 1)).map (· + frow.toNat)).filter (fun m =>
            decide (w = (wb == 1)) && decide (f ≤ m) && decide (m < f + n))
      let actual := fun (m : Nat) => if mode = 0 then r.rowSum (wb == 1) m else Tbl.get {} r.ckB m
      let flagged := rows.filter (fun m => (actual m).flagged)
      let wrong := rows.any (fun m => !(actual m).flagged && decide ((actual m).v ≠ (Tbl.get ({} : AccEl) r.ckA m).v))
      let k := { s.kore with mxUnchk := BitVec.ofNat 16 (min 0xFFFF (s.kore.mxUnchk.toNat + flagged.length)) }
      if wrong then
        if r.second then (s.setKore k).mxFault o mxChkfail
        else .next (s.setKore { k with mx := r.rearm mode, mxRepl := if k.mxRepl = 0xFF then k.mxRepl else k.mxRepl + 1 })
      else (s.setKore k).mxNext { r with arm := none, ckA := [], ckB := [], second := false }

/-! ### Control of a routine (R201 to R205) -/

/-- LOOPM (R201). -/
def execLoopm (lvl : BitVec 2) (src : BitVec 1) (pr : BitVec 3) (cnt tgt : BitVec 14) (s : State) : Out :=
  s.onMx fun _ r s =>
    let l := lvl.toNat
    let count := if src = 1 then (r.reg pr).toNat % 16384 else cnt.toNat
    let lm := if r.act.getD l false then r.lm.getD l 0 else max count 1 - 1
    if 0 < lm then
      .next (s.setMx { r with lm := r.lm.set l (lm - 1), act := r.act.set l true, word := tgt.toNat, waited := 0 })
    else s.mxNext { r with lm := r.lm.set l lm, act := r.act.set l false }

/-- PADD (R202). -/
def execPadd (pd : BitVec 3) (src : BitVec 1) (ps : BitVec 3) (imm : BitVec 32) (s : State) : Out :=
  s.onMx fun _ r s =>
    s.mxNext { r with q := r.q.set pd.toNat (r.reg pd + (if src = 1 then r.reg ps else imm.signExtend 64)) }

/-- A suspension point (R203, R304): a pending cancel ends the operation, a pending pre-emption suspends it with the
routine `r`; otherwise it goes on. -/
def State.suspendOr (s : State) (o : ChildOp) (r : Routine) (k : State → Out) : Out :=
  if o.cancel then .next (s.mxEnd o 5 0)
  else if o.suspend then
    .next ((s.setMx { r with run := false }).setKore
      (((s.setMx { r with run := false }).kore).setOp { o with state := 3, suspend := false }))
  else k s

/-- YLD (R203). An operation suspended here saves the YLD's own word and goes on at it (R213; the worked example suspends 'at
word 261', the YLD's). -/
def execYld (s : State) : Out :=
  s.onMx fun o r s => s.suspendOr o r fun s => s.mxNext r

/-- A hod that a routine may use in a mode, as an agent of its context (R204, R316, R318). -/
def State.mxHod (s : State) (o : ChildOp) (i : BitVec 5) (bytes : Bool) : Option Hod :=
  let d := s.kore.hod i.toNat
  if !d.en || (d.priv && decide (d.own ≠ bankOf o.cx)) || d.ovf || d.mode != bytes then none else some d

/-- A routine waits for a hod: a suspension point, bounded by op.wdog (R203, R204). -/
def State.mxWait (s : State) (o : ChildOp) (r : Routine) : Out :=
  s.suspendOr o { r with waited := 0 } fun s =>
    if o.wdog ≠ 0 ∧ o.wdog < r.waited + 1 then s.mxFault o mxTimeout else .next (s.setMx { r with waited := r.waited + 1 })

/-- The operation has waited for a hod: what it is ordered after is taken on (R319). -/
def State.mxTake (s : State) (o : ChildOp) (i : BitVec 5) (d : Hod) : State :=
  s.setKore ((s.kore.setHod i.toNat d).setOp { o with seen := (o.seen ++ d.seen).dedup })

/-- HWT WAITF (R204, R316). -/
def execHwtWaitf (hod : BitVec 5) (n : BitVec 8) (s : State) : Out :=
  s.onMx fun o r s => match s.mxHod o hod false with
    | none => s.mxFault o mxHod
    | some d => if n.toNat ≤ d.filled && s.kore.hodReady d then (s.mxTake o hod d).mxNext r else s.mxWait o r

/-- HWT ADVR (R204, R316): a release of what the operation has seen (R319). -/
def execHwtAdvr (hod : BitVec 5) (n : BitVec 8) (s : State) : Out :=
  s.onMx fun o r s => match s.mxHod o hod false with
    | none => s.mxFault o mxHod
    | some d =>
      let e := d.advR n.toNat
      (s.setKore (s.kore.setHod hod.toNat { e with seen := s.prune (e.seen ++ o.seen) })).mxNext r

/-- HWT WAITB (R204, R317): the first wait to find the epoch complete closes it. -/
def execHwtWaitb (hod : BitVec 5) (s : State) : Out :=
  s.onMx fun o r s => match s.mxHod o hod true with
    | none => s.mxFault o mxHod
    | some d =>
      if d.complete && s.kore.hodReady d then
        let (e, ok) := d.close
        if ok then (s.mxTake o hod e).mxNext r else (s.setKore (s.kore.setHod hod.toNat e)).mxFault o mxHod
      else s.mxWait o r

/-- END (R205). -/
def execEndOp (s : State) : Out := s.onMx fun o _ s => .next (s.mxEnd o 4 0)

end Sys2Proof.Machine
end

