-- ==== Sys2Proof/Machine/Placement.lean ====
section
/-! DEFINITION. Levels, the canonical placement of a launch, and the actual placement of a gang on the free cores of a
device (05 R115 to R121, 16 R359). -/

namespace Sys2Proof.Machine

/-! ### Domains and levels (R115 to R118) -/

/-- Cores in one instance of a domain code; CTX counts as its core (R116, R118). -/
def coresIn (d : Nat) : Nat :=
  match d with
  | 0 => 1
  | 1 => 1
  | 2 => 4
  | 3 => 24
  | 4 => 96
  | 5 => 384
  | 6 => 768
  | _ => 4096 * 768

/-- Instances of domain `d` in one instance of domain `p` (R118). -/
def contained (p d : Nat) : Nat := if d = 0 then 2 * coresIn p else coresIn p / coresIn d

/-- The narrowest scope a level of a domain may have (R116). -/
def narrowest (d : Nat) : Nat := if d ≤ 1 then 0 else if d = 7 then 7 else d - 1

/-- The domain of the root (R118). -/
def rootDom (ls : List Level) : Nat := match ls with | l :: _ => if 6 ≤ l.dom then 7 else 6 | [] => 6

/-- The levels obey R117. -/
def levelsOk (ls : List Level) : Bool :=
  (ls.zip (ls.drop 1)).all (fun e => decide (e.2.dom < e.1.dom))
    && ls.all (fun l => decide (narrowest l.dom ≤ l.scope) && decide (l.scope ≠ 6) && decide (1 ≤ l.count))
    && ls.zipIdx.all (fun e => decide (e.1.dom ≠ 7) || (decide (e.2 = 0) && decide (e.1.count = 1)))
    && (match ls.getLast? with | some l => decide (l.dom ≤ 1) | none => false)

/-- Every count is within R118, under a parent's domain. -/
def countsOk : Nat → List Level → Bool
  | _, [] => true
  | p, l :: ls => decide (l.count ≤ contained p l.dom) && countsOk l.dom ls

/-- SCNT (R119). -/
def strandCount (ls : List Level) : Nat := ls.foldl (fun n l => n * l.count) 1

/-! ### The canonical placement (R119, R120) -/

/-- A domain instance by its code and its lowest gang device, die and tile, and the stream of a context. -/
structure Pos where
  dom  : Nat
  dev  : Nat := 0
  die  : Nat := 0
  tile : Nat := 0
  sec  : Bool := false
deriving DecidableEq, Repr

/-- The lowest tile of a quad (R115). -/
def quadBase (q : Nat) : Nat := 24 * (q / 6) + 2 * (q % 6)

/-- The tiles of a quad as offsets from its lowest. -/
def quadTile (i : Nat) : Nat := [0, 1, 12, 13].getD i 0

/-- The instance number `i` of domain `d`, where an instance holds `k` per die, inside an instance that starts at a
die (R115, R120). -/
def Pos.perDie (p : Pos) (d k i : Nat) (tile : Nat → Nat) : Pos :=
  let n := i / k
  { dom := d, dev := if p.dom = 7 then n / 8 else p.dev, die := if p.dom = 7 then n % 8 else p.die + n, tile := tile (i % k) }

/-- The `i`-th core of a domain instance. -/
def Pos.coreAt (p : Pos) (i : Nat) : Pos :=
  match p.dom with
  | 0 => { p with dom := 1 }
  | 1 => { p with dom := 1 }
  | 2 => { p with dom := 1, tile := p.tile + quadTile i }
  | 3 => { p with dom := 1, tile := p.tile + i }
  | _ => p.perDie 1 96 i id

/-- The `i`-th instance of domain `d` in a domain instance (R120); a context is chosen by its core and stream. -/
def Pos.inst (p : Pos) (d i : Nat) : Pos :=
  match d with
  | 0 => { (p.coreAt (i % coresIn p.dom)) with dom := 0, sec := decide (coresIn p.dom ≤ i) }
  | 1 => p.coreAt i
  | 2 => if p.dom = 3 then { p with dom := 2, tile := quadBase (6 * (p.tile / 24) + i) } else p.perDie 2 24 i quadBase
  | 3 => p.perDie 3 4 i (24 * ·)
  | 4 => p.perDie 4 1 i (fun _ => 0)
  | 5 => if p.dom = 7 then { dom := 5, dev := i / 2, die := 4 * (i % 2) } else { p with dom := 5, die := 4 * i, tile := 0 }
  | 6 => { dom := 6, dev := i }
  | _ => { dom := 7 }

/-- A strand of the canonical placement: its level indices and its place. -/
structure Strand where
  lidx : List Nat
  pos  : Pos
deriving DecidableEq, Repr

/-- The strands below a domain instance, in index order (R119, R120). -/
def strandsBelow : List Level → Pos → List Nat → List Strand
  | [], p, ix => [⟨ix, p⟩]
  | l :: ls, p, ix => (List.range l.count).flatMap (fun i => strandsBelow ls (p.inst l.dom i) (ix ++ [i]))

/-- All strands of a launch. -/
def allStrands (ls : List Level) : List Strand := strandsBelow ls { dom := rootDom ls } []

/-- A strand's index (R119). -/
def sidxOf (ls : List Level) (ix : List Nat) : Nat := (ls.zip ix).foldl (fun n e => n * e.1.count + e.2) 0

/-- The gang tile of a strand. -/
def Pos.gtile (p : Pos) : Nat := 96 * p.die + p.tile

/-- The gang devices that the canonical placement uses (R118, R414). -/
def devicesOf (ls : List Level) : List Nat := ((allStrands ls).map (·.pos.dev)).dedup

/-! ### The actual placement (R121, R359) -/

/-- The first choice that leads to a whole assignment: each item takes, in order, an unused option that it fits. -/
def assign (fits : Nat → Nat → Bool) (options : List Nat) : List Nat → List Nat → Option (List (Nat × Nat))
  | [], _ => some []
  | x :: xs, used =>
    (options.filter (fun o => fits x o && !used.contains o)).findSome? (fun o =>
      (assign fits options xs (o :: used)).map (fun r => (x, o) :: r))

/-- Each item takes the lowest unused option it fits (R359). -/
def takeLowest (fits : Nat → Nat → Bool) (options : List Nat) : List Nat → List Nat → Option (List (Nat × Nat))
  | [], _ => some []
  | x :: xs, used =>
    match options.find? (fun o => fits x o && !used.contains o) with
    | none => none
    | some o => (takeLowest fits options xs (o :: used)).map (fun r => (x, o) :: r)

/-- Gang quads of one gang die to logical quads of a logical die whose free quads are `free`; with a SECTOR level each
gang sector goes whole into one logical sector (R121, R359). -/
def placeQuads (sector : Bool) (free : Nat → Bool) (qs : List Nat) : Option (List (Nat × Nat)) :=
  if sector then
    let secs := (qs.map (· / 6)).dedup
    (assign (fun s t => qs.all (fun q => decide (q / 6 ≠ s) || free (6 * t + q % 6))) [0, 1, 2, 3] secs []).map (fun m =>
      qs.map (fun q => (q, 6 * (((m.find? (fun e => e.1 == q / 6)).map (·.2)).getD 0) + q % 6)))
  else takeLowest (fun _ q => free q) (List.range 24) qs []

/-- Gang dies to logical dies: each in ascending order to the lowest that can hold its quads; with a HALF level each gang
half goes whole into one logical half (R121, R359). -/
def placeDies (half sector : Bool) (free : Nat → Nat → Bool) (dies : List Nat) (quads : Nat → List Nat) :
    Option (List (Nat × Nat)) :=
  let fits := fun (g d : Nat) => (placeQuads sector (free d) (quads g)).isSome
  if half then
    let halves := (dies.map (· / 4)).dedup
    let inHalf := fun (h t : Nat) => takeLowest fits ((List.range 4).map (· + 4 * t)) (dies.filter (fun d => decide (d / 4 = h))) []
    (assign (fun h t => (inHalf h t).isSome) [0, 1] halves []).map (fun m =>
      m.flatMap (fun e => (inHalf e.1 e.2).getD []))
  else takeLowest fits (List.range 8) dies []

/-- The cores of the gang tiles `need` on a device whose free logical quads are `free` (R359): none when they do not
fit. -/
def placeGang (ls : List Level) (need : List Nat) (free : Nat → Nat → Bool) : Option (List (Nat × Nat)) :=
  let half := ls.any (fun l => decide (l.dom = 5))
  let sector := ls.any (fun l => decide (l.dom = 3))
  let dies := (List.range 8).filter (fun d => need.any (fun t => decide (t / 96 = d)))
  let quads := fun (g : Nat) => (List.range 24).filter (fun q => need.any (fun t => decide (t / 96 = g) && decide (quadOf (t % 96) = q)))
  (placeDies half sector free dies quads).map (fun dm =>
    need.filterMap (fun t =>
      match dm.find? (fun e => e.1 == t / 96) with
      | none => none
      | some (g, d) =>
        match (placeQuads sector (free d) (quads g)).bind (fun qm => qm.find? (fun e => e.1 == quadOf (t % 96))) with
        | none => none
        | some (gq, lq) => some (t, 96 * d + quadBase lq + (t % 96 - quadBase gq))))

end Sys2Proof.Machine
end

