-- ==== Sys2Proof/Machine/Saves.lean ====
section
/-! DEFINITION. The save image of a core and the descriptors of its operations, written at a pre-emption and read back at
the return (18 R385, R386, 08 R213, 14 R313). -/

namespace Sys2Proof.Machine

/-! ### Operation descriptors (R386) -/

/-- The state of a matrix operation as its descriptor holds it (R213): the word, q0 to q7 and the loop state, KCUR, BCUR,
SROW and SSROW, the A descriptor and the mode, FMTT, lc0 and the watchdog, both banks and the adapter partials with their
flags. The layout is the model's (log entry 103). -/
def Routine.bytes (r : Routine) (o : ChildOp) : List Byte :=
  let bank := fun (b : Tbl AccEl) => (List.range 4096).flatMap (fun i => natToBytes 16 ((Tbl.get ({} : AccEl) b i).record))
  natToBytes 8 r.word ++ r.q.flatMap (fun w => natToBytes 8 w.toNat) ++ r.lm.flatMap (natToBytes 2)
    ++ r.act.flatMap (fun b => natToBytes 1 b.toNat) ++ natToBytes 8 r.kcur ++ natToBytes 8 r.bcur.toNat ++ natToBytes 1 r.srow
    ++ natToBytes 1 r.ssrow ++ natToBytes 8 r.abase ++ natToBytes 4 r.pitch ++ natToBytes 1 (r.ord.toNat + 2 * r.swz.toNat)
    ++ natToBytes 1 (match r.mode with | none => 0xFF | some m => m) ++ natToBytes 8 o.fmtt.toNat ++ natToBytes 1 o.lc0
    ++ natToBytes 4 o.wdog ++ bank r.w0 ++ bank r.w1 ++ bank r.part

/-- The payload of an operation's descriptor: its packet, or the state of a matrix operation that has begun. -/
def ChildOp.payload (o : ChildOp) (r : Routine) : List Byte :=
  if o.kind = .mcall ∧ o.state = 3 then r.bytes o else o.packet

/-- Where an operation goes on: a copy's next line, a collective's next step, a matrix operation's store word. -/
def ChildOp.position (o : ChildOp) (r : Routine) : Nat :=
  match o.kind with
  | .mcall => if o.state = 1 then o.start else r.word
  | .coll => o.lines / 64
  | _ => o.lines

/-- The paired half that an operation's destination fills, as R386 codes it: region and half, or 0xFF (R225). -/
def ChildOp.halfCode (o : ChildOp) : Nat :=
  let dst := match o.kind with
    | .coll => if leAt o.packet 6 1 / 16 % 8 = 1 then some (leAt o.packet 16 8) else none
    | .cryp => if leAt o.packet 3 1 / 16 = 1 then some (leAt o.packet 16 8) else none
    | .copy => if (copyP o.packet o.fromF o.toF).dsp = 1 then some (copyP o.packet o.fromF o.toF).dst else none
    | _ => none
  match dst.bind (fun a => o.halves.find? (fun h => decide (h.base ≤ a) && decide (a < h.base + h.size))) with
  | some h => h.idx + 8 * h.dst.toNat
  | none => 0xFF

/-- The descriptor of an operation: a header of 64 bytes and the payload (R386). -/
def ChildOp.descriptor (o : ChildOp) (r : Routine) : List Byte :=
  (List.range 4).foldl (fun b w => b ++ natToBytes 8 (o.recordWord w).toNat) (natToBytes 8 o.token.toNat)
    ++ natToBytes 1 o.ch ++ natToBytes 1 (o.pri + 4 * o.land) ++ natToBytes 2 0 ++ natToBytes 4 (o.payload r).length
    ++ natToBytes 8 (o.position r) ++ natToBytes 8 o.halfCode ++ o.payload r

/-- The operation whose descriptor begins a list of bytes; what the descriptor does not hold is as in `o` (R386). -/
def ChildOp.restored (o : ChildOp) (b : List Byte) : ChildOp :=
  let w0 := leAt b 8 8
  { o with
    token := BitVec.ofNat 64 (leAt b 0 8), state := w0 % 8, det := w0 / 16 % 2 == 1, owner := w0 / 32 % 4,
    cause := w0 / 65536 % 256, lines := w0 / 2 ^ 32, addr := BitVec.ofNat 64 (leAt b 16 8),
    runck := BitVec.ofNat 32 (leAt b 24 4), expck := BitVec.ofNat 32 (leAt b 28 4), pred := BitVec.ofNat 64 (leAt b 32 8),
    ch := leAt b 0x28 1, pri := leAt b 0x29 1 % 4, land := leAt b 0x29 1 / 4,
    packet := if o.kind = .mcall then o.packet else (b.drop 64).take (leAt b 0x2C 4) }

/-- Operations in channel and queue order (R385). -/
def byChannel (ops : List ChildOp) : List ChildOp :=
  (List.range 8).flatMap (fun ch => ops.filter (fun o => o.ch == ch))

/-- Operations take back what their descriptors, one behind another, hold. -/
def restoreOps : List ChildOp → List Byte → List ChildOp
  | [], _ => []
  | o :: rest, b => o.restored b :: restoreOps rest (b.drop (64 + leAt b 0x2C 4))

/-! ### The core save image (R385) -/

/-- The context image of a core that its save image holds: that of a context with a strand that runs. -/
def Ctx.imageOf (x : Ctx) : List Byte := if x.gang ≠ 0 ∧ !x.halted then x.image else []

/-- The section of the hods and the row latch: HCFG, HCNT and HST of every hod, then the latch entries, each with its
pending flag, and the half entry. The places of the latch entries are the model's (log entry 103). -/
def Core.hodSection (k : Core) : List Byte :=
  let entry := fun (v : Option Nat) => natToBytes 512 (v.getD 0) ++ natToBytes 8 v.isSome.toNat
  (List.range 32).flatMap (fun i => natToBytes 8 (k.hod i).cfg ++ natToBytes 8 (k.hod i).cnt ++ natToBytes 8 (k.hod i).st)
    ++ (List.range 4).flatMap (fun i => entry ((k.latch[i]?).map (·.toNat))) ++ entry (k.halfRow.map (·.toNat))

/-- The save image of a core (R385, R386). -/
def Core.saveImage (k : Core) : SaveImage :=
  { head := natToBytes 8 1 ++ natToBytes 4 k.cb0.imageOf.length ++ natToBytes 4 k.cb1.imageOf.length
      ++ natToBytes 8 k.strm ++ natToBytes 8 k.mxcfg.toNat ++ natToBytes 8 k.mxst,
    ctx0 := k.cb0.imageOf, ctx1 := k.cb1.imageOf, tess := k.tess, acm := k.acm, lintel := k.lintel, store := k.store,
    ltt := k.ltt, hods := k.hodSection, ops := (byChannel k.ops).flatMap (·.descriptor k.mx) }

/-- The byte at an offset of a save image: its sections at their places, zero elsewhere (R385). -/
def SaveImage.byteAt (i : SaveImage) (a : Nat) : Byte :=
  let at_ := fun (b : List Byte) (n : Nat) => (b[n]?).getD 0
  let word := fun (w : Word64) (n : Nat) => BitVec.ofNat 8 (w.toNat / 256 ^ n)
  if a < 0x10000 then at_ i.head a
  else if a < 0xA0000 then at_ i.ctx0 (a - 0x10000)
  else if a < 0x130000 then at_ i.ctx1 (a - 0xA0000)
  else if a < 0x1F0000 then Mem.byte i.tess (a - 0x130000)
  else if a < 0x230000 then Mem.byte i.acm (a - 0x1F0000)
  else if a < 0x330000 then Mem.byte i.lintel (a - 0x230000)
  else if a < 0x350000 then word (Tbl.get 0 i.store ((a - 0x330000) / 8)) (a % 8)
  else if a < 0x360000 then
    let e := Tbl.get ({} : Ltt) i.ltt ((a - 0x350000) / 16)
    word (if a / 8 % 2 = 0 then e.w0 else e.w1) (a % 8)
  else if a < 0x361000 then at_ i.hods (a - 0x360000)
  else at_ i.ops (a - 0x361000)

/-- What of a core its save image has no place for (log entry 47). -/
def Core.rest (k : Core) : Core := { k with tess := [], acm := [], lintel := [], store := [], ltt := [] }

/-- A core given back from its save image and the rest of it; its operations continue from their descriptors (R313,
R384 to R386). -/
def Core.fromSave (k : Core) (i : SaveImage) : Core :=
  let back := restoreOps (byChannel k.ops) i.ops
  { k with tess := i.tess, acm := i.acm, lintel := i.lintel, store := i.store, ltt := i.ltt,
           ops := k.ops.map (fun (o : ChildOp) => (back.find? (fun q => q.token == o.token)).getD o) }

end Sys2Proof.Machine
end

