-- ==== Sys2Proof/Machine/Launch.lean ====
section
/-! DEFINITION. The launch distributor: launch records and their checks, queue scans, selection, placement and the start of
a gang, and its pre-emption and return (05 R123 to R126, 08 R192, 10 R228, R233, 14 R320, 16 R354 to R364, 18 R384 to
R386, 21 R414). -/

namespace Sys2Proof.Machine

/-! ### The record (R123) -/

/-- Level descriptors of a record. -/
def recLevels (r : List Byte) : List Level :=
  (List.range (min 8 (leAt r 2 1))).map (fun i =>
    { dom := leAt r (0x10 + 4 * i) 1 % 8, scope := leAt r (0x11 + 4 * i) 1 % 8, count := leAt r (0x12 + 4 * i) 2 })

/-- Every reserved field of a record is zero, and NLEV is 1 to 8 (check 2). -/
def recZero (r : List Byte) : Bool :=
  let n := leAt r 2 1
  decide (1 ≤ n) && decide (n ≤ 8) && decide (leAt r 3 1 < 2) && decide (leAt r 4 1 < 4) && decide (leAt r 5 1 < 16)
    && decide (leAt r 6 1 < 4) && decide (leAt r 7 1 < 4) && decide (leAt r 0x56 2 = 0) && decide (leAt r 0x78 8 = 0)
    && (List.range 8).all (fun i => if i < n then decide (leAt r (0x10 + 4 * i) 1 < 8) && decide (leAt r (0x11 + 4 * i) 1 < 8)
      else decide (leAt r (0x10 + 4 * i) 4 = 0))

/-- Bytes of a granule code. -/
def granule (g : Nat) : Nat := pageBytes g

/-- Bytes of the preset block that check 10 covers (R124). The spec gives that image no length: the model takes it to its last
preset, 16 × PAIRN bytes without hods and 0x80 + 16 × HODN with them, unread presets between included (DESIGN CHOICE, log
entry 136). -/
def presLen (r : List Byte) : Nat :=
  let hodn := leAt r 0x52 1
  if hodn = 0 then 16 * leAt r 0x53 1 else 0x80 + 16 * hodn

/-- One image of a record, read by the distributor through the tenant's page table; a line that the memory refuses or has
lost counts as one that does not translate (log entry 105). -/
def State.imageAt (s : State) (ten va n : Nat) : State × Option (List Byte) :=
  if n = 0 then (s, some [])
  else if va = 0 then (s, none)
  else
    let (s, b) := s.engReadBytes 1 ten (n / 64 + 2) va n
    match b with
    | .ok b => (s, some b)
    | .error _ => (s, none)

/-- All images of a record; counts out of range read nothing (they fail an earlier check). -/
def State.images (s : State) (ten : Nat) (r : List Byte) : State × Images :=
  let cap := fun (n lim : Nat) => if n ≤ lim then n else 0
  let (s, t) := s.imageAt ten (leAt r 0x60 8) (cap (leAt r 0x6C 4) Config.tessSize)
  let (s, m) := s.imageAt ten (leAt r 0x48 8) (8 * cap (leAt r 0x50 2) 16384)
  let (s, p) := s.imageAt ten (leAt r 0x58 8) (if leAt r 0x52 1 ≤ 32 ∧ leAt r 0x53 1 ≤ 8 then presLen r else 0)
  let (s, l) := if leAt r 0x38 8 = 0 then (s, some []) else s.imageAt ten (leAt r 0x38 8) 0x10000
  (s, { timg := t, mpb := m, pres := p, ltt := l })

/-! ### Presets (R228, R320) -/

/-- Paired-region presets: index and region. -/
def pairPresets (r p : List Byte) : List (Nat × Pair) :=
  (List.range (leAt r 0x53 1)).map (fun i =>
    let b := (p.drop (16 * i)).take 16
    (leAt b 8 1, { en := true, base := leAt b 0 4, half := leAt b 4 4, ref := leAt b 9 1 % 2 == 1 }))

/-- A hod preset as an HCFG value (R314, R320), with its index. -/
def hodPresets (r p : List Byte) : List (Nat × Nat) :=
  (List.range (leAt r 0x52 1)).map (fun i =>
    let b := (p.drop (0x80 + 16 * i)).take 16
    let f := leAt b 0xB 1
    (leAt b 0xA 1, leAt b 0 4 + 2 ^ 20 * (leAt b 4 4 / 64) + 2 ^ 32 * leAt b 8 2 + 2 ^ 49 * leAt b 0xC 1 + 2 ^ 52 * (f % 2)
      + 2 ^ 53 * (f / 2 % 2) + 2 ^ 54 + 2 ^ 55 * (f / 4 % 2)))

/-- Every preset read obeys R222 and R228, or R315 and R320 (check 8). -/
def presetsOk (r p : List Byte) : Bool :=
  let ps := pairPresets r p
  let hs := hodPresets r p
  ps.zipIdx.all (fun e =>
    let b := (p.drop (16 * e.2)).take 16
    let q := e.1.2
    decide (leAt b 9 1 < 2) && decide (leAt b 0xA 6 = 0) && decide (e.1.1 < 8) && decide (q.base % 64 = 0)
      && decide (q.half % 64 = 0) && decide (64 ≤ q.half) && decide (q.half ≤ 0x60000)
      && decide (q.base + 2 * q.half ≤ Config.tessSize)
      && (ps.take e.2).all (fun f => decide (f.1 ≠ e.1.1) && (decide (f.2.base + 2 * f.2.half ≤ q.base)
        || decide (q.base + 2 * q.half ≤ f.2.base))))
    && hs.zipIdx.all (fun e =>
      let b := (p.drop (0x80 + 16 * e.2)).take 16
      decide (leAt b 0 4 < 2 ^ 20) && decide (leAt b 4 4 % 64 = 0) && decide (leAt b 4 4 < 2 ^ 17) && decide (leAt b 8 2 ≤ 4096)
        && decide (leAt b 0xA 1 < 32) && decide (leAt b 0xB 1 < 8) && decide (leAt b 0xC 1 < 8) && decide (leAt b 0xD 3 = 0)
        && hcfgOk e.1.2 && (hs.take e.2).all (fun f => decide (f.1 ≠ e.1.1)))

/-! ### The checks of R124, R192 and R361 -/

/-- The store that an MPB image gives. -/
def storeOf (b : List Byte) : Tbl Word64 :=
  (List.range (b.length / 8)).foldl (fun t i => Tbl.set 0 t i (BitVec.ofNat 64 (leAt b (8 * i) 8))) []

/-- The entries of a locked-table image (R233). -/
def lttOf (b : List Byte) : Tbl Ltt :=
  (List.range (b.length / 16)).foldl (fun t i =>
    Tbl.set {} t i ⟨BitVec.ofNat 64 (leAt b (16 * i) 8), BitVec.ofNat 64 (leAt b (16 * i + 8) 8)⟩) []

/-- Dies that a gang of a class may use: unreserved ones, its own class's, those of a higher class (R359). -/
def State.diesFor (s : State) (c : Nat) : List Nat :=
  let resv := fun (d : Nat) => (List.range 16).find? (fun k => decide (1 ≤ k) && (Tbl.get 0 s.rclsIn k).getLsbD d)
  (List.range 8).filter (fun d => match resv d with | none => true | some k => decide (c ≤ k))

/-- The gang tiles of this device that hold strands. -/
def needOf (ls : List Level) (g : Nat) : List Nat :=
  (((allStrands ls).filter (fun t => decide (t.pos.dev = g))).map (·.pos.gtile)).dedup

/-- A class that a tenant may use (R361). -/
def State.classOk (s : State) (ten c : Nat) : Bool := c == 0 || (Tbl.get 0 s.rclsIn c).getLsbD (16 + ten)

/-- This device's number in a tenant's fabric map; none while it has no node or the map does not name it (R412). -/
def State.gdevOf (s : State) (ten : Nat) : Option Nat :=
  if s.nodeId = 0xFFFF then none
  else ((s.tenant ten).fmap.find? (fun e => e.2 == s.nodeId)).map (·.1)

/-- The gang device that this device is in a launch: 0 for a launch of one device (R131, R414). -/
def State.myDevice (s : State) (ten : Nat) (ls : List Level) : Option Nat :=
  if isFabric ls then s.gdevOf ten else some 0

/-- The code of the first check that a record fails, in order; 0 when it passes all (R124, R192, R361). -/
def State.recordCode (s : State) (ten : Nat) (r : List Byte) (im : Images) : Nat :=
  let ls := recLevels r
  let gran := leAt r 7 1
  let entry := leAt r 8 8
  let toff := leAt r 0x68 4
  let tlen := leAt r 0x6C 4
  let tfb := leAt r 0x70 4
  let lttw := leAt r 0x40 8
  let mpn := leAt r 0x50 2
  let canRead := fun (va need : Nat) => match s.tenantAt ten va need with | .ok _ => true | .error _ => false
  if leAt r 0 2 ≠ 1 then 1
  else if !recZero r then 2
  else if !levelsOk ls then 3
  else if !countsOk (rootDom ls) ls then 4
  else if (allStrands ls).any (·.pos.sec) && leAt r 0x54 2 == 0 then 5
  else if entry % 32 ≠ 0 ∨ 2 ^ 48 ≤ entry ∨ toff % 64 ≠ 0 ∨ tlen % 64 ≠ 0 ∨ Config.tessSize < toff + tlen ∨ tfb % 64 ≠ 0
      ∨ Config.tessSize < tfb + 0x880 then 6
  else if gran = 3 ∨ lttw % (4096 * granule gran) ≠ 0 then 7
  else if 16384 < mpn ∨ 32 < leAt r 0x52 1 ∨ 8 < leAt r 0x53 1 ∨ leAt r 0x48 8 % 8 ≠ 0 ∨ leAt r 0x58 8 % 64 ≠ 0
      ∨ !(match im.pres with | some p => presetsOk r p | none => true) then 8
  else if leAt r 3 1 % 2 = 1 ∧ !(s.tenant ten).mlok then 9
  else if !canRead entry 4 ∨ im.timg.isNone ∨ im.mpb.isNone ∨ im.pres.isNone ∨ im.ltt.isNone
      ∨ !((lttOf (im.ltt.getD [])).all (fun e => s.lttOk ten e.2.w0.toNat e.2.w1.toNat gran)) then 10
  else if !storeOk (storeOf (im.mpb.getD [])) then 11
  else if !s.classOk ten (leAt r 5 1) then 12
  else match s.myDevice ten ls with
    | none => 13
    | some g =>
      let ok := s.diesFor (leAt r 5 1)
      if (placeGang ls (needOf ls g) (fun d _ => ok.contains d)).isNone then 13 else 0

/-! ### Claims (R354, R357) -/

/-- RI of the launch queue at `hdr` moves past a claim (R357). -/
def State.passClaim (s : State) (ten hdr claim : Nat) : State := (s.engWrite 1 ten (hdr + 8) 8 (claim + 1)).1

/-- A claim ends without running: STATUS, RI when it stands there, DONEI, and the runtime record (R357, R418). -/
def State.endClaim (s : State) (ten hdr claim state code gang : Nat) (advance : Bool) : State :=
  let s := s.writeStatus ten hdr claim state code gang
  let s := if advance then s.passClaim ten hdr claim else s
  (s.bumpDone ten hdr claim).runtimeRecord ten 3 gang claim (state + 256 * code + gang % 2 ^ 32 * 2 ^ 32) []

/-- A tenant's SHARE and QUANT, as the latest selection took them (R355). -/
def State.share (s : State) (ten : Nat) : Nat := (Tbl.get 0 s.dtcIn ten).toNat / 256 % 256
/-- QUANT, likewise. -/
def State.quant (s : State) (ten : Nat) : Nat := (Tbl.get 0 s.dtcIn ten).toNat / 65536 % 256

/-- The distributor takes its registers as they stand: a write takes effect from its next selection. What it noticed of a
tenant's queue is void where another queue takes its place, and after a write of DTQ it may examine the header again (R354,
R355, R363). -/
def State.takeRegs (s : State) : State :=
  let s := (s.dtqNew.filter (fun t => decide (Tbl.get 0 s.dtq t ≠ Tbl.get 0 s.dtqIn t))).foldl (fun (s : State) t =>
    s.setTenant t { s.tenant t with cand := none, raised := [], expired := [] }) s
  { s with dtqIn := s.dtq, dtcIn := s.dtc, rclsIn := s.rcls, dtqNew := [],
           dtqBad := s.dtqBad.filter (fun t => !s.dtqNew.contains t) }

/-- A tenant whose queue the distributor serves (R354, R355). -/
def State.servesQueue (s : State) (ten : Nat) : Bool :=
  (s.tenant ten).on && decide (s.share ten ≠ 0) && !s.dtqBad.contains ten

/-- A claim of the queue served has been selected and its gang has not yet started, so that RI still stands at it (R357). -/
def State.selected (s : State) (ten claim : Nat) : Bool :=
  s.gangs.any (fun e => decide (e.2.ten = ten) && decide (e.2.hdr = s.lqHdr ten) && decide (e.2.claim = claim)
    && (e.2.state == 1 || e.2.state == 9) && e.2.saves.isEmpty)

/-- QUEUE_SCAN (R354, R356): the slot at RI is noticed once it is stamped, until it is selected; a header that cannot be
served is reported once. -/
def execQueueScan (ten : BitVec 4) (s : State) : Out :=
  let t := ten.toNat
  if !s.servesQueue t then .next s
  else
    let hdr := s.lqHdr t
    let bad := fun (s : State) =>
      (({ s with dtqBad := s.dtqBad ++ [t] } : State).runtimeRecord t 3 0 0xFFFFFFFFFFFFFFFF 0 [])
    match s.tenantAt t hdr 3 with
    | .error _ => .next (bad s)
    | .ok _ =>
      match s.ringHeader 1 t hdr 64 with
      | (s, none) => .next (bad s)
      | (s, some (_, ri, nslot, slotb)) =>
        let x := s.tenant t
        let none' := s.setTenant t { x with cand := none }
        if 4096 < nslot then .next (bad s)
        else if s.selected t ri then .next none'
        else if x.expired.contains ri then
          .next ((s.setTenant t { x with cand := none, expired := x.expired.filter (· != ri) }).passClaim t hdr ri)
        else
          let (s, b) := s.engReadBytes 1 t 2 (slotb + 64 * (ri % nslot)) 64
          match b with
          | .error _ => .next none'
          | .ok b =>
            if leAt b 0 8 ≠ ri + 1 then .next none'
            else
              let (s, p) := s.engRead 1 t (leAt b 8 8 + 4) 2
              let pri := match p with | .ok v => v % 4 | .error _ => 0
              let cls := match p with | .ok v => v / 256 % 16 | .error _ => 0
              let pri := ((x.raised.find? (fun e => e.1 == ri)).map (·.2)).getD pri
              .next (s.setTenant t { s.tenant t with cand := some (ri, pri, cls) })

/-! ### Selection (R356, R358, R360) -/

/-- A gang that waits in state 1 (R360). -/
def State.waiting (s : State) : List (Nat × Gang) := s.gangs.filter (fun e => decide (e.2.state = 1))

/-- The slot that a tenant's scan has noticed, as a candidate (R356). -/
def State.noticed (s : State) (ten : Nat) : Option (Option Nat × Nat × Nat × Nat) :=
  if !s.servesQueue ten then none
  else ((s.tenant ten).cand.filter (fun c => !s.selected ten c.1)).map (fun c => (none, c.1, c.2.1, c.2.2))

/-- The candidate of a tenant with a share: its oldest suspended gang, or else the slot that its scan noticed: gang, claim,
priority, class (R356). A slot that a time slice of the tenant's own gang has made room for comes before that gang (R362). -/
def State.candidate (s : State) (ten : Nat) : Option (Option Nat × Nat × Nat × Nat) :=
  if s.share ten = 0 then none
  else match s.gangs.find? (fun e => decide (e.2.ten = ten) && decide (e.2.state = 5) && !e.2.escal),
      (s.noticed ten).filter (fun c => s.roomFor == some (ten, c.2.1)) with
    | _, some c => some c
    | some (n, g), none => some (some n, g.claim, g.bound, g.cls)
    | none, none => s.noticed ten

/-- A candidate may be selected beside the gangs that wait (R360). -/
def State.beats (s : State) (pri cls : Nat) : Bool :=
  s.waiting.all (fun e => decide (e.2.bound < pri) || decide (e.2.cls < cls))

/-- The candidate that a time slice has made room for, while it is still one or its gang waits (R362). -/
def State.favoured (s : State) : Option (Nat × Nat) :=
  s.roomFor.filter (fun f => ((s.candidate f.1).map (·.2.1)) == some f.2
    || s.waiting.any (fun e => decide (e.2.ten = f.1) && decide (e.2.claim = f.2)))

/-- The record of a claim is read and judged: the record, its address and its images, or the code, with the address of a
fabric record (R124, R414). A reserved field of the slot is judged before its record is (R354, log entry 105). -/
def State.openClaim (s : State) (ten claim : Nat) : State × Except (Nat × Option Nat) (List Byte × Nat × Images) :=
  match s.ringHeader 1 ten (s.lqHdr ten) 64 with
  | (s, none) => (s, .error (10, none))
  | (s, some (_, _, nslot, slotb)) =>
    let (s, b) := s.engReadBytes 1 ten 2 (slotb + 64 * (claim % nslot)) 64
    match b with
    | .error _ => (s, .error (10, none))
    | .ok b =>
      let va := leAt b 8 8
      if leAt b 0x10 4 / 65536 ≠ 0 ∨ leAt b 0x18 20 ≠ 0 ∨ leAt b 0x2C 20 ≠ 0 then (s, .error (2, none))
      else if va % 64 ≠ 0 then (s, .error (10, none))
      else
        let (s, r) := s.engReadBytes 1 ten 5 va 256
        match r with
        | .error _ => (s, .error (10, none))
        | .ok r =>
          let (s, im) := s.images ten r
          match s.recordCode ten r im with
          | 0 => (s, .ok (r, va, im))
          | c => (s, .error (c, if isFabric (recLevels r) then some va else none))

/-- The tenant that a selection chooses among the candidates of highest priority: the lowest pass, then the lowest number
(R356). -/
def State.lowestPass (s : State) (ts : List Nat) : Option (Nat × Nat) :=
  ts.foldl (fun (b : Option (Nat × Nat)) t =>
    let q := (s.tenant t).pass
    match b with
    | none => some (t, q)
    | some (u, v) => if q < v then some (t, q) else some (u, v)) none

/-- How many fabric launches of a record a tenant has had selected: the parts of one gang are matched in claim order
(R414). -/
def State.launchNo (s : State) (ten va : Nat) : Nat := (s.tenant ten).launched.count va

/-- One more fabric launch of a record is selected. -/
def State.launchOf (s : State) (ten va : Nat) : State :=
  s.setTenant ten { s.tenant ten with launched := (s.tenant ten).launched ++ [va] }

/-- A claim is selected: its gang waits for its placement, or a check of its record rejects it (R124, R356, R357). The
slot's own fields are judged as they stood before STATUS is written. -/
def State.selectClaim (s : State) (ten claim pri : Nat) : State :=
  let n := s.nextGang
  let s := { s with nextGang := n + 1 }
  let x := s.tenant ten
  let s := s.setTenant ten { x with cand := none, raised := x.raised.filter (fun e => e.1 != claim) }
  let hdr := s.lqHdr ten
  let (s, r) := s.openClaim ten claim
  let s := s.writeStatus ten hdr claim 1 0 n
  match r with
  | .error (code, far) =>
    let s := match far with
      | none => s
      | some va => (s.launchOf ten va).sendPeers (.part s.nodeId.toNat ten va (s.launchNo ten va) 2)
    (s.setGang n { ten := ten, claim := claim, hdr := hdr, state := 10 }).endClaim ten hdr claim 5 code n true
  | .ok (r, va, im) =>
    let ls := recLevels r
    let no := if isFabric ls then s.launchNo ten va else 0
    let s := if isFabric ls then s.launchOf ten va else s
    s.setGang n { nth := no,  state := 1, ten := ten, cls := leAt r 5 1, bound := pri, claim := claim, hdr := hdr, record := r, im := im,
                  recVa := BitVec.ofNat 64 va, levels := ls, scnt := strandCount ls,
                  gdev := (s.myDevice ten ls).getD 0, fmap := x.fmap }

/-- LAUNCH_SELECT (R355 to R357, R362): the distributor takes its registers, and selects the tenant with the least pass
among the candidates of highest priority, or the candidate that a time slice has made room for; its gang waits for its
placement, or its claim is rejected. -/
def execLaunchSelect (s : State) : Out :=
  let s := s.takeRegs
  let all : List (Nat × Option Nat × Nat × Nat × Nat) :=
    (List.range 16).filterMap (fun t => (s.candidate t).map (fun c => (t, c)))
  let cs : List (Nat × Option Nat × Nat × Nat × Nat) := all.filter (fun e => s.beats e.2.2.2.1 e.2.2.2.2)
  let cs : List (Nat × Option Nat × Nat × Nat × Nat) := match s.favoured with
    | some f => if all.any (fun e => decide (e.1 = f.1) && decide (e.2.2.1 = f.2)) then cs.filter (fun e => decide (e.1 = f.1)) else cs
    | none => cs
  if cs.isEmpty then .next s
  else
    let p := cs.foldl (fun m e => max m e.2.2.2.1) 0
    let at_ := (cs.filter (fun e => decide (e.2.2.2.1 = p))).map (·.1)
    let s := at_.foldl (fun (s : State) e =>
      let t := s.tenant e
      if t.was then s else s.setTenant e { t with pass := max t.pass s.vpass }) s
    match s.lowestPass at_ with
    | none => .next s
    | some (ten, pass) =>
      let s := (List.range 16).foldl (fun (s : State) t =>
        let x := s.tenant t
        if x.on then s.setTenant t { x with was := all.any (fun e => decide (e.1 = t)) } else s) s
      let s := { s with vpass := pass }
      let s := s.setTenant ten { s.tenant ten with pass := pass + 65536 / max 1 (s.share ten) }
      match s.candidate ten with
      | none => .next s
      | some (some n, _, _, _) => .next (s.setGang n { s.gang n with state := 1 })
      | some (none, claim, pri, _) => .next (s.selectClaim ten claim pri)

/-! ### Free cores and placement (R359, R360) -/

/-- A gang occupies its cores. -/
def Gang.occupies (g : Gang) : Bool :=
  g.state == 2 || g.state == 3 || g.state == 4 || g.state == 8 || g.state == 9 || g.state == 11

/-- Nothing of a core's last gang is still on its way: its own stores and atomics have performed, and none of another core
aims at its tessera (R252, R254, R401). -/
def State.coreQuiet (s : State) (c : Nat) : Bool :=
  (s.core c).accs.isEmpty && (s.core c).delayed.isEmpty
    && s.cores.all (fun e => e.2.accs.all (fun a => a.op.isRead || a.pieces.all (fun p => p.loc.core? != some c)))

/-- A core is free, apart from the gangs in `but`: no placed gang occupies it, and its operations are settled (R359). -/
def State.coreFree (s : State) (but : List Nat) (c : Nat) : Bool :=
  !s.gangs.any (fun e => e.2.occupies && !but.contains e.1 && e.2.place.any (fun q => q.2 == some c))
    && ((s.core c).ops.all (fun o => settledCode o.state || but.contains o.gang))
    && (s.coreQuiet c || s.gangs.any (fun e => e.2.occupies && but.contains e.1 && e.2.place.any (fun q => q.2 == some c)))

/-- A logical quad whose four cores are free. -/
def State.quadFree (s : State) (but : List Nat) (d q : Nat) : Bool :=
  (List.range 4).all (fun i => s.coreFree but (96 * d + quadBase q + quadTile i))

/-- The placement of a gang's part on some logical dies, on the cores free apart from those of the gangs in `but`; a lost
die takes none until its switch-in (R409). -/
def State.fitOn (s : State) (dies but : List Nat) (g : Gang) : Option (List (Nat × Nat)) :=
  placeGang g.levels (needOf g.levels g.gdev) (fun d q => dies.contains d && !(s.die d).lost && s.quadFree but d q)

/-- The placement of a gang's part on the dies that it may use (R359). -/
def State.fit (s : State) (but : List Nat) (g : Gang) : Option (List (Nat × Nat)) := s.fitOn (s.diesFor g.cls) but g

/-! ### Starting a gang (R125, R126) -/

/-- What stays in a core when its gang changes: its clock, its interrupt registers, its error counts and its trace and count
registers; DISC is set (R125, R392, R429, R448, R452). -/
def Core.cleared (k : Core) : Core :=
  let now := k.lastCycle
  { cb0 := { clock := now }, cb1 := { clock := now }, svc := { clock := now, trapped := true }, secnt := k.secnt,
    intm := k.intm, intp := k.intp,
    trctl := k.trctl, trrb := k.trrb, trFault := k.trFault, trDrop := k.trDrop, pmcsel := k.pmcsel ||| 0x10000000000,
    pmc := k.pmc, tally := now, nextId := k.nextId, ops := k.ops.filter (fun o => o.owner == 2 && !completeCode o.state),
    opOrder := k.opOrder }

/-- A strand's context as the distributor sets it up (R125, R128 to R131). -/
def newStrand (r : List Byte) (g n now : Nat) (ls : List Level) (t : Strand) (pairs : List (Nat × Pair)) : Ctx :=
  let regs := (List.range 16).foldl (fun (m : Tbl Two) i =>
    Tbl.set {} m (keyS (16 + i)) { f0 := BitVec.ofNat 4096 (leAt r (0x80 + 8 * i) 8) }) []
  let lttb := leAt r 0x38 8
  { regs := regs, pc := BitVec.ofNat 64 (leAt r 8 8), pstart := BitVec.ofNat 64 (leAt r 8 8), rot := leAt r 6 1 / 2 % 2 == 1,
    dwt := leAt r 6 1 % 2 == 1, clock := now, start := now, sampledTo := now, gang := n, mlgr := leAt r 3 1 % 2 == 1,
    lidx := t.lidx.map (BitVec.ofNat 16), lcnt := ls.map (fun l => BitVec.ofNat 16 l.count), nlev := ls.length,
    sidx := BitVec.ofNat 32 (sidxOf ls t.lidx), scnt := BitVec.ofNat 32 (strandCount ls),
    gloc := BitVec.ofNat 64 (g * 65536 + t.pos.sec.toNat * 4096 + t.pos.die * 256 + t.pos.tile),
    fmtt := BitVec.ofNat 64 (leAt r 0x30 8), wdt := BitVec.ofNat 32 (leAt r 0x74 4), tfb := BitVec.ofNat 20 (leAt r 0x70 4),
    lttBase := BitVec.ofNat 20 (leAt r 0x40 8 / 2 ^ 28), lttEn := decide (lttb ≠ 0),
    lttGran := BitVec.ofNat 2 (leAt r 7 1), pairs := pairs.foldl (fun m e => Tbl.set {} m e.1 e.2) [] }

/-- A locked table whose valid entries show the placement that their frames have now (R238, R244). -/
def State.lttNow (s : State) (t : Tbl Ltt) : Tbl Ltt :=
  Tbl.mapVals {} (fun (e : Ltt) =>
    if e.w0.getLsbD 0 then { e with w1 := BitVec.ofNat 64 (s.plcNow (e.w0.toNat / 2 ^ 16 % 2 ^ 24 * 2 ^ 16) e.w1.toNat) } else e) t

/-- The cycle in which ALARM of a core that stands at `now` reaches 0 for a tenant's quantum; 0 without one (R362). -/
def State.alarmFrom (s : State) (ten now : Nat) : Nat := if s.quant ten = 0 then 0 else now + 4096 * s.quant ten

/-- ALARM is loaded on every core of a gang (R362). -/
def State.loadAlarms (s : State) (n : Nat) : State :=
  (s.gang n).place.foldl (fun (s : State) e => match e.2 with
    | none => s
    | some c =>
      let k := s.core c
      s.setCore c { k with alarm := s.alarmFrom (s.gang n).ten k.lastCycle, quantum := 4096 * s.quant (s.gang n).ten }) s

/-- A core of a gang as the distributor sets it up (R125, R233, R320, R362, R369). -/
def State.setupCore (s : State) (n : Nat) (g : Gang) (c tile : Nat) : State :=
  let r := g.record
  let im := g.im
  let k := (s.core c).cleared
  let now := k.cb0.clock
  let p := im.pres.getD []
  let mine := (allStrands g.levels).filter (fun t => decide (t.pos.dev = g.gdev) && decide (t.pos.gtile = tile))
  let ctxOf := fun (sec : Bool) => match mine.find? (fun t => t.pos.sec == sec) with
    | some t => newStrand r g.gdev n now g.levels t (pairPresets r p)
    | none => { clock := now }
  let secb := leAt r 0x54 2
  let k := { k with
    cb0 := { ctxOf false with claimed := g.claimed }, cb1 := { ctxOf true with claimed := g.claimed }, secbnd := BitVec.ofNat 16 (if 1 ≤ secb ∧ secb ≤ 15 then 16 else secb),
    tess := Mem.setBytes [] (leAt r 0x68 4) (im.timg.getD []), store := storeOf (im.mpb.getD []),
    ltt := s.lttNow (lttOf (im.ltt.getD [])), hvb := BitVec.ofNat 64 (s.tenant g.ten).hvbt &&& 0x0000FFFFFFFFE000,
    hods := (hodPresets r p).foldl (fun (m : Tbl Hod) (e : Nat × Nat) => Tbl.set {} m e.1 (hodOf e.2 0)) [],
    alarm := s.alarmFrom g.ten now, quantum := 4096 * s.quant g.ten }
  s.setCore c { k with cb0 := { k.cb0 with check := k.checkpoint k.cb0 }, cb1 := { k.cb1 with check := k.checkpoint k.cb1 } }

/-- The strands of a gang's part that run on this device. -/
def Gang.strands (g : Gang) : Nat := ((allStrands g.levels).filter (fun t => decide (t.pos.dev = g.gdev))).length

/-- The gang's strands may issue: STATUS is running and RI moves on (R357). -/
def State.startGang (s : State) (n : Nat) : State :=
  let g := s.gang n
  ((s.setGang n { g with state := 3 }).writeStatus g.ten g.hdr g.claim 2 0 n).passClaim g.ten g.hdr g.claim

/-- The logical dies that a class reserves, as the latest selection took them (R355). -/
def State.reservedBy (s : State) (c : Nat) : List Nat := (List.range 8).filter (fun d => (Tbl.get 0 s.rclsIn c).getLsbD d)

/-- The running gangs of a lower class that hold a core on a die of a class's reservation, by gang number (R360). -/
def State.lowerOn (s : State) (c : Nat) : List Nat :=
  let dies := s.reservedBy c
  (s.gangs.filter (fun e => (e.2.state == 3 || e.2.state == 4) && decide (e.2.cls < c)
    && e.2.place.any (fun q => match q.2 with | some k => dies.contains (k / 96) | none => false))).map (·.1)

/-- A gang of a class with a reservation that could hold it waits for that reservation while lower classes keep it from its
lowest-numbered dies, though it could be placed on others (R359, R360 and the first outcome of R364, log entry 116). -/
def State.claimsOwn (s : State) (g : Gang) : Bool :=
  let low := s.lowerOn g.cls
  decide (g.cls ≠ 0) && (s.fitOn (s.reservedBy g.cls) [] g).isNone && (s.fitOn (s.reservedBy g.cls) low g).isSome
    && s.fit low g != s.fit [] g

/-- The gangs to pre-empt, in order, until a gang fits (R360). -/
def State.untilFits (s : State) (g : Gang) : List Nat → List Nat → List Nat
  | [], but => but
  | x :: xs, but =>
    let own := s.claimsOwn g
    if (s.fit but g).isSome ∧ (!own ∨ (s.fitOn (s.reservedBy g.cls) but g).isSome) then but else s.untilFits g xs (but ++ [x])

/-- A gang must leave the cores to the candidate that a time slice has made room for (R362). -/
def State.yields (s : State) (g : Gang) : Bool := (s.favoured.map (fun f => f != (g.ten, g.claim))).getD false

/-- A switch-in or a tile sparing is under way: launches wait until the die map is final (R406, R408). -/
def State.switching (s : State) : Bool := s.dies.any (fun e => e.2.leaving)

/-- The cores of a gang, each with its gang tile. -/
def Gang.cores (g : Gang) : List (Nat × Nat) := g.place.filterMap (fun e => e.2.map (fun c => (e.1, c)))

/-- The latest cycle that a core of a gang has come to. -/
def State.gangTime (s : State) (g : Gang) : Nat := g.cores.foldl (fun t e => max t (s.core e.2).lastCycle) 0

/-- The gang holds its cores no longer: they are cleared, and the strands are gone (R359). -/
def State.vacate (s : State) (n : Nat) : State :=
  let now := s.gangTime (s.gang n)
  let s := (s.gang n).place.foldl (fun (s : State) e => match e.2 with
    | some c => (s.traceClosed c now).setCore c ((s.traceClosed c now).core c).cleared
    | none => s) s
  s.setGang n { s.gang n with place := [] }

/-- Every other device of a fabric gang reports its part placed (R414). -/
def State.partsReady (s : State) (g : Gang) : Bool :=
  (devicesOf g.levels).all (fun d => decide (d = g.gdev) ||
    (let p := Tbl.get ({} : Peer) s.peers (Tbl.get (0xFFFF : BitVec 16) g.fmap d).toNat
     p.up && p.parts.contains (g.ten, g.recVa.toNat, g.nth)))

/-- Another device has rejected its part of a fabric gang (R414). -/
def State.partRejected (s : State) (g : Gang) : Bool :=
  isFabric g.levels && (devicesOf g.levels).any (fun d => decide (d ≠ g.gdev) &&
    (Tbl.get ({} : Peer) s.peers (Tbl.get (0xFFFF : BitVec 16) g.fmap d).toNat).rejects.contains (g.ten, g.recVa.toNat, g.nth))

/-- A fabric gang whose part another device has rejected is rejected with code 14 (R414). -/
def State.rejectPart (s : State) (n : Nat) : State :=
  let g := s.gang n
  if !isFabric g.levels ∨ (g.state ≠ 1 ∧ g.state ≠ 9) then s
  else
    let s := if g.state = 9 then s.vacate n else s
    (s.setGang n { s.gang n with state := 10 }).endClaim g.ten g.hdr g.claim 5 14 n true

/-- The other devices of a fabric gang learn that this device's part is placed (R414). -/
def State.partPlaced (s : State) (n : Nat) : State := s.tellPeers n (fun t r i => .part s.nodeId.toNat t r i 0)

/-- GANG_PLACE (R357, R359, R360, R362, R408, R414): a selected gang is placed whole once it fits, and its strands are set
up; a gang of a class that does not fit pre-empts the lower classes on its dies. -/
def execGangPlace (gang : Nat) (s : State) : Out :=
  let g := s.gang gang
  if g.state ≠ 1 ∨ s.yields g ∨ s.switching then .next s
  else if s.partRejected g ∧ g.saves.isEmpty then .next (s.rejectPart gang)
  else match if s.claimsOwn g then none else s.fit [] g with
    | none =>
      if g.cls = 0 then .next s
      else .next ((s.untilFits g (s.lowerOn g.cls) []).foldl State.requestPreempt s)
    | some m =>
      let place := m.foldl (fun (t : Tbl (Option Nat)) e => Tbl.set none t e.1 (some e.2)) []
      let g := { g with place := place }
      let s := if s.roomFor = some (g.ten, g.claim) then { s with roomFor := none } else s
      if !g.saves.isEmpty then .next ((s.setGang gang { g with state := 2 }).partPlaced gang)
      else
        let g := { g with unhalted := g.strands }
        let s := s.setGang gang { g with state := 9 }
        let s := m.foldl (fun (s : State) e => s.setupCore gang g e.2 e.1) s
        .next (if isFabric g.levels then s.partPlaced gang else s.startGang gang)

/-- FABRIC_GANG_START (R414). -/
def execFabricGangStart (gang : Nat) (s : State) : Out :=
  let g := s.gang gang
  if g.state = 9 ∧ s.partsReady g then .next (s.startGang gang) else .next s

/-- FABRIC_PART_REJECTED (R414): another device has rejected its part, so this one is rejected with code 14. -/
def execFabricPartRejected (gang : Nat) (s : State) : Out := .next (s.rejectPart gang)

/-! ### Pre-emption and return (R384 to R386, R421) -/

/-- The ingress records held on each core of a gang are discarded and reported by one RETURNED message for the core
(R417, R421). -/
def State.returnIngress (s : State) (n : Nat) : State :=
  let g := s.gang n
  g.place.foldl (fun (s : State) e => match e.2 with
    | none => s
    | some c =>
      let k := s.core c
      match k.ingress.head? with
      | none => s
      | some (r : IngRec) =>
        let m : Reply := { type := 0x87, ten := g.ten, tag := BitVec.ofNat 32 (s.tenant g.ten).hvec, a0 := BitVec.ofNat 64 n,
                           a1 := BitVec.ofNat 64 (e.1 / 96 + 256 * (e.1 % 96)),
                           a2 := BitVec.ofNat 64 (r.seq.toNat + 2 ^ 32 * k.ingress.length) }
        { s.setCore c { k with ingress := [] } with replies := s.replies ++ [m] }) s

/-- Every access of a context has performed, but for reads that a trap abandons (R252, R254, R372). -/
def Core.drained (k : Core) (cx : CtxId) : Bool :=
  !k.accs.any (fun a => a.cx == cx && !(a.op.isRead && a.writes)) && !k.delayed.any (fun d => d.cx == cx)

/-- The trap that SVC serves for a context holds it where its image can be saved: PREEMPT, or of a gang that firmware
escalates any trap, whose handler does not return (R377, R384). -/
def Core.heldBy (k : Core) (cx : CtxId) (escal : Bool) : Bool :=
  match k.serving with
  | some (c, code) => decide (c = cx) && (decide (code = 19) || escal)
  | none => false

/-- A context is at a boundary where its image can be saved, with its accesses performed: it holds no strand of the gang, or
one that has halted, is stopped by the port, is held in SVC, or stands between bundles with its trap waits over and with no
trap that comes before PREEMPT and that SVC could take (R371, R372, R384). -/
def Core.savable (k : Core) (n : Nat) (escal : Bool) (cx : CtxId) : Bool :=
  let x := k.ctx cx
  x.gang ≠ n || (k.drained cx && (k.drained .svc || !k.heldBy cx escal)
    && (x.halted || x.stopped || k.heldBy cx escal
      || (k.entryReady cx && x.dueTrap.isNone && (k.heldBy (otherCtx cx) escal || (x.asyncs.isEmpty && x.kept.isNone))
        && !(match k.serving with | some (c, _) => decide (c = cx) | none => false))))

/-- Every operation of the core is suspended, queued or settled, or owned by the runtime queue (R313). -/
def Core.opsQuiet (k : Core) (n : Nat) : Bool :=
  k.ops.all (fun o => o.gang ≠ n || o.owner = 2 || o.state ≠ 2)

/-- A core of a gang can be saved (R313, R384). -/
def Core.ready (k : Core) (n : Nat) (escal : Bool) : Bool :=
  k.savable n escal .cb0 && k.savable n escal .cb1 && k.opsQuiet n

/-- A context's trap frame is written and its reads are abandoned, as at PREEMPT (R372, R384 step 1); one that SVC holds has
its frame. An MLDR in its hold begins anew when the strand goes on (R190). -/
def Core.freeze (k : Core) (n : Nat) (escal : Bool) (cx : CtxId) : Core :=
  let x := k.ctx cx
  let k := { k with mldrAt := none }
  if x.gang ≠ n ∨ x.halted ∨ x.stopped ∨ k.heldBy cx escal then k else k.enter cx 19 7 0 x.pc true

/-- The code and the frame that firmware escalates for a core: SVC serves UE_DATA or SDC_SEGMENT, or a KFAULT whose
operation has no record to attribute it to (R377, log entry 107). -/
def State.escalating (s : State) (c : Nat) : Option (Nat × List Byte) :=
  let k := s.core c
  match k.serving with
  | none => none
  | some (cx, code) =>
    let b := (k.ctx cx).tfb.toNat
    let token := BitVec.ofNat 64 (Mem.read k.tess (b + 16) 8)
    let known := ((s.tokIssued c (k.ctx cx).gang token).bind (fun d => (s.core d).opOf token)).isSome
    if code = 13 ∨ code = 14 ∨ (code = 15 ∧ !known) then some (code, Mem.bytes k.tess b 32) else none

/-- The service record of an escalated UE_DATA or SDC_SEGMENT, job-interrupting: its class is that of the error found
(R433, R435, log entry 108). -/
def State.logEscalation (s : State) (c code : Nat) : State :=
  if code = 13 then s.logErr 5 2 4 (s.sramLoc c 0) 0 else if code = 14 then s.logErr 6 3 4 (s.sramLoc c 5) 0 else s

/-- A running gang of which a core is to be escalated is reported, with the code and the frame, and pre-empted for good
(R377, R435); none when firmware has nothing to escalate. -/
def State.escalateGang (s : State) (n : Nat) : Option State :=
  let g := s.gang n
  ((g.place.filterMap (·.2)).findSome? (fun c => (s.escalating c).map (fun e => (c, e)))).map (fun e =>
    ((s.logEscalation e.1 e.2.1).runtimeRecord g.ten 4 n 0 e.2.1 e.2.2).stopGang n)

/-- Every context of a gang on a core stands at cycle `t`, in which the gang stops (R447). -/
def Core.standAt (k : Core) (n t : Nat) : Core :=
  let at_ := fun (x : Ctx) => if x.gang = n then { x with clock := max x.clock t } else x
  { k with cb0 := at_ k.cb0, cb1 := at_ k.cb1 }

/-- A core of a gang with its contexts stopped at their boundaries and its frames written (R384). -/
def State.frozen (s : State) (n : Nat) (escal : Bool) (t c : Nat) : Core :=
  (((s.core c).freeze n escal .cb0).freeze n escal .cb1).standAt n t

/-- The release marks of the tessera of a core and of its doorbells, by place: a dword of the tessera, or 2^17 and a source
(R284, R416). -/
def State.marksOf (s : State) (c : Nat) : List (Nat × List Rel) :=
  s.rel.filterMap (fun e =>
    if tessRel c 0 ≤ e.1 ∧ e.1 < tessRel (c + 1) 0 then some (e.1 - tessRel c 0, e.2)
    else if bellRel c 0 ≤ e.1 ∧ e.1 < bellRel (c + 1) 0 then some (2 ^ 17 + (e.1 - bellRel c 0), e.2)
    else none)

/-- A core takes on release marks by their places, or gives its own up. -/
def State.putMarks (s : State) (c : Nat) (ms : List (Nat × List Rel)) : State :=
  ms.foldl (fun (s : State) e => s.setRel (if e.1 < 2 ^ 17 then tessRel c 0 + e.1 else bellRel c (e.1 - 2 ^ 17)) e.2) s

/-- PREEMPT_REQUEST (R377, R384): a running gang is asked to stop, and one that firmware escalates is reported, before it
stops or while it does; once every core of it can be saved, its cores are saved whole and given up, and its claim is
suspended (R357). -/
def execPreemptRequest (gang : Nat) (s : State) : Out :=
  let g := s.gang gang
  if g.state ≠ 3 ∧ g.state ≠ 4 then .next s
  else match if g.escal then none else s.escalateGang gang with
    | some t => .next t
    | none =>
      if g.state = 3 then .next (s.requestPreempt gang)
      else if g.cores.all (fun e => (s.core e.2).ready gang g.escal) then
        let s := s.returnIngress gang
        let now := s.gangTime g
        let kept := g.cores.map (fun e =>
          let k := s.frozen gang g.escal now e.2
          (e.1, { k with bay := [], serving := none, ops := k.ops.filter (fun o => o.owner ≠ 2 || completeCode o.state) }))
        let marks := g.cores.flatMap (fun e => (s.marksOf e.2).map (fun m => (e.1, m.1, m.2)))
        let g' := { g with
          marks := marks,
          saves := kept.foldl (fun (t : Tbl Core) e => Tbl.set {} t e.1 e.2.rest) [],
          area := kept.foldl (fun (t : Tbl SaveImage) e => Tbl.set {} t e.1 e.2.saveImage) [], state := 5 }
        -- the interrupts and the marks of the cores go with the gang
        let s := (s.setGang gang g').vacate gang
        let s := g.cores.foldl (fun (s : State) e =>
          (s.setCore e.2 { s.core e.2 with intp := 0 }).putMarks e.2 ((s.marksOf e.2).map (fun m => (m.1, [])))) s
        .next (s.writeStatus g.ten g.hdr g.claim 3 0 gang)
      else .next s

/-- A context goes on from its frame after a pre-emption, as by RETT (R376, R384): waits count anew, and what a failed
reissue raises is due, and taken when SVC is free for it (R368). -/
def State.unfreeze (s : State) (n c : Nat) (cx : CtxId) : State :=
  let x := s.ctxAt c cx
  if x.gang ≠ n ∨ x.halted then s
  else
    let k := s.core c
    let b := x.tfb.toNat
    let now := x.clock
    let t := { s with focus := c, cx := cx }
    let t := t.setCtxAt c cx { (x.fromFrame k.tess now) with held := 0, waited := 0, skipped := 0, holding := false, preempt := false, stopped := false }
    let (t, bad) := t.reissueAll cx ((List.range (Mem.read k.tess b 8 / 134217728 % 32)).map (loadRec k.tess b))
    let u := match bad with
      | none => t.setCore c (((t.core c).goOn k.tess cx now).tryFlip cx)
      | some (code, slot, info) => t.setCore c (((t.core c).goOnFailed k.tess cx now code slot info).tryEnter cx)
    { u with focus := s.focus, cx := s.cx, iss := s.iss }

/-- The suspended operations of a core go on (R313). -/
def Core.wakeOps (k : Core) : Core :=
  let ops := k.ops.map (fun (o : ChildOp) => if o.state = 3 then { o with state := 2 } else o)
  { k with ops := ops, mx := { k.mx with run := k.mx.run || ops.any (fun o => o.ch == 4 && decide (o.state = 2)) } }

/-- A core counts on in another stretch of its gang: DISC is set (R452). -/
def Core.disc (k : Core) : Core := { k with pmcsel := k.pmcsel ||| 0x10000000000 }

/-- GANG_RESUME (R384, R313, R362): every core of a gang placed again is restored, its operations resume, and each context
goes on from its frame. A gang that the debug port has stopped goes on where it stands (R456). -/
def execGangResume (gang : Nat) (s : State) : Out :=
  let g := s.gang gang
  let go := fun (s : State) => g.place.foldl (fun (s : State) e => match e.2 with
      | none => s
      | some c => (s.unfreeze gang c .cb0).unfreeze gang c .cb1) s
  if g.state = 8 ∧ isFabric g.levels ∧ !s.partsReady g then .next (s.partPlaced gang)
  else if g.state = 8 then
    let s := s.partPlaced gang
    let t := go ((g.place.foldl (fun (s : State) e => match e.2 with
      | none => s
      | some c => s.setCore c (s.core c).wakeOps.disc) (s.setGang gang { g with state := 3 })).loadAlarms gang)
    -- a gang that firmware had already given up is pre-empted again
    .next (if g.escal then t.requestPreempt gang else t)
  else if g.state ≠ 2 ∨ (isFabric g.levels ∧ !s.partsReady g) then .next s
  else
    let put := fun (s : State) (e : Nat × Option Nat) =>
      match e.2 with
      | none => s
      | some c =>
        let old := (s.core c).cleared
        let k := (Tbl.get ({} : Core) g.saves e.1).fromSave (Tbl.get ({} : SaveImage) g.area e.1)
        let now := old.lastCycle
        -- on another die, every access comes after the writes that the strand has made or seen (R270); the schedule cycle
        -- counts no cycle of the suspension (R447)
        let tick := fun (x : Ctx) => { x with clock := max x.clock now, start := x.start + (now - x.clock), sampledTo := max x.clock now,
                                              must := s.prune (x.must ++ x.seen) }
        let k := k.wakeOps
        s.setCore c { k with
          cb0 := { tick k.cb0 with claimed := g.claimed }, cb1 := { tick k.cb1 with claimed := g.claimed }, svc := { tick k.svc with trapped := true }, ops := k.ops ++ old.ops, secnt := old.secnt,
          icache := [], primMask := 0,
          trctl := old.trctl, trrb := old.trrb, trFault := old.trFault, trDrop := old.trDrop, pmcsel := old.pmcsel,
          pmc := old.pmc, due := [], tally := old.tally, nextId := max k.nextId old.nextId }
    let s := g.place.foldl put s
    let s := g.cores.foldl (fun (s : State) e =>
      s.putMarks e.2 ((g.marks.filter (fun m => m.1 == e.1)).map (·.2))) s
    let s := ((s.setGang gang { g with state := 3, saves := [], area := [], marks := [] }).loadAlarms gang).writeStatus g.ten g.hdr g.claim 2 0 gang
    .next (go s)

/-! ### Time slices (R362) -/

/-- A candidate that a gang would make room for: class and priority at least the gang's, not to be placed now, and to be
placed with the gang's cores free (R362). -/
def State.displaces (s : State) (n : Nat) (g c : Gang) : Bool :=
  decide (g.cls ≤ c.cls) && decide (g.bound ≤ c.bound) && (s.fit [] c).isNone && (s.fit [n] c).isSome

/-- The candidates as gangs (R356, R362): the gangs that wait, and of each tenant the candidate that could be selected beside
them: its suspended gang, or the slot that its scan has noticed when its record passes the checks. -/
def State.candidates (s : State) : State × List Gang :=
  (List.range 16).foldl (fun (acc : State × List Gang) t =>
    match acc.1.candidate t with
    | none => acc
    | some (who, claim, pri, cls) =>
      if !acc.1.beats pri cls then acc
      else match who with
        | some n => (acc.1, acc.2 ++ [acc.1.gang n])
        | none =>
          let (s, r) := acc.1.openClaim t claim
          match r with
          | .error _ => (s, acc.2)
          | .ok (r, _, _) =>
            let ls := recLevels r
            (s, acc.2 ++ [{ ten := t, claim := claim, cls := leAt r 5 1, bound := pri, levels := ls,
                            gdev := (s.myDevice t ls).getD 0 }])) (s, s.waiting.map (·.2))

/-- ALARM_EXPIRE (R362): the first core of a gang whose quantum is over; the gang is pre-empted for a candidate, which is
then placed, or its ALARM is loaded again on every core. -/
def execAlarmExpire (core : Nat) (s : State) : Out :=
  let k := s.core core
  let n := if k.cb0.gang ≠ 0 then k.cb0.gang else k.cb1.gang
  let g := s.gang n
  if k.alarm = 0 ∨ k.lastCycle < k.alarm ∨ g.state ≠ 3 then .next s
  else
    let (s, cs) := s.candidates
    match cs.find? (s.displaces n g) with
    | some c => .next (({ s with roomFor := some (c.ten, c.claim) } : State).requestPreempt n)
    | none => .next (s.loadAlarms n)

end Sys2Proof.Machine
end

