-- ==== Sys2Proof/Machine/Mailbox.lean ====
section
/-! DEFINITION. The host's messages and the mailbox engine, deadline messages, the runtime queue's read index, and the
tenant queues that the queue engines serve (12 R292, R293; 15 R350 to R352; 16 R363; 18 R378; 21 R415 to R421). -/

namespace Sys2Proof.Machine

/-! ### Replies (R417) -/

/-- The device sends the host a message that answers `m`. -/
def State.answer (s : State) (m : HostMsg) (type : Nat) (a0 : Word64) (data : List Byte) : State :=
  { s with replies := s.replies ++ [{ type := type, ten := m.ten.toNat % 16, tag := m.tag, a0 := a0, data := data }] }

/-- NACK with a cause (R417). -/
def State.nack (s : State) (m : HostMsg) (cause : Nat) : Out := .next (s.answer m 0x82 (BitVec.ofNat 64 cause) [])

/-- A host message is judged before it acts: nothing is taken before FWGO (R436), a reserved bit or a length outside the
type's limits is malformed, and the tenant must be provisioned (R417). -/
def State.message (s : State) (m : HostMsg) (fine : Bool) (act : Nat → State → Out) : Out :=
  let t := m.ten.toNat
  if !s.booted then s.nack m 3
  else if 16 ≤ t ∨ m.data.length ≠ m.len.toNat ∨ !fine then s.nack m 7
  else if !(s.tenant t).on then s.nack m 3
  else act t s

/-- The mailbox engine's earlier writes have performed for every observer of the device (R293). -/
def State.flushMailbox (s : State) : State :=
  let w := s.agentDeps 0
  if w.isEmpty then s else { (s.bringAll w) with agentSeen := Tbl.set [] s.agentSeen 0 [] }

/-! ### MWRITE, MREAD, CLAIM (R418) -/

/-- MWRITE (R293, R415, R417, R418). -/
def execMwrite (m : HostMsg) (s : State) : Out :=
  let n := m.len.toNat
  s.message m ((n == 8 || n == 64) && decide (m.a0.toNat % n = 0)) fun t s =>
    match s.tenantAt t m.a0.toNat 2 with
    | .error e => s.nack m e
    | .ok (pa, plc) =>
      let s := s.flushMailbox
      if isBell pa then
        let g := m.a1.toNat
        if (s.gang g).ten ≠ t ∨ (s.gang g).state ≠ 3 then s.nack m 5
        else if pa % 64 ≠ 0 then .next s
        else .next (s.ring g (bellLine pa) (leAt m.data 0 8) true (s.agentDeps 0))
      else if m.a1 ≠ 0 then s.nack m 7
      else .next (s.engPut 0 t pa plc n (leAt m.data 0 n))

/-- MREAD (R293, R417, R418). A line that its home does not give yields free bytes. -/
def execMread (m : HostMsg) (s : State) : Out :=
  let n := m.a1.toNat
  s.message m (m.len == 0 && (n == 8 || n == 64)) fun t s =>
    let (s, r) := s.flushMailbox.engReadBytes 0 t 3 m.a0.toNat n
    match r with
    | .ok b => .next (s.answer m 0x81 0 b)
    | .error 3 =>
      let (s, b) := s.freeBytes n
      .next (s.answer m 0x81 0 b)
    | .error e => s.nack m e

/-- CLAIM (R351, R418): AMOD.ADD 1 at WI's home. A marked line leaves the atomic undone and its value open (R426). -/
def execClaim (m : HostMsg) (s : State) : Out :=
  s.message m (m.len == 0 && decide (m.a0.toNat % 8 = 0)) fun t s =>
    match s.tenantAt t m.a0.toNat 3 with
    | .error e => s.nack m e
    | .ok (pa, plc) =>
      if isBell pa then s.nack m 2
      else
        let (s, r) := s.flushMailbox.engRead 0 t m.a0.toNat 8
        match r with
        | .error _ => .next ({ s with freeN := s.freeN + 1 }.answer m 0x84 (Config.freeWord s.freeN) [])
        | .ok v => .next ((s.engPut 0 t pa plc 8 (v + 1)).answer m 0x84 (BitVec.ofNat 64 v) [])

/-! ### INGRESS (R392, R421) -/

/-- INGRESS: the record joins the buffer of the core that holds the gang tile, or is refused. -/
def execIngress (m : HostMsg) (s : State) : Out :=
  let n := m.len.toNat
  let a1 := m.a1.toNat
  let tile := a1 / 256 % 128
  let ofs := m.a2.toNat
  s.message m (decide (64 ≤ n) && decide (n ≤ 4096) && decide (n % 64 = 0) && decide (a1 / 8 % 32 = 0)
      && decide (a1 / 2 ^ 15 % 2 ^ 17 = 0) && decide (tile < 96) && decide (ofs + n ≤ Config.tessSize)) fun t s =>
    let g := s.gang m.a0.toNat
    if g.ten ≠ t ∨ g.state ≠ 3 then s.nack m 5
    else match Tbl.get none g.place (96 * (a1 % 8) + tile) with
      | none => s.nack m 5
      | some c =>
        let k := s.core c
        let used := k.ingress.foldl (fun a (r : IngRec) => a + r.data.length) 0
        if 255 ≤ k.ingress.length ∨ 65536 < used + n then s.nack m 4
        else
          let r : IngRec := { seq := BitVec.ofNat 32 (a1 / 2 ^ 32), ofs := ofs, tag := m.tag, data := m.data }
          .next (s.setCore c { k with ingress := k.ingress ++ [r],
                                      intp := if k.ingress.isEmpty then k.intp ||| 0x10 else k.intp })

/-! ### Deadline messages (R363) -/

/-- What a deadline message's claim is: pending, with whether it stands at RI; selected and waiting, its gang; beyond the
reach of the message; or to be discarded, with the STATUS word its slot shows. -/
inductive ClaimIs where
  | pending (head : Bool)
  | waiting (gang : Nat)
  | beyond
  | discarded (status : Nat)
deriving DecidableEq, Repr

/-- The state of a claim as the distributor finds it (R357, R363). -/
def State.claimIs (s : State) (ten claim : Nat) : State × ClaimIs :=
  match s.gangs.find? (fun e => decide (e.2.ten = ten) && decide (e.2.hdr = s.lqHdr ten)
      && decide (e.2.claim = claim) && !(e.2.state == 7 || e.2.state == 10)) with
  | some (n, g) => (s, if g.state = 1 ∧ g.saves.isEmpty then .waiting n else .beyond)
  | none =>
    match s.ringHeader 1 ten (s.lqHdr ten) 64 with
    | (s, none) => (s, .discarded 0)
    | (s, some (_, ri, nslot, slotb)) =>
      let (s, b) := s.engReadBytes 1 ten 2 (slotb + 64 * (claim % nslot)) 64
      match b with
      | .error _ => (s, .discarded 0)
      | .ok b =>
        if ri ≤ claim ∧ claim < ri + nslot ∧ leAt b 0 8 = claim + 1 ∧ !(s.tenant ten).expired.contains claim then
          (s, .pending (claim == ri))
        else (s, .discarded (leAt b 0x10 8))

/-- A deadline message names no claim it can act on (R363). -/
def State.discardReport (s : State) (ten claim status : Nat) : State := s.runtimeRecord ten 3 (status / 2 ^ 32) claim status []

/-- DEADLINE RAISE (R358, R363). -/
def execDeadlineRaise (m : HostMsg) (s : State) : Out :=
  s.message m (m.len == 0 && decide (m.a1.toNat / 2 % 128 = 0) && decide (m.a1.toNat < 1024)) fun t s =>
    let claim := m.a0.toNat
    let p := m.a1.toNat / 256
    let (s, c) := s.claimIs t claim
    match c with
    | .pending _ =>
      let x := s.tenant t
      .next (s.setTenant t { x with
        raised := x.raised.filter (fun e => e.1 != claim) ++ [(claim, p)],
        cand := x.cand.map (fun c => if c.1 = claim then (c.1, p, c.2.2) else c) })
    | .discarded w => .next (s.discardReport t claim w)
    | _ => .next s

/-- DEADLINE EXPIRE (R357, R363). -/
def execDeadlineExpire (m : HostMsg) (s : State) : Out :=
  s.message m (m.len == 0 && decide (m.a1.toNat / 2 % 128 = 0) && decide (m.a1.toNat < 1024)) fun t s =>
    let claim := m.a0.toNat
    let (s, c) := s.claimIs t claim
    match c with
    | .pending head =>
      let x := s.tenant t
      let x := { x with
        raised := x.raised.filter (fun e => e.1 != claim),
        cand := if x.cand.map (·.1) = some claim then none else x.cand,
        expired := if head then x.expired else x.expired ++ [claim] }
      .next ((s.setTenant t x).endClaim t (s.lqHdr t) claim 6 0 0 head)
    | .waiting n =>
      .next ((s.setGang n { s.gang n with state := 10 }).endClaim t (s.gang n).hdr claim 6 0 n true)
    | .beyond => .next s
    | .discarded w => .next (s.discardReport t claim w)

/-! ### Answers to parked walks (R378, R418) -/

/-- The parked context that an FANSWER names. -/
def State.parkedAt (s : State) (t : Nat) (m : HostMsg) : Option (Nat × CtxId × Walk) :=
  let g := s.gang m.a0.toNat
  let a1 := m.a1.toNat
  if g.ten ≠ t ∨ g.state = 7 ∨ g.state = 10 then none
  else match Tbl.get none g.place (96 * (a1 % 8) + a1 / 256 % 128) with
    | none => none
    | some c =>
      let cx : CtxId := if a1 / 65536 % 2 = 1 then .cb1 else .cb0
      let x := s.ctxAt c cx
      match x.walk with
      | some w => if w.parked && decide (x.gang = m.a0.toNat) then some (c, cx, w) else none
      | none => none

/-- The layout of an FANSWER. -/
def fanswerFine (m : HostMsg) : Bool :=
  m.len == 0 && decide (m.a1.toNat / 8 % 32 = 0) && decide (m.a1.toNat / 2 ^ 15 % 2 = 0) && decide (m.a1.toNat < 2 ^ 17)
    && decide (m.a1.toNat / 256 % 128 < 96) && decide (m.a2.toNat < 2)

/-- FANSWER MAPPED (R378, R418): the walk goes on from the page table. -/
def execFanswerMapped (m : HostMsg) (s : State) : Out :=
  s.message m (fanswerFine m) fun t s =>
    let s := s.flushMailbox
    match s.parkedAt t m with
    | none => s.nack m 6
    | some (c, cx, w) =>
      .next (s.setCtxAt c cx { s.ctxAt c cx with walk := some { w with parked := false } })

/-- FANSWER NONE (R378): the walk completes with XR FAULT set. -/
def execFanswerNone (m : HostMsg) (s : State) : Out :=
  s.message m (fanswerFine m) fun t s =>
    let s := s.flushMailbox
    match s.parkedAt t m with
    | none => s.nack m 6
    | some (c, cx, w) => .next (s.walkDone c cx w .missing)

/-! ### The status block and the fabric map (R412, R418, R419) -/

/-- The spare site of a half: the site of the half that no logical die has (R404). -/
def State.spareOf (s : State) (half : Nat) : Option Nat :=
  ((List.range 5).map (· + 5 * half)).find? (fun n =>
    !((List.range 4).map (· + 4 * half)).any (fun d => decide (s.siteOf d = n)) && !s.failed.contains n)

/-- A set of small numbers as a mask. -/
def maskOf (l : List Nat) : Nat := (List.range 16).foldl (fun a i => if l.contains i then a + 2 ^ i else a) 0

/-- A dword of the device status block (R419). -/
def State.statusWord (s : State) (off : Nat) : Nat :=
  match off with
  | 0 => s.fuses.deviceId.toNat
  | 0x08 => (List.range 8).foldl (fun a d => a + s.siteOf d * 256 ^ d) 0
  | 0x10 => (s.spareOf 0).getD 0xFF + 256 * (s.spareOf 1).getD 0xFF + 65536 * maskOf s.failed
  | 0x18 =>
    let ports := fun (f : Port → Bool) => maskOf ((List.range 16).filter (fun p => f (Tbl.get {} s.ports p)))
    let mods := fun (f : Module → Bool) => maskOf ((List.range 4).filter (fun p => f (Tbl.get {} s.mods p)))
    ports (·.up) + 2 ^ 16 * ports (·.spare) + 2 ^ 32 * mods (·.trained) + 2 ^ 36 * mods (·.slow)
  | 0x20 => s.nodeId.toNat
  | _ => 0

/-- DREAD (R419). -/
def execDread (m : HostMsg) (s : State) : Out :=
  if !s.booted then s.nack m 3
  else if m.len ≠ 0 ∨ m.data ≠ [] ∨ m.a0.toNat % 8 ≠ 0 ∨ 16 ≤ m.ten.toNat then s.nack m 7
  else .next (s.answer m 0x81 0 (natToBytes 8 (s.statusWord m.a0.toNat)))

/-- FMAP (R412, R418). -/
def execFmap (m : HostMsg) (s : State) : Out :=
  let n := m.len.toNat
  s.message m (decide (n ≤ 8192) && decide (n % 2 = 0) && decide (m.a0.toNat + n / 2 ≤ 4096)) fun t s =>
    let x := s.tenant t
    let map := (List.range (n / 2)).foldl (fun (f : Tbl (BitVec 16)) i =>
      Tbl.set 0xFFFF f (m.a0.toNat + i) (BitVec.ofNat 16 (leAt m.data (2 * i) 2))) x.fmap
    .next (s.setTenant t { x with fmap := map })

/-! ### The runtime queue (R418) -/

/-- Records that were held are written and reported, in order, while there is room. -/
def State.drainHeld (s : State) (ten : Nat) : Nat → State
  | 0 => s
  | n + 1 =>
    let t := s.tenant ten
    match t.rheld with
    | [] => s
    | r :: rest => if s.runtimeRoom ten then ((s.setTenant ten { t with rheld := rest }).putRuntime ten r).drainHeld ten n else s

/-- RUNTIME_QUEUE_RI_ADVANCE (R418): the host advances the ring's read index. -/
def execRuntimeQueueRiAdvance (ten : BitVec 4) (ri : BitVec 64) (s : State) : Out :=
  let t := s.tenant ten.toNat
  if (!t.on ∧ t.rheld = []) ∨ ri.toNat < t.rri ∨ t.rwi < ri.toNat then .next s
  else
    let s := { s with hostMem := Mem.write s.hostMem (t.rqb + 8) 8 ri.toNat }
    .next ((s.setTenant ten.toNat { t with rri := ri.toNat }).drainHeld ten.toNat t.rheld.length)

/-! ### Tenant queues (R350 to R352) -/

/-- The mover of a queue engine: the tenant's page table, no core, no gang; a doorbell that it rings comes after what the
engine has made or read (R416). -/
def State.queueMover (s : State) (q : Nat) (t : TQueue) (o : ChildOp) : Mover :=
  { core := none, cx := .cb0, gang := 0, tile := 0, ten := some t.ten, halves := [], fmap := [],
    deps := (s.agentDeps (16 + q) ++ o.seen).dedup }

/-- The cause with which a slot's packet fails, 0 for none: a copy of at most two dimensions, no hod, no chain, formats
named in the packet; or a re-stripe packet (R330, R339, R350). -/
def queueBad (pk : List Byte) (p : CopyP) : Nat :=
  if leAt pk 0 1 = 4 then (if 16 ≤ leAt pk 1 1 ∨ leAt pk 2 6 ≠ 0 ∨ leAt pk 16 48 ≠ 0 then 1 else 0)
  else if copyBad pk p true false 0 || decide (2 < leAt pk 3 1) || p.hoden || p.chain then 1 else 0

/-- A claim of a tenant queue is complete: STATUS, then DONEI, and a report of a fault (R350, R352). -/
def State.queueEnd (s : State) (q : Nat) (t : TQueue) (o : ChildOp) (state cause : Nat) : State :=
  let o := { o with state := state, cause := cause }
  let agent := 16 + q
  let s := s.agentNote agent o.seen
  let (s, h) := s.ringHeader agent t.ten t.hdr 128
  let s := match h with
    | none => s
    | some (_, _, nslot, slotb) =>
      (s.engWrite agent t.ten (slotb + 128 * (t.claim % nslot) + 8) 8 (o.lines * 2 ^ 32 + cause * 2 ^ 16 + state)).1
  let s := (s.engWrite agent t.ten (t.hdr + 0x10) 8 (t.claim + 1)).1
  let s := { s with queues := Tbl.set {} s.queues q { t with busy := none },
                    stripes := s.stripes.filter (fun u => !(u.owner == 1024 + q && u.token == 0)) }
  if state = 6 then
    ({ s with freeN := s.freeN + 1 } : State).runtimeRecord t.ten 2 0 (Config.freeWord s.freeN).toNat (o.recordWord 0).toNat
      (natToBytes 8 o.addr.toNat ++ natToBytes 8 (o.recordWord 2).toNat ++ natToBytes 8 0)
  else s

/-- The queue's next claim starts, once it is stamped, after what the engine has made and read has performed (R289,
R352). -/
def State.queueStart (s : State) (q : Nat) (t : TQueue) : State :=
  let agent := 16 + q
  match s.ringHeader agent t.ten t.hdr 128 with
  | (s, none) => s
  | (s, some (_, ri, nslot, slotb)) =>
    let (s, b) := s.engReadBytes agent t.ten 3 (slotb + 128 * (ri % nslot)) 128
    match b with
    | .error _ => s
    | .ok b =>
      if leAt b 0 8 ≠ ri + 1 then s
      else
        let pk := b.drop 64
        let p := copyP pk (leAt pk 4 1 % 16) (leAt pk 4 1 / 16)
        let s := (s.engWrite agent t.ten (t.hdr + 8) 8 (ri + 1)).1
        let s := s.bringAll (s.agentDeps agent)
        let o : ChildOp := {
          token := 0, ch := p.ch, cx := .cb0, kind := if leAt pk 0 1 = 4 then .rstrp else .copy, state := 2, packet := pk,
          fromF := leAt pk 4 1 % 16, toF := leAt pk 4 1 / 16, expck := BitVec.ofNat 32 (if p.ckm = 0 then 0 else p.expck) }
        let t := { t with claim := ri, busy := some o }
        match queueBad pk p with
        | 0 => { s with queues := Tbl.set {} s.queues q t }
        | e => s.queueEnd q t o 6 e

/-- One line of the claim that runs in a queue: a copy line (R329 to R335). -/
def State.queueLine (s : State) (q : Nat) (t : TQueue) (o : ChildOp) : State :=
  let p := copyP o.packet o.fromF o.toF
  let m := s.queueMover q t o
  let (s, w) := s.moveLine m p o.lines
  match w with
  | .error (cause, a) => s.queueEnd q t { o with addr := BitVec.ofNat 64 a } 6 cause
  | .ok (y, ws) =>
    let o := s.opNote { o with lines := o.lines + 1, runck := BitVec.ofNat 32 (ckLine p.ckm o.runck.toNat y) } ws
    if o.lines < p.total then { s with queues := Tbl.set {} s.queues q { t with busy := some o } }
    else
      let token := Config.freeWord s.freeN
      let s := ({ s with freeN := if p.dsp = 4 then s.freeN + 1 else s.freeN } : State).tellHost p.dsp t.ten token
      if p.chk && o.runck.toNat != p.expck then s.queueEnd q t { o with addr := BitVec.ofNat 64 p.dst } 6 5
      else s.queueEnd q t o 4 0

/-- One line of a re-stripe that runs in a queue, or its start (R244, R339). -/
def State.queueStripe (s : State) (q : Nat) (t : TQueue) (o : ChildOp) : State :=
  match s.stripes.find? (fun u => u.owner == 1024 + q && u.token == 0) with
  | none =>
    let o := { o with addr := BitVec.ofNat 64 (leAt o.packet 8 8) }
    match s.stripeStart (s.queueMover q t o) o.packet with
    | .fails cause => s.queueEnd q t o 6 cause
    | .waits => s
    | .same => s.queueEnd q t { o with addr := 0 } 4 0
    | .begins page size =>
      s.stripeBegin t.ten { page := page, size := size, geo := leAt o.packet 1 1, done := 0, owner := 1024 + q, token := 0 }
  | some u =>
    let u := { u with done := u.done + 1 }
    let o := { o with lines := o.lines + 1 }
    if 64 * u.done < u.size then
      { s with stripes := s.stripes.map (fun v => if v.page = u.page then u else v),
               queues := Tbl.set {} s.queues q { t with busy := some o } }
    else (s.stripeEnd t.ten u).queueEnd q t o 4 0

/-- TENANT_QUEUE_SERVE (R352): a queue engine takes the next stamped claim of its queue, or moves one line of the one that
runs. -/
def execTenantQueueServe (q : Nat) (s : State) : Out :=
  let t := Tbl.get ({} : TQueue) s.queues q
  if !t.on ∨ !(s.tenant t.ten).on then .next s
  else match t.busy with
    | none => .next (s.queueStart q t)
    | some o => .next (if o.kind = .rstrp then s.queueStripe q t o else s.queueLine q t o)

end Sys2Proof.Machine
end

