-- ==== Sys2Proof/Machine/Complex.lean ====
section
/-! DEFINITION. The control complex: its command channel, tenants, key slots, firmware, measurements, the lifecycle, debug
unlock, quotes and the fabric node (24 R436 to R446, 21 R412, 26 R460). -/

namespace Sys2Proof.Machine

/-! ### Replies and checks (R436, R443) -/

/-- Status codes of a reply (R436). -/
abbrev stOk : Nat := 0
/-- SIGNATURE. -/
abbrev stSignature : Nat := 1
/-- ROLLBACK. -/
abbrev stRollback : Nat := 2
/-- STATE. -/
abbrev stState : Nat := 3
/-- BUSY. -/
abbrev stBusy : Nat := 4
/-- MALFORMED. -/
abbrev stMalformed : Nat := 5

/-- The reply to a command. -/
def State.replyTo (s : State) (m : HostCmd) (status : Nat) (data : List Byte) : Out :=
  .next { s with cmdReplies := s.cmdReplies ++ [{ tag := m.tag, status := status, data := data }] }

/-- A command is judged before it acts: MALFORMED for a reserved bit or a wrong LEN, STATE where the boot ROM or the
lifecycle does not take it (R436, R443). -/
def State.command (s : State) (m : HostCmd) (fine taken : Bool) (act : Nat → State → Out) : Out :=
  let t := m.ten.toNat
  if 16 ≤ t ∨ m.rsv ≠ 0 ∨ m.data.length ≠ m.len.toNat ∨ !fine then s.replyTo m stMalformed []
  else if !taken then s.replyTo m stState []
  else act t s

/-- The lifecycle allows tenants and KEYLOAD: PROVISIONED or DEPLOYED, without DBG (R443). -/
def State.tenantsAllowed (s : State) : Bool := s.booted && (s.lcs == 1 || s.lcs == 2) && !s.dbg

/-- The debug port is open (R443). -/
def State.portOpen (s : State) : Bool := s.lcs == 0 || ((s.lcs == 1 || s.lcs == 2) && s.dbg)

/-- Bytes as numbers. -/
def nums (b : List Byte) : List Nat := b.map (·.toNat)

/-- Measurement slot `i` is extended with data (R441); slots hold the big-endian number of their 32 bytes. -/
def State.extendM (s : State) (i : Nat) (data : List Nat) : State :=
  { s with meas := Tbl.set 0 s.meas i (Crypto.beNat (Crypto.sha256 (Crypto.beBytes 32 (Tbl.get 0 s.meas i) ++ data))) }

/-! ### Firmware (R440, R460) -/

/-- FWLOAD: a chunk of the image is stored. -/
def execFwload (m : HostCmd) (s : State) : Out :=
  s.command m (decide (4 ≤ m.data.length) && decide (m.data.length ≤ 4100)) true fun _ s =>
    ({ s with image := Mem.setBytes s.image (leAt m.data 0 4) (m.data.drop 4) } : State).replyTo m stOk []

/-- The working sites of a half, in ascending order. -/
def State.workingSites (s : State) (half : Nat) : List Nat :=
  ((List.range 5).map (· + 5 * half)).filter (fun n => !s.failed.contains n)

/-- The site of logical die `d`, 0xFF for none (R404, R460). -/
def State.setSite (s : State) (d n : Nat) : State :=
  { s with dieMap := Tbl.set 0 s.dieMap d (n ^^^ (if d < 4 then d else d + 1)) }

/-- Firmware derives the attestation and the key-wrap key pair from the fused device secret, the same at every power-up
(R445). -/
def State.deriveKeys (s : State) : State :=
  let pair := fun (info : List Nat) => Config.rsaGen (Crypto.hkdf32 s.fuses.secret info)
  { s with fuses := { s.fuses with attKey := pair [0x52, 0x53, 0x4E, 0x2D, 0x41, 0x54, 0x54],
                                   wrapKey := pair [0x52, 0x53, 0x4E, 0x2D, 0x57, 0x52, 0x41, 0x50] } }

/-- What firmware does before it answers FWGO (R460 step 3): the geometry table, the die map with power for the sites that it
assigns, the cores as after device reset, the ports, the scrubber; recorded repairs stand. A logical die without a working
site is lost. -/
def State.bringUp (s : State) (svn : Nat) : State :=
  -- the body is copied to the control cores, and they run (R440, log entry 22)
  let body := Mem.bytes s.image 0x310 (Mem.read s.image 8 4)
  let cores := [768, 769, 770, 771].foldl (fun (t : Tbl Core) c => Tbl.set {} t c { tess := Mem.setBytes [] 0 body }) []
  let s := if s.lcs = 0 then s else s.deriveKeys
  let s := { s with booted := true, svn := BitVec.ofNat 32 svn, geot := [], scrbEn := true, cores := cores, sites := [],
                    ports := (List.range 16).foldl (fun (t : Tbl Port) p => Tbl.set {} t p { Tbl.get {} t p with up := true }) s.ports }
  (List.range 8).foldl (fun (s : State) d =>
    match (s.workingSites (d / 4))[d % 4]? with
    | some n => ({ s with sites := s.sites ++ [n] } : State).setSite d n
    | none => (s.setSite d 0xFF).setDie d { s.die d with lost := true }) s

/-- FWGO (R440). -/
def execFwgo (m : HostCmd) (s : State) : Out :=
  s.command m (m.data.isEmpty) (!s.booted) fun _ s =>
    let head := nums (Mem.bytes s.image 0 16)
    let modulus := nums (Mem.bytes s.image 0x10 384)
    let sig := nums (Mem.bytes s.image 0x190 384)
    let body := nums (Mem.bytes s.image 0x310 (Mem.read s.image 8 4))
    let svn := Mem.read s.image 4 4
    let fail := fun (st : Nat) => ({ s with image := [] } : State).replyTo m st []
    if Crypto.sha256 modulus ≠ s.fuses.helnorHash then fail stSignature
    else if !Crypto.pssVerify (Crypto.beNat modulus) (head ++ body) sig then fail stSignature
    else if svn < s.minSvn.toNat then fail stRollback
    else if s.lcs = 4 ∧ body.head? ≠ some 0x52 then fail stState
    else
      let s := ((s.extendM 0 (Crypto.sha256 modulus)).extendM 1 (Crypto.sha256 (head ++ body))).extendM 2 [s.lcs.toNat]
      (s.bringUp svn).replyTo m stOk []

/-! ### Tenants (R437, R438) -/

/-- Die caches give up the lines that `p` names; their copies come from the homes again. -/
def State.dropLines (s : State) (p : Nat → Bool) : State :=
  { s with dies := Tbl.mapVals {} (fun (d : Die) =>
      { d with lines := d.lines.filter (fun e => !p e.1), notices := d.notices.filter (fun n => !p n.line),
               buffer := d.buffer.filter (fun b => !p b.line) }) s.dies }

/-- A line lies in a run of frames. -/
def inFrames (fs : List (Nat × Nat)) (line : Nat) : Bool :=
  fs.any (fun f => decide (f.1 ≤ line / 1024) && decide (line / 1024 < f.1 + f.2))

/-- Frames are zeroed (R438). -/
def State.zeroFrames (s : State) (fs : List (Nat × Nat)) : State :=
  let s := s.dropLines (inFrames fs)
  { s with mem := s.mem.filter (fun c => !inFrames fs (c.1 / 64)),
           tags := s.tags.filter (fun e => !inFrames fs e.1),
           lineErr := s.lineErr.filter (fun e => !inFrames fs e.1),
           rel := s.rel.filter (fun e => !(decide (e.1 < 2 ^ 40) && inFrames fs (e.1 / 8))) }

/-- The windows of a tenant record: base, size, R and W; a size of 0 means no window. -/
def recWins (r : List Byte) : List (Nat × Nat × Bool × Bool) :=
  (List.range 8).filterMap (fun i =>
    let w := leAt r (0x48 + 16 * i) 8
    if w % 2 ^ 62 = 0 then none else some (leAt r (0x40 + 16 * i) 8, w % 2 ^ 62, w / 2 ^ 62 % 2 == 1, w / 2 ^ 63 == 1))

/-- RQB names a ring inside window 0, which may be written (R418, R437). -/
def State.ringOk (s : State) (r : List Byte) : Bool :=
  let base := leAt r 0x40 8
  let size := leAt r 0x48 8 % 2 ^ 62
  let rqb := leAt r 0x18 8
  let nslot := Mem.read s.hostMem (rqb + 0x18) 4
  let slotb := Mem.read s.hostMem (rqb + 0x20) 8
  leAt r 0x48 8 / 2 ^ 63 == 1 && decide (base ≤ rqb) && decide (rqb + 64 ≤ base + size) && pow2In nslot 2 65536
    && decide (base ≤ slotb) && decide (slotb + 64 * nslot ≤ base + size)

/-- A tenant record keeps its rules (R437). -/
def State.tenantOk (s : State) (r : List Byte) : Bool :=
  let f := leAt r 0x30 8
  let n := leAt r 0x38 8
  decide (leAt r 0 8 % 8192 = 0) && decide (leAt r 0 8 < Config.memSize) && decide (leAt r 0x25 1 < 2)
    && leAt r 0x26 2 == 0 && (r.drop 0xC0).all (· == 0) && decide (65536 * (f + n) ≤ Config.memSize)
    && (List.range 8).all (fun i => decide (leAt r (0x40 + 16 * i) 8 % 4096 = 0))
    && s.tenants.all (fun e => e.2.frames.all (fun g => decide (g.1 + g.2 ≤ f) || decide (f + n ≤ g.1)))
    && s.ringOk r

/-- The TEN bit of a tenant in RCLS1 to RCLS8, by the set bits of CLASSES (R437). -/
def State.grantClasses (s : State) (ten classes : Nat) : State :=
  { s with rcls := (List.range 8).foldl (fun (t : Tbl Word64) i =>
      if classes.testBit i then Tbl.set 0 t (i + 1) (Tbl.get 0 t (i + 1) ||| BitVec.ofNat 64 (2 ^ (16 + ten))) else t) s.rcls }

/-- TENANT_SET (R437, R441). -/
def execTenantSet (m : HostCmd) (s : State) : Out :=
  s.command m (m.data.length == 256) s.tenantsAllowed fun t s =>
    let r := m.data
    if (s.tenant t).on then s.replyTo m stBusy []
    else if !s.tenantOk r then s.replyTo m stMalformed []
    else
      let rqb := leAt r 0x18 8
      let frames := if leAt r 0x38 8 = 0 then [] else [(leAt r 0x30 8, leAt r 0x38 8)]
      let x : Tenant := {
        on := true, ptb := leAt r 0 8, fqb := leAt r 0x10 8, rqb := rqb, hvec := leAt r 0x22 2,
        mlok := leAt r 0x25 1 == 1, hvbt := leAt r 0x28 8, frames := frames,
        wins := recWins r, rwi := Mem.read s.hostMem rqb 8, rri := Mem.read s.hostMem (rqb + 8) 8 }
      let s := (s.zeroFrames frames).setTenant t x
      let s := (s.writeDtq t (BitVec.ofNat 64 (leAt r 8 8))).grantClasses t (leAt r 0x24 1)
      let s := { s with dtc := Tbl.set 0 s.dtc t (BitVec.ofNat 64 (256 * leAt r 0x20 1 + 65536 * leAt r 0x21 1)) }
      (s.extendM 3 (Crypto.sha256 (nums r))).replyTo m stOk []

/-- A tenant's key slots and frames are zeroed, and its registers cleared (R438). -/
def State.removeTenant (s : State) (t : Nat) : State :=
  let s := s.zeroFrames (s.tenant t).frames
  let bit : Word64 := BitVec.ofNat 64 (2 ^ (16 + t))
  let s := s.setTenant t {}
  { s with keys := s.keys.filter (fun e => match e.2 with | some (o, _) => decide (o ≠ t) | none => false),
           dtq := Tbl.set 0 s.dtq t 0, dtc := Tbl.set 0 s.dtc t 0, dtqBad := s.dtqBad.filter (· != t),
           rcls := Tbl.mapVals 0 (fun w => w &&& ~~~ bit) s.rcls,
           queues := s.queues.filter (fun e => decide (e.2.ten ≠ t)) }

/-- A claim of the tenant is selected, running or suspended, or an operation that its runtime queue owns is not settled
(R438). -/
def State.tenantBusy (s : State) (t : Nat) : Bool :=
  s.gangs.any (fun e => decide (e.2.ten = t) && !(e.2.state == 0 || e.2.state == 7 || e.2.state == 10))
    || s.cores.any (fun e => e.2.ops.any (fun o => decide (o.owner = 2) && !settledCode o.state
      && decide ((s.gang o.gang).ten = t)))

/-- TENANT_CLR (R438). -/
def execTenantClr (m : HostCmd) (s : State) : Out :=
  s.command m m.data.isEmpty s.tenantsAllowed fun t s =>
    if s.tenantBusy t then s.replyTo m stBusy [] else (s.removeTenant t).replyTo m stOk []

/-! ### Keys (R439) -/

/-- The stores to some lines that the die caches still buffer perform at their homes. -/
def State.flushLines (s : State) (p : Nat → Bool) : State :=
  s.bringAll (s.dies.flatMap (fun e => (e.2.buffer.filter (fun b => p b.line)).map (fun b => (e.1, b.count))))

/-- A key slot is set or zeroed: the die caches give up the lines of its owner, so that none outlives its key; what they
have taken from stores has performed under the old one. -/
def State.setKey (s : State) (slot : Nat) (k : Option (Nat × List Byte)) : State :=
  let fs := match s.keySlot slot with
    | some (o, _) => (s.tenant o).frames
    | none => []
  let s := (s.flushLines (inFrames fs)).dropLines (inFrames fs)
  { s with keys := Tbl.set none s.keys slot k }

/-- KEYLOAD (R439, R441). -/
def execKeyload (m : HostCmd) (s : State) : Out :=
  let slot := leAt m.data 0 1
  s.command m (m.data.length == 388 && decide (slot < 64) && leAt m.data 1 3 == 0) s.tenantsAllowed fun t s =>
    match Crypto.oaepDecrypt s.fuses.wrapKey.1 s.fuses.wrapKey.2 (nums (m.data.drop 4)) with
    | none => s.replyTo m stMalformed []
    | some k =>
      if k.length ≠ 64 then s.replyTo m stMalformed []
      else if (match s.keySlot slot with | some (o, _) => decide (o ≠ t) | none => false) then s.replyTo m stBusy []
      else ((s.setKey slot (some (t, k.map (BitVec.ofNat 8)))).extendM 3 [slot, t]).replyTo m stOk []

/-- KEYFREE (R439, R441). -/
def execKeyfree (m : HostCmd) (s : State) : Out :=
  let slot := leAt m.data 0 1
  s.command m (m.data.length == 1 && decide (slot < 64)) s.booted fun t s =>
    ((s.setKey slot none).extendM 3 [slot, t]).replyTo m stOk []

/-! ### Debug unlock (R443, R444) -/

/-- A debug port that is not open has claimed no breakpoint (R443, R456, log entry 134). -/
def State.portShut (s : State) : State :=
  if s.portOpen then s
  else { s with gangs := Tbl.mapVals {} (fun (g : Gang) => { g with claimed := false }) s.gangs,
                cores := Tbl.mapVals {} (fun (k : Core) =>
                  { k with cb0 := { k.cb0 with claimed := false }, cb1 := { k.cb1 with claimed := false } }) s.cores }

/-- UNLOCK_CHAL: a fresh challenge, whose bytes are open. -/
def execUnlockChal (m : HostCmd) (s : State) : Out :=
  s.command m m.data.isEmpty (s.lcs == 1 || s.lcs == 2) fun _ s =>
    let (s, b) := s.freeBytes 16
    ({ s with chal := some (leAt b 0 16) } : State).replyTo m stOk b

/-- A gang is pre-empted and discarded, and reported (R444 step 1). -/
def State.discardGang (s : State) (n : Nat) : State :=
  let g := s.gang n
  if g.state = 0 ∨ g.state = 7 ∨ g.state = 10 then s
  else
    -- what a core held of host records is returned, and the report has the frame of a strand (R418, R421)
    let s := s.returnIngress n
    let now := s.gangTime g
    let frame := (g.cores.head?).map (fun e =>
      let k := s.frozen n true now e.2
      Mem.bytes k.tess (if k.cb0.gang = n then k.cb0 else k.cb1).tfb.toNat 32)
    let s := s.runtimeRecord g.ten 4 n 0 0 (frame.getD [])
    (s.vacate n).setGang n { g with state := 10, place := [], saves := [], area := [] }

/-- A tenant is zeroed; what of its reports waits for room in its runtime queue is still written there (R418). -/
def State.zeroTenant (s : State) (t : Nat) : State :=
  let x := s.tenant t
  let s := s.removeTenant t
  if x.rheld.isEmpty then s
  else s.setTenant t { rqb := x.rqb, hvec := x.hvec, rwi := x.rwi, rri := x.rri, rheld := x.rheld }

/-- Every key slot and every tenant is zeroed. -/
def State.zeroTenants (s : State) : State :=
  { (List.range 16).foldl State.zeroTenant s with keys := [] }

/-- The fields of a debug token are as the fuses and the challenge say, and its signature holds (R444). -/
def State.tokenOk (s : State) (d : List Byte) : Bool :=
  leAt d 0 8 == s.fuses.deviceId.toNat && leAt d 8 1 == s.lcs.toNat && leAt d 9 7 == 0
    && (match s.chal with | some c => leAt d 16 16 == c | none => false)
    && Crypto.sha256 (nums (d.drop 416)) == s.fuses.debugHash
    && Crypto.pssVerify (Crypto.beNat (nums (d.drop 416))) (nums (d.take 32)) (nums ((d.drop 32).take 384))

/-- UNLOCK (R444). -/
def execUnlock (m : HostCmd) (s : State) : Out :=
  s.command m (m.data.length == 800) (s.lcs == 1 || s.lcs == 2) fun _ s =>
    if !s.tokenOk m.data then s.replyTo m stSignature []
    else
      let s := s.gangs.foldl (fun (s : State) e => s.discardGang e.1) s
      let s := s.zeroTenants.extendM 2 (0x80 :: nums ((m.data.drop 16).take 16))
      ({ s with dbg := true, chal := none } : State).replyTo m stOk []

/-! ### Attestation and lifecycle (R441, R443, R446) -/

/-- The signed part of a quote. -/
def State.quoteBody (s : State) (nonce : List Byte) : List Byte :=
  let slots := (List.range 64).foldl (fun a i => if (s.keySlot i).isSome then a + 2 ^ i else a) 0
  natToBytes 4 1 ++ natToBytes 1 s.lcs.toNat ++ natToBytes 1 s.dbg.toNat ++ natToBytes 2 0
    ++ natToBytes 8 s.fuses.deviceId.toNat ++ natToBytes 4 s.svn.toNat ++ natToBytes 4 0 ++ nonce
    ++ (List.range 8).flatMap (fun i => (Crypto.beBytes 32 (Tbl.get 0 s.meas i)).map (BitVec.ofNat 8))
    ++ natToBytes 8 slots ++ (Crypto.beBytes 384 s.fuses.wrapKey.1).map (BitVec.ofNat 8)

/-- QUOTE: signed with a salt that is open, but for MANUF (R443, R446). -/
def execQuote (m : HostCmd) (s : State) : Out :=
  s.command m (m.data.length == 32) true fun _ s =>
    let body := s.quoteBody m.data
    if s.lcs = 0 then s.replyTo m stOk (body ++ List.replicate 384 0)
    else
      let (s, salt) := s.freeBytes 32
      let sig := Crypto.pssSign s.fuses.attKey.1 s.fuses.attKey.2 (nums body) (nums salt)
      s.replyTo m stOk (body ++ sig.map (BitVec.ofNat 8))

/-- EXTEND (R441). -/
def execExtend (m : HostCmd) (s : State) : Out :=
  let slot := leAt m.data 0 1
  s.command m (m.data.length == 36 && decide (4 ≤ slot) && decide (slot < 8) && leAt m.data 1 3 == 0) s.booted fun _ s =>
    (s.extendM slot (nums (m.data.drop 4))).replyTo m stOk []

/-- The next state of the lifecycle (R443). -/
def nextLcs (l : BitVec 3) : Option Nat := if l = 0 then some 1 else if l = 1 then some 2 else if l = 2 then some 4 else none

/-- LCS_ADVANCE (R443). -/
def execLcsAdvance (m : HostCmd) (s : State) : Out :=
  s.command m (m.data.length == 1) s.booted fun _ s =>
    let t := leAt m.data 0 1
    if nextLcs s.lcs ≠ some t then s.replyTo m stState []
    else
      let s := if t = 4 then s.zeroTenants else if t = 1 then s.deriveKeys else s
      ({ s with lcs := BitVec.ofNat 3 t } : State).portShut.replyTo m stOk []

/-- NODESET (R412, R436). -/
def execNodeset (m : HostCmd) (s : State) : Out :=
  let n := leAt m.data 0 2
  s.command m (m.data.length == 4 && leAt m.data 2 2 == 0 && n != 0xFFFF) s.booted fun _ s =>
    if s.gangs.any (fun e => isFabric e.2.levels && !(e.2.state == 0 || e.2.state == 7 || e.2.state == 10)) then
      s.replyTo m stBusy []
    else ({ s with nodeId := BitVec.ofNat 16 n } : State).replyTo m stOk []

end Sys2Proof.Machine
end

