-- ==== Sys2Proof/Machine/Service.lean ====
section
/-! DEFINITION. What keeps the part in service: spare tiles and dies, links, the scrubber, repair, undervolting, power and
cooling (21 R404 to R411, 23 R427 to R433, 26 R459 to R464). -/

namespace Sys2Proof.Machine

/-! ### Spare tiles and dies (R406 to R409, R431) -/

/-- The gangs that hold a core of a logical die and are not over. -/
def State.gangsOn (s : State) (d : Nat) : List Nat :=
  (s.gangs.filter (fun e => e.2.occupies && e.2.place.any (fun q => match q.2 with
    | some c => decide (c / 96 = d)
    | none => false))).map (·.1)

/-- PRED_FAIL is logged once for a unit (R430 to R432). -/
def State.predFail (s : State) (unit loc : Nat) : State :=
  if s.flagged.contains (unit, loc) then s
  else ({ s with flagged := s.flagged ++ [(unit, loc)] } : State).logErr 17 unit 2 loc 0

/-- Every write of a die performs everywhere (R407 step 2). -/
def State.drainDie (s : State) (d : Nat) : State :=
  s.bringAll ((s.die d).buffer.map (fun b => (d, b.count))
    ++ (s.dies.flatMap (fun e => (e.2.notices.filter (fun n => decide (n.comp = d))).map (fun n => (n.comp, n.count)))).dedup)

/-- The spare of its half takes a logical die: its cache starts empty, the old site is failed (R407 steps 3, 5, 6). -/
def State.switchIn (s : State) (d n : Nat) : State :=
  let old := s.siteOf d
  let s := { s with failed := if old < 10 then s.failed ++ [old] else s.failed,
                    sites := s.sites.filter (· != old) ++ [n], sramErrs := s.sramErrs.filter (·.die != d),
                    demand := s.demand.filter (·.1 != d) }
  (s.setSite d n).setDie d { s.die d with lines := [], notices := [], buffer := [], lost := false, leaving := false }

/-- The errors of a tile of a die, 128 for its cache, that count toward R431: those of a class at nominal voltage since
`from_`. -/
def State.counted431 (s : State) (die tile cls from_ : Nat) : Nat :=
  (s.sramErrs.filter (fun e => decide (e.die = die) && decide (e.tile = tile) && decide (e.cls = cls) && e.nominal
    && decide (from_ < e.cycle + 1))).length

/-- The cycle that errors are stamped with: control core 0's. -/
def State.now (s : State) : Nat := (s.core 768).cb0.clock

/-- A tile has passed a threshold of R431, or a re-measurement has found that it must be spared (R432). -/
def State.tileOver (s : State) (die tile : Nat) : Bool :=
  s.demand.contains (die, tile) || decide (16 ≤ s.counted431 die tile 4 (s.now - 2 ^ 40))
    || decide (2 ≤ s.counted431 die tile 5 0) || decide (4 ≤ s.counted431 die tile 6 0)

/-- Spare tiles that a logical die's site has used. -/
def State.sparesUsed (s : State) (die : Nat) : Nat := Tbl.get 0 s.tilesUsed (s.siteOf die)

/-- A die has passed a threshold of R431: a tile's with no spare tile left, or its cache's. -/
def State.dieOver (s : State) (die : Nat) : Bool :=
  decide (64 < s.counted431 die 128 4 (s.now - 2 ^ 40)) || s.demand.contains (die, 128)
    || (decide (4 ≤ s.sparesUsed die) && (List.range 96).any (s.tileOver die))

/-- A die is switched (R407, R431): the gangs on it are pre-empted; once they hold none of its cores, the spare takes the
logical die, or PRED_FAIL is logged when the spare is used. -/
def State.switchDie (s : State) (die : Nat) : Out :=
  if 8 ≤ die ∨ (s.die die).lost then .next s
  else match s.spareOf (die / 4) with
    | none => .next (s.predFail 2 (s.siteOf die))
    | some n =>
      let gs := s.gangsOn die
      if !gs.isEmpty then .next (gs.foldl State.requestPreempt (s.setDie die { s.die die with leaving := true }))
      else
        let s := (s.drainDie die).switchIn die n
        .next (s.logErr 14 2 3 (s.siteOf die) 0)

/-- DIE_SWITCH (R407, R431): a die that has passed a threshold is switched. -/
def execDieSwitch (die : Nat) (s : State) : Out := if s.dieOver die then s.switchDie die else .next s

/-- TILE_SPARE (R406, R431): a tile that has passed a threshold: the gangs on the die are pre-empted; once they hold none of
its cores, the logical tile is given the site's next spare tile. A die with no spare tile left is switched. -/
def execTileSpare (die tile : Nat) (s : State) : Out :=
  let used := s.sparesUsed die
  if 8 ≤ die ∨ 96 ≤ tile ∨ (s.die die).lost ∨ !s.tileOver die tile then .next s
  else if 4 ≤ used then s.switchDie die
  else
    let gs := s.gangsOn die
    if !gs.isEmpty then .next (gs.foldl State.requestPreempt (s.setDie die { s.die die with leaving := true }))
    else
      let s := s.setDie die { s.die die with leaving := false }
      let s := { s with tileMap := Tbl.set 0 s.tileMap (96 * s.siteOf die + tile) (96 + used),
                        tilesUsed := Tbl.set 0 s.tilesUsed (s.siteOf die) (used + 1),
                        sramErrs := s.sramErrs.filter (fun e => !(e.die == die && e.tile == tile)),
                        demand := s.demand.filter (· != (die, tile)) }
      .next (s.logErr 13 2 1 (s.siteOf die + 16 * (96 + used)) 0)

/-- The stores that a die's cache still held when the die was lost: of each line a part, the oldest ones, has performed
at its home, and the rest never performs (R409, log entry 125). -/
def State.loseBuffer (s : State) (d : Nat) : State :=
  let s := ((s.die d).buffer.map (·.line)).dedup.foldl (fun (s : State) l =>
    ({ s with freeN := s.freeN + 1 } : State).flushLine d l
      ((Config.freeWord s.freeN).toNat % ((s.die d).buffer.length + 1))) s
  s.setDie d { s.die d with buffer := [] }

/-- A core of a lost die: its strands are gone, its outstanding accesses never perform, and its operations never settle
(R409). -/
def Core.lose (k : Core) : Core :=
  let gone := fun (x : Ctx) => if x.gang = 0 then x else { x with halted := true, trapped := true }
  { k with cb0 := gone k.cb0, cb1 := gone k.cb1, svc := { k.svc with trapped := true }, serving := none, accs := [],
           delayed := [], ops := k.ops.map (fun (o : ChildOp) => if settledCode o.state then o else { o with state := 3 }) }

/-- The surviving strands of a gang take DIE_LOST (R409). -/
def State.dieLostTo (s : State) (d n : Nat) : State :=
  (s.strandsOf n).foldl (fun (s : State) m =>
    let x := s.ctxAt m.1 m.2
    if x.halted then s
    else s.setCtxAt m.1 m.2 { x with asyncs := x.asyncs ++ [{ code := 20, info := BitVec.ofNat 64 d }] }) s

/-- The strands of a gang that survive a lost die and have not halted (R409). -/
def State.survivors (s : State) (n : Nat) : List (Nat × CtxId) :=
  (s.strandsOf n).filter (fun m => !(s.ctxAt m.1 m.2).halted && !(s.die (dieOf m.1)).lost)

/-- Every surviving strand of a gang has taken DIE_LOST (R409). -/
def State.allTold (s : State) (n : Nat) : Bool :=
  (s.survivors n).all (fun m => !(s.ctxAt m.1 m.2).asyncs.any (fun a => decide (a.code = 20)))

/-- A gang that has lost a die is escalated with the frame of a survivor, one that serves DIE_LOST first, and never resumed
(R377, R409). -/
def State.escalate (s : State) (n : Nat) : State :=
  let g := s.gang n
  let frame := fun (m : Nat × CtxId) => Mem.bytes (s.core m.1).tess (s.ctxAt m.1 m.2).tfb.toNat 32
  let serves := (s.survivors n).find? (fun m => (s.core m.1).serving == some (m.2, 20))
  let from_ := match serves with | some m => some m | none => (s.survivors n).head?
  (s.runtimeRecord g.ten 4 n 0 20 ((from_.map frame).getD [])).stopGang n

/-- DIE_LOST (R409): the die's work is lost, its buffered stores having performed or never performing, and the survivors of
its gangs are to take DIE_LOST. While the die is lost, its gangs are escalated as their survivors have taken it, and once
none is left the spare takes the logical die. -/
def execDieLost (die : Nat) (s : State) : Out :=
  if 8 ≤ die then .next s
  else
    let gs := s.gangsOn die
    let mine := (List.range 96).map (· + 96 * die)
    if !(s.die die).lost then
      let s := mine.foldl (fun (s : State) c => s.setCore c (s.core c).lose) s
      let s := s.loseBuffer die
      let s := s.setDie die { s.die die with lost := true, leaving := false, lines := [], notices := [] }
      .next ((gs.foldl (fun (s : State) n => s.dieLostTo die n) s).logErr 15 2 4 (s.siteOf die) 0)
    else if !gs.isEmpty then .next ((gs.filter (fun n => !(s.gang n).escal && s.allTold n)).foldl State.escalate s)
    else match s.spareOf (die / 4) with
      | none => .next s
      | some n => .next (mine.foldl (fun (s : State) c => s.setCore c (s.core c).cleared) (s.switchIn die n))

/-! ### Links (R410, R411, R431) -/

/-- A flit is not accepted: a retry is asked for; every 256th is logged, and the sixteenth in a row takes the port down,
which interrupts jobs when no other port is up to route by (R411, R433, R435, log entry 108). -/
def State.retryFlit (s : State) (port : Nat) (p : Port) : State :=
  let p := { p with retry := p.retry + 1, asked := p.asked + 1 }
  let down := decide (16 ≤ p.retry)
  let s := { s with ports := Tbl.set {} s.ports port (if down then { p with up := false } else p.send .retry) }
  let s := if p.asked % 256 = 0 then s.logErr 7 4 0 port 0 else s
  let other := (List.range 16).any (fun q => q != port && (Tbl.get ({} : Port) s.ports q).up)
  if down then s.logErr 9 4 (if other then 0 else 4) port 0 else s

/-- A write that a peer's channel sends: it performs at its home, stamped with the fabric-ingress component, after the
channel's earlier ones; a doorbell line targets this device's part of the gang (R413, R415). -/
def State.peerWrite (s : State) (agent ten rec_ va n data : Nat) : State :=
  match s.tenantAt ten va 2 with
  | .error _ => s
  | .ok (pa, plc) =>
    if isBell pa then
      match (s.gangs.find? (fun g => g.2.ten == ten && g.2.recVa.toNat == rec_ && g.2.state == 3)) with
      | none => s
      | some g => s.ring g.1 (bellLine pa) (data % 2 ^ 64) false (s.agentDeps agent)
    else
      let o := pa % 64
      let k := min n (64 - o)
      -- R289: the channel's earlier writes have performed for every observer
      let (s, w) := (s.bringAll (s.agentDeps agent)).homeWrite 9 (some ten) (pa / 64) plc ((2 ^ k - 1) * 2 ^ o)
        (data % 256 ^ k * 256 ^ o) (s.agentDeps agent) true []
      s.agentNote agent [w]

/-- This device's part of the fabric gang that tenant, record address and launch number name (R414). -/
def State.partNamed (s : State) (ten rec_ nth : Nat) : Option Nat :=
  (s.gangs.find? (fun e => isFabric e.2.levels && (e.2.ten, e.2.recVa.toNat, e.2.nth) == (ten, rec_, nth))).map (·.1)

/-- A node's part of a fabric gang is placed (0), stops (1), which stops this device's part, or is rejected (2), which rejects
it (R135, R414). -/
def State.peerPart (s : State) (node ten rec_ nth what : Nat) : State :=
  let key := (ten, rec_, nth)
  let p := Tbl.get ({} : Peer) s.peers node
  let parts := p.parts.filter (· != key)
  let put := fun (p : Peer) => ({ s with peers := Tbl.set {} s.peers node p } : State)
  let mine := s.partNamed ten rec_ nth
  if what = 0 then put { p with parts := parts ++ [key] }
  else if what = 1 then (match mine with
    | some n => (put { p with parts := parts }).requestPreempt n
    | none => put { p with parts := parts })
  else match mine with
    | some n => (put { p with rejects := p.rejects ++ [key] }).rejectPart n
    | none => put { p with rejects := p.rejects ++ [key] }

/-- What a device tells of its member's part of a collective is noted (R336). -/
def State.farColl (s : State) (ten rec_ nth sidx level ord : Nat) (f : FarColl → FarColl) : State :=
  let is := fun (c : FarColl) => c.ten == ten && c.rec_ == rec_ && c.nth == nth && c.sidx == sidx && c.level == level && c.ord == ord
  let c := (s.farColls.find? is).getD ⟨ten, rec_, nth, sidx, level, ord, [], [], 0⟩
  { s with farColls := s.farColls.filter (fun c => !is c) ++ [f c] }

/-- What an accepted flit asks is done: the peer ingress of a port is an agent of the memory model (R266, R412, R413). The
replies to a peer are no state of the device (log entry 51). -/
def State.peerAccess (s : State) (port : Nat) : FlitMsg → State
  | .write chan ten rec_ va n data => s.peerWrite (4096 + 16 * chan + port) ten rec_ va n data
  | .read chan ten va =>
    match s.tenantAt ten va 1 with
    | .error _ => s
    | .ok (pa, plc) =>
      if isBell pa then s
      else
        let (s, v) := s.homeReadW 9 (some ten) (pa / 64) plc
        match v with
        | none => s
        | some l => s.agentNote (4096 + 16 * chan + port) (l.stamps ++ carriedDev (l.rels.flatMap (·.2)))
  | .claim chan ten va =>
    match s.tenantAt ten va 3 with
    | .error _ => s
    | .ok (pa, plc) =>
      if isBell pa then s
      else
        let (s, v) := s.homeReadW 9 (some ten) (pa / 64) plc
        match v with
        | none => s
        | some l => s.peerWrite (4096 + 16 * chan + port) ten 0 va 8 (l.data / 256 ^ (pa % 64) + 1)
  | .arrive ten rec_ nth sidx level epoch =>
    { s with farStrands := s.farStrands ++ [⟨ten, rec_, nth, sidx, some level, epoch⟩] }
  | .halted ten rec_ nth sidx =>
    let s := { s with farStrands := s.farStrands ++ [⟨ten, rec_, nth, sidx, none, 0⟩] }
    match s.partNamed ten rec_ nth with
    | none => s
    | some g => s.passOps g sidx
  | .fault ten rec_ nth sidx token =>
    match (s.partNamed ten rec_ nth).bind (fun g => s.strandCtx g sidx) with
    | none => s
    | some (c, cx) =>
      let x := s.ctxAt c cx
      s.setCtxAt c cx { x with asyncs := x.asyncs ++ [{ code := 15, info := BitVec.ofNat 64 token }] }
  | .part node ten rec_ nth what => s.peerPart node ten rec_ nth what
  | .coll ten rec_ nth sidx level ord packet =>
    s.farColl ten rec_ nth sidx level ord (fun f => { f with packet := packet })
  | .collLine ten rec_ nth sidx level ord off data =>
    s.farColl ten rec_ nth sidx level ord (fun f => { f with lines := Tbl.set none f.lines (off / 64) (some data) })
  | .collEnd ten rec_ nth sidx level ord state =>
    s.farColl ten rec_ nth sidx level ord (fun f => { f with ended := state })
  | .retry =>
    let p := Tbl.get ({} : Port) s.ports port
    { s with ports := Tbl.set {} s.ports port { p with sent := p.sent ++ p.replay } }

/-- A port takes a flit: the next number is awaited, and what the flit acknowledges leaves the replay buffer (R410, R411). -/
def Port.take (p : Port) (flit : List Byte) : Port :=
  let n := (leAt flit 248 2 + 65537 - p.acked) % 65536
  let freed := if n ≤ p.replay.length then n else 0
  { p with rxSeq := (p.rxSeq + 1) % 65536, retry := 0, inbox := p.inbox ++ [flit.take 248], replay := p.replay.drop freed,
           acked := (p.acked + freed) % 65536 }

/-- FLIT_RECEIVE (R410, R411): a flit with a good CRC and the next SEQ is accepted, and its ACK frees the replay buffer; the
ingress then does what its body asks. -/
def execFlitReceive (port : Nat) (flit : List (BitVec 8)) (s : State) : Out :=
  let p := Tbl.get ({} : Port) s.ports port
  if 16 ≤ port ∨ !p.up then .next s
  else if flit.length = 256 ∧ crc32c (flit.take 252) = leAt flit 252 4 ∧ leAt flit 250 2 = p.rxSeq then
    let s := { s with ports := Tbl.set {} s.ports port { (p.take flit) with flits := p.flits + 1 } }
    .next (match Config.flitAccess (flit.take 248) with
      | none => s
      | some m => s.peerAccess port m)
  else
    -- R431: a CRC failure counts against the lane it is attributed to
    let bad := if flit.length = 256 ∧ crc32c (flit.take 252) = leAt flit 252 4 then [] else [(Config.flitLane flit % 8, p.flits)]
    .next (s.retryFlit port { p with flits := p.flits + 1, crcBad := p.crcBad ++ bad })

/-- A lane has met 16 CRC failures in 2^32 flits (R431). -/
def Port.laneOver (p : Port) (lane : Nat) : Bool :=
  decide (16 ≤ (p.crcBad.filter (fun e => e.1 == lane && decide (p.flits < e.2 + 2 ^ 32))).length)

/-- LANE_SPARE (R411, R431): the spare lane replaces a lane that has passed its threshold. -/
def execLaneSpare (port lane : Nat) (s : State) : Out :=
  let p := Tbl.get ({} : Port) s.ports port
  if 16 ≤ port ∨ 8 ≤ lane ∨ p.spare ∨ !p.laneOver lane then .next s
  else .next (({ s with ports := Tbl.set {} s.ports port { p with spare := true, lanes := [lane] } } : State).logErr 8 4 1
    (port + 16 * lane) 0)

/-- UCIE_LANE (R417, R431): a redundant lane replaces a lane, when the adapter's repair threshold is passed: that threshold is
the adapter's own (log entry 100). -/
def execUcieLane (module lane : Nat) (s : State) : Out :=
  let m := Tbl.get ({} : Module) s.mods module
  if 4 ≤ module ∨ 64 ≤ lane ∨ m.lanes.contains lane then .next s
  else .next (({ s with mods := Tbl.set {} s.mods module { m with lanes := m.lanes ++ [lane] } } : State).logErr 18 5 1
    (module + 16 * lane) 0)

/-! ### The scrubber (R427, R428) -/

/-- A frame is being moved by a re-stripe. -/
def State.moving (s : State) (frame : Nat) : Bool :=
  s.stripes.any (fun t => decide (t.page / 65536 ≤ frame) && decide (frame < t.page / 65536 + t.size / 65536))

/-- The home of a line lies on a bed die: three stacks to each (R2). -/
def State.onBed (s : State) (bed line : Nat) : Bool :=
  decide (stackOf (s.geotAt (s.geoAt (line / 1024))) (64 * line) / 3 = bed)

/-- The placement word by which the scrubber reads a line: that of the line's tag, while its key slot holds a key. -/
def State.scrubPlc (s : State) (line : Nat) : BitVec 32 :=
  let t := Tbl.get 0 s.tags line
  let key := (t - 1) / 2 ^ 32
  if t = 0 ∨ (s.keySlot key).isNone then 0 else BitVec.ofNat 32 (0xC0 + 256 * key)

/-- SCRUB_LINE (R427): the bed die's scrubber goes on to the next line; a line of its stacks is read, judged and written
back. The last line of all four scrubs completes a pass. -/
def execScrubLine (bed : Nat) (s : State) : Out :=
  let (pos, passes) := Tbl.get (0, 0) s.scrubPos bed
  if 4 ≤ bed ∨ !s.scrbEn ∨ s.moving (pos / 1024) then .next s
  else
    let s := if s.onBed bed pos then s.judgeLine pos (s.scrubPlc pos) else s
    let next := if 64 * (pos + 1) < Config.memSize then (pos + 1, passes) else (0, passes + 1)
    let t := Tbl.set (0, 0) s.scrubPos bed next
    let done := (List.range 4).foldl (fun m b => min m (Tbl.get (0, 0) t b).2) (Tbl.get (0, 0) t bed).2
    .next { s with scrubPos := t, scrbPass := BitVec.ofNat 16 done }

/-! ### Repair (R430) -/

/-- A row, by its LOC, calls for PPR: it has met an uncorrectable error, or corrected ones in three scrub passes (R430). -/
def State.rowOver (s : State) (loc : Nat) : Bool :=
  let es := (s.rowErrs.filter (fun e => e.1 == loc)).map (·.2)
  es.contains none || decide (3 ≤ es.dedup.length)

/-- The channel of a row's place, and its bank in it: a row of a stack is named by LOC / 16 (R433). -/
def rowBank (row : Nat) : Nat := row % 2 ^ 11

/-- PPR can do no more for a bank of a stack: its spare rows are used up (R430). -/
def State.bankFull (s : State) (stack bank : Nat) : Bool :=
  decide (Config.spareRows ≤ (s.rowsMoved.filter (fun e => e.1 == stack && rowBank e.2 == bank)).length)

/-- A page under re-stripe holds a line that `p` names: no repair starts there (R430). -/
def State.underStripe (s : State) (p : Nat → Bool) : Bool :=
  s.stripes.any (fun t => (List.range (t.size / 64)).any (fun i => p (t.page + 64 * i)))

/-- PPR: the lines of a row that calls for it move to a spare row of its bank; no value and no address changes. -/
def execPpr (stack row : Nat) (s : State) : Out :=
  let loc := stack + 16 * row
  if 12 ≤ stack ∨ !s.rowOver loc ∨ s.bankFull stack (rowBank row) ∨ s.underStripe (fun a => s.lineLoc a == loc) then .next s
  else .next (({ s with rowsMoved := s.rowsMoved ++ [(stack, row)], rowErrs := s.rowErrs.filter (·.1 != loc) } : State).logErr
    10 0 1 loc 0)

/-- A channel calls for sparing: it has had 64 PPRs, or a row of it calls for one and its bank has no spare row left
(R430). -/
def State.chanOver (s : State) (stack ch : Nat) : Bool :=
  decide (64 ≤ (s.rowsMoved.filter (fun e => e.1 == stack && e.2 % 64 == ch)).length)
    || s.rowErrs.any (fun e => decide (e.1 % 16 = stack) && decide (e.1 / 16 % 64 = ch) && s.rowOver e.1
        && s.bankFull stack (rowBank (e.1 / 16)))

/-- CHAN_SPARE: the stack's spare channel answers for a logical channel that calls for it; a stack whose spare is used is
flagged. -/
def execChanSpare (stack ch : Nat) (s : State) : Out :=
  if 12 ≤ stack ∨ 32 ≤ ch ∨ !s.chanOver stack ch ∨ s.underStripe (fun a => decide (s.lineLoc a % 2 ^ 10 = stack + 16 * ch)) then
    .next s
  else if s.chanMoved.any (fun e => e.1 == stack) then .next (s.predFail 0 stack)
  else .next (({ s with chanMoved := s.chanMoved ++ [(stack, ch)] } : State).logErr 11 0 1 (stack + 16 * ch) 0)

/-- Bytes of a stack's retirement reserve that are used: each retired frame takes its share of every stack of its
geometry. -/
def State.reserveUsed (s : State) (stack : Nat) : Nat :=
  s.retired.foldl (fun a f =>
    let st := geoStacks (s.geotAt (s.geoAt f))
    if st.contains stack then a + 65536 / st.length else a) 0

/-- A frame calls for retirement: it holds a marked line in a row that PPR cannot repair (R430). -/
def State.frameOver (s : State) (frame : Nat) : Bool :=
  s.lineErr.any (fun e => decide (e.1 / 1024 = frame) && e.2.mark
    && (let loc := s.lineLoc (64 * e.1); s.bankFull (loc % 16) (rowBank (loc / 16))))

/-- PAGE_RETIRE: the storage of a frame that calls for it is reassigned to a reserve frame; a frame under re-stripe waits,
and a stack without reserve is flagged. -/
def execPageRetire (frame : Nat) (s : State) : Out :=
  if Config.memSize ≤ 65536 * frame ∨ s.moving frame ∨ !s.frameOver frame ∨ s.retired.contains frame then .next s
  else
    let st := geoStacks (s.geotAt (s.geoAt frame))
    match st.find? (fun k => decide (256 * 65536 < s.reserveUsed k + 65536 / st.length)) with
    | some k => .next (s.predFail 0 k)
    | none => .next (({ s with retired := s.retired ++ [frame] } : State).logErr 12 0 1 (s.lineLoc (65536 * frame)) (65536 * frame))

/-! ### Undervolting (R432) -/

/-- Corrected errors of a die after cycle `from_`, all or those at nominal voltage (R432). -/
def State.dieErrs (s : State) (d from_ : Nat) (nominal : Bool) : List SramErr :=
  s.sramErrs.filter (fun e => decide (e.die = d) && decide (e.cls = 4) && (e.nominal || !nominal) && decide (from_ < e.cycle))

/-- UNDERVOLT_EXCURSION: it starts only where UVX allows it and LOCK is clear; the die's rate over the 2^36 cycles before it
is its baseline, and its errors count toward nothing. -/
def execUndervoltExcursion (die : Nat) (start : Bool) (s : State) : Out :=
  let d := s.die die
  if 8 ≤ die then .next s
  else if start then
    (if d.uvx = 1 ∧ !d.lock ∧ !d.excursion then
      .next (s.setDie die { d with excursion := true, base := (s.dieErrs die (s.now - 2 ^ 36) true).length })
    else .next s)
  else if d.excursion then .next (s.setDie die { d with excursion := false })
  else .next s

/-- VOLT_RESTORE: the corrected errors of the last 2^32 cycles exceed twice the baseline's rate, 16 times as many for a
window of 2^36 cycles: nominal voltage is restored, and the die is locked until its re-measurement ends. -/
def execVoltRestore (die : Nat) (s : State) : Out :=
  let d := s.die die
  if 8 ≤ die ∨ !d.excursion ∨ 16 * (s.dieErrs die (s.now - 2 ^ 32) false).length ≤ 2 * d.base then .next s
  else .next ((s.setDie die { d with excursion := false, lock := true, remeasure := true, errs := s.now }).logErr 16 6 0
    (s.siteOf die) 0)

/-- The unit concerned in a die's errors: the tile, or the cache, with the most of them; the lowest of several. -/
def worstTile (es : List SramErr) : Nat :=
  let n := fun (t : Nat) => (es.filter (·.tile == t)).length
  (List.range 129).foldl (fun b t => if n b < n t then t else b) 0

/-- REMEASUREMENT_END: 2^36 cycles at nominal after the restoration, a rate still above twice the baseline's flags the die and
the unit concerned, and the action of R431 runs; otherwise the die returns to the power controller. -/
def execRemeasurementEnd (die : Nat) (s : State) : Out :=
  let d := s.die die
  if 8 ≤ die ∨ !d.remeasure ∨ s.now < d.errs + 2 ^ 36 then .next s
  else
    let es := s.dieErrs die d.errs true
    let s := s.setDie die { d with lock := false, remeasure := false }
    if es.length ≤ 2 * d.base then .next s
    else
      let w := worstTile es
      let loc := if w = 128 then s.siteOf die + 2048 * 4 else s.sramLoc (96 * die + w) 0
      let s := (s.predFail 2 (s.siteOf die)).predFail 2 loc
      let s := { s with demand := if s.demand.contains (die, w) then s.demand else s.demand ++ [(die, w)] }
      if w = 128 then s.switchDie die else execTileSpare die w s

/-! ### Power (R459 to R464) -/

/-- Rated watts of a die in a state (R462). -/
def dieWatts (st : Nat) : Nat := if st = 0 then 175 else if st = 1 then 140 else if st = 2 then 100 else 60

/-- The rated sum of the package (R461). -/
def ratedSum (st : List Nat) : Nat := st.foldl (fun a x => a + dieWatts x) (240 + 220 + 504 + 150)

/-- The limit states: dies are lowered by one state each, from 7 downward and wrapping, while the rated sum exceeds the
limit (R464). -/
def limitStates (lim : Nat) : Nat → Nat → List Nat → List Nat
  | 0, _, st => st
  | fuel + 1, d, st =>
    if ratedSum st ≤ lim ∨ st.all (fun x => decide (3 ≤ x)) then st
    else limitStates lim fuel ((d + 7) % 8) (st.set d (min 3 (st.getD d 0 + 1)))

/-- DVFS_EVALUATION (R464). Package power is a measured figure: its value is free. -/
def execDvfsEvaluation (s : State) : Out :=
  let th := if s.tlim.toNat < s.temp then min 3 (s.thermal + 1)
    else if s.temp + 5 ≤ s.tlim.toNat then s.thermal - 1 else s.thermal
  let lim := limitStates s.plim.toNat 32 7 (List.replicate 8 0)
  let s := (List.range 8).foldl (fun (s : State) d =>
    let x := s.die d
    s.setDie d { x with cur := BitVec.ofNat 2 (max (max x.req.toNat (lim.getD d 0)) th) }) s
  .next { s with thermal := th, watts := (Config.freeWord s.freeN).toNat % 65536, freeN := s.freeN + 1 }

/-- Every domain is powered off: all is lost but the fuses and what lies outside the device (R459, R464). -/
def State.powerOff (s : State) : State :=
  { State.reset with
    powered := false, failed := s.failed, tileMap := s.tileMap, tilesUsed := s.tilesUsed, lcs := s.lcs, fuses := s.fuses,
    minSvn := s.minSvn, freeN := s.freeN, agenda := s.agenda, hostMem := s.hostMem,
    rowsMoved := s.rowsMoved, chanMoved := s.chanMoved, retired := s.retired, logRing := s.logRing, logSeq := s.logSeq,
    logDrop := s.logDrop, replies := s.replies, cmdReplies := s.cmdReplies, peers := s.peers }

/-- The rails that are applied, in their order (R459): VAUX 0, VBED 1, VHBM 2, VLINK 3, and for each compute site n that has
power VCMPn 4 + n and VLINn 14 + n. -/
def State.railsOn (s : State) : List Nat :=
  if s.powered then [0, 1, 2, 3] ++ s.sites.flatMap (fun n => [4 + n, 14 + n]) else []

/-- THERMAL_TRIP (R464): the hottest junction's temperature; at 115 °C every domain is powered off. -/
def execThermalTrip (temp : Nat) (s : State) : Out :=
  if !s.powered then .next s else if 115 ≤ temp then .next s.powerOff else .next { s with temp := temp }

/-- RAIL_FAULT (R459): VAUX, VBED, VHBM, VLINK, VCMP0 to 9 and VLIN0 to 9 are rails 0 to 23. -/
def execRailFault (rail : Nat) (s : State) : Out := if s.railsOn.contains rail then .next s.powerOff else .next s

/-- POWER_UP (R459, R460): the four rails that are not a site's come up in order, the boot ROM starts on control core 0 and
trains the UCIe modules; at which of the two rates is free (R417). -/
def execPowerUp (s : State) : Out :=
  if s.powered then .next s
  else
    let w := Config.freeWord s.freeN
    .next { s with powered := true, freeN := s.freeN + 1,
                   mods := (List.range 4).foldl (fun (t : Tbl Module) m => Tbl.set {} t m { slow := w.getLsbD m }) [] }

end Sys2Proof.Machine
end

