-- ==== Sys2Proof/Machine/Debug.lean ====
section
/-! DEFINITION. The debug port: stopping a gang, and reaching its state while it is stopped (25 R456, R457). -/

namespace Sys2Proof.Machine

/-- The STOP record of a context (R450, R456): the frame's PC, code and INFO. -/
def State.traceStop (s : State) (c : Nat) (cx : CtxId) : State :=
  let k := s.core c
  let x := k.ctx cx
  let b := x.tfb.toNat
  s.trace c 5 cx x.clock (Mem.read k.tess (b + 8) 8) x.clock (natToBytes 8 (Mem.read k.tess b 1) ++ natToBytes 8 (Mem.read k.tess (b + 16) 8))

/-- A strand of the gang has been stopped by the port (R456). -/
def State.portHeld (s : State) (g : Nat) : Bool := (s.strandsOf g).any (fun m => (s.ctxAt m.1 m.2).stopped)

/-- A gang one of whose strands has met a breakpoint that the port has claimed stops whole, whether or not a pre-emption is
already under way: the rest of it is pre-empted (R135, R456). -/
def State.portStops (s : State) (g : Nat) : State :=
  if ((s.gang g).state = 3 ∨ (s.gang g).state = 4) ∧ s.portHeld g then
    (s.requestPreempt g).setGang g { (s.requestPreempt g).gang g with state := 11 }
  else s

/-- DEBUG_STOP (R456): the port asks a running gang to stop; once every context has stopped at a boundary, the frames of
those that raised no breakpoint hold code 19, and a STOP record is written for each. -/
def execDebugStop (gang : Nat) (s : State) : Out :=
  let g := s.gang gang
  if g.state = 3 ∧ !s.portOpen then .next s
  else if g.state = 3 then
    .next ((s.requestPreempt gang).setGang gang { (s.requestPreempt gang).gang gang with state := 11 })
  else if g.state ≠ 11 then .next s
  else
    let cores := g.cores.map (·.2)
    if cores.all (fun c => (s.core c).ready gang g.escal) then
      let now := s.gangTime g
      let s := cores.foldl (fun (s : State) c => s.traceClosed c now) s
      let s := cores.foldl (fun (s : State) c =>
        let k := (s.frozen gang g.escal now c).disc
        let stop := fun (x : Ctx) => if x.gang = gang ∧ !x.halted then { x with stopped := true, trapped := true } else x
        s.setCore c { k with cb0 := stop k.cb0, cb1 := stop k.cb1, svc := { k.svc with trapped := true }, serving := none }) s
      let s := s.setGang gang { g with state := 8 }
      let s := (s.strandsOf gang).foldl (fun (s : State) m =>
        if (s.ctxAt m.1 m.2).halted then s else s.traceStop m.1 m.2) s
      .next (cores.foldl (fun (s : State) c => s.flushTrace c none) s)
    else .next s

/-- A register class and index of the port: those that R374 numbers. -/
def portKey (cls idx : Nat) : Option Nat :=
  if idx < (match cls with | 0 => 32 | 1 => 16 | 2 => 8 | 3 => 16 | 4 => 4 | 5 => 32 | _ => 0) then some (regKey cls idx) else none

/-- Bits of a register class. -/
def classBits (cls : Nat) : Nat := match cls with | 1 => 128 | 4 => 32 | 5 => 4096 | _ => 64

/-- What the port reads of a context of a stopped gang (R457). -/
def State.portRead (s : State) (rq : PortRequest) : Vec :=
  let k := s.core rq.core
  let x := k.ctx rq.cx
  let num := fun (n : Nat) => BitVec.ofNat 4096 n
  match rq.target with
  | .face cls idx f => match portKey cls idx with | some q => (x.two q).face f | none => 0
  | .selector cls idx => match portKey cls idx with | some q => num (x.two q).sel.toNat | none => 0
  | .wbit cls idx => match portKey cls idx with | some q => num (x.two q).w.toNat | none => 0
  | .pwqValue n => ((x.pwq[n]?).bind (·.val)).getD 0
  | .pwqEntry n => match x.pwq[n]? with | some e => num (leAt (e.save x.origins) 0 32) | none => 0
  | .pc => x.pc.setWidth 4096
  | .lr => x.lr.setWidth 4096
  | .xr w => (if w = 0 then x.xr.w0 else if w = 1 then x.xr.w1 else if w = 2 then x.xr.w2 else x.xr.w3).setWidth 4096
  | .sysreg i => (({ s with focus := rq.core, cx := rq.cx } : State).sysReg i.toNat).getD 0 |>.setWidth 4096
  | .tess a => num (Mem.read k.tess a 8)
  | .acm a => num (Mem.read k.acm a 8)
  | .lintel a => num (Mem.read k.lintel a 8)
  | .claim => num x.claimed.toNat

/-- Eight bytes of a core's memory are written by the port, if they lie inside it. -/
def portBytes (m : Mem) (size a : Nat) (v : Vec) : Mem := if a + 8 ≤ size then Mem.write m a 8 (v.toNat % 2 ^ 64) else m

/-- The registers of a context with one of them written by the port, whole as SRD reads it, even where no SWR reaches it
(R457, log entry 135): none for a register that is not the context's own. -/
def Ctx.portSet (x : Ctx) (i : Nat) (v : Word64) : Option Ctx :=
  let n := v.toNat
  if i = 0 ∨ i = 3 then some (x.writePhase i v)
  else if i = 1 then some { x with dw := v.getLsbD 0 }
  else if i = 2 then some { x with phn := v }
  else if 0x040 ≤ i ∧ i ≤ 0x047 then some { x with lidx := x.lidx.set (i - 0x040) (v.setWidth 16) }
  else if 0x048 ≤ i ∧ i ≤ 0x04F then some { x with lcnt := x.lcnt.set (i - 0x048) (v.setWidth 16) }
  else if i = 0x050 then some { x with sidx := v.setWidth 32 }
  else if i = 0x051 then some { x with scnt := v.setWidth 32 }
  else if i = 0x052 then some { x with gloc := v }
  else if i = 0x058 then some { x with fmtt := v }
  else if i = 0x062 then some { x with lttGran := v.setWidth 2, lttEn := v.getLsbD 2, lttBase := (v >>> 28).setWidth 20 }
  else if i = 0x063 then some { x with wdt := v.setWidth 32 }
  else if 0x064 ≤ i ∧ i ≤ 0x06B then
    some { x with dones := Tbl.set 0 x.dones (i - 0x064) (v.setWidth 32), seqs := Tbl.set 0 x.seqs (i - 0x064) ((v >>> 32).setWidth 32) }
  else if 0x070 ≤ i ∧ i ≤ 0x077 then
    some { x with pairs := Tbl.upd {} x.pairs (i - 0x070) (fun (p : Pair) =>
      { p with base := n % 2 ^ 20 / 64 * 64, half := n / 2 ^ 20 % 2 ^ 20 / 64 * 64, en := v.getLsbD 40, ref := v.getLsbD 41,
               dirty0 := v.getLsbD 42, dirty1 := v.getLsbD 43, sel := v.getLsbD 44 }) }
  else if i = 0x078 then some { x with taddr := v.setWidth 48 }
  else if i = 0x079 then some { x with tvec := v.setWidth 8, tvecKind := v.getLsbD 8 }
  else if i = 0x0A1 then some { x with tfb := v.setWidth 20 &&& 0xFFFC0 }
  else if i = 0x0A2 then
    some { x with sega := v.getLsbD 2, rpl := v.getLsbD 3, esc := v.getLsbD 4, pstart := v &&& 0x0000FFFFFFFFFFE0,
                  rcnt := (v >>> 56).setWidth 8 }
  else if i = 0x0A3 then some { x with segCnt := v.setWidth 32, segSig := (v >>> 32).setWidth 32 }
  else if i = 0x0B0 then some { x with start := x.clock - n }
  else if i = 0x0BA then some { x with wpb0 := v &&& 0xE000FFFFFFFFFFFF }
  else if i = 0x0BB then some { x with wpl0 := v &&& 0xF0000000FFFFFFFF }
  else if i = 0x0BC then some { x with wpb1 := v &&& 0xE000FFFFFFFFFFFF }
  else if i = 0x0BD then some { x with wpl1 := v &&& 0xF0000000FFFFFFFF }
  else none

/-- The frame from which a stopped full context goes on holds its PC and its queue as the port has left them (R373, R376,
R457). -/
def Core.reframed (k : Core) (cx : CtxId) : Core :=
  let x := k.ctx cx
  if cx = .svc ∨ !x.stopped then k
  else { k with tess := Mem.setBytes (Mem.write k.tess (x.tfb.toNat + 8) 8 x.pc.toNat) (x.tfb.toNat + 0x80)
                          (x.pwq.flatMap (·.save x.origins)) }

/-- What the port writes (R457): a face write sets no W bit, moves no selector and records no stamp. -/
def State.portWrite (s : State) (rq : PortRequest) : State :=
  let k := s.core rq.core
  let x := k.ctx rq.cx
  let v := rq.value
  let put := fun (x : Ctx) => s.setCore rq.core (k.setCtx rq.cx x)
  let two := fun (cls idx : Nat) (f : Two → Two) => match portKey cls idx with
    | some q => put (x.setTwo q (f (x.two q)))
    | none => s
  match rq.target with
  | .face cls idx f => if cls = 0 ∧ idx = 0 then s else two cls idx (fun t => t.setFace f (v &&& BitVec.ofNat 4096 (2 ^ classBits cls - 1)))
  | .selector cls idx => two cls idx (fun t => { t with sel := v.getLsbD 0 })
  | .wbit cls idx => two cls idx (fun t => { t with w := v.getLsbD 0 })
  | .pwqValue n => match x.pwq[n]? with
    | some e => s.setCore rq.core ((k.setCtx rq.cx { x with pwq := x.pwq.set n { e with
        val := some (v &&& BitVec.ofNat 4096 (2 ^ classBits (e.reg / 32) - 1)) } }).reframed rq.cx)
    | none => s
  | .pwqEntry n => match x.pwq[n]? with
    | some e =>
      let w := fun (i : Nat) => v.toNat / 2 ^ (64 * i) % 2 ^ 64
      if (portKey (w 2 % 8) (w 2 / 8 % 32)).isNone then s
      else s.setCore rq.core ((k.setCtx rq.cx { x with pwq := x.pwq.set n (Pwq.restore e (w 0) (w 1) (w 2) (w 3) e.ready) }).reframed rq.cx)
    | none => s
  | .pc => s.setCore rq.core ((k.setCtx rq.cx { x with pc := v.setWidth 64 &&& 0x0000FFFFFFFFFFE0 }).reframed rq.cx)
  | .lr => put { x with lr := v.setWidth 64 }
  | .xr w =>
    let u : Word64 := v.setWidth 64
    put { x with xr := if w = 0 then { x.xr with w0 := u } else if w = 1 then { x.xr with w1 := u }
      else if w = 2 then { x.xr with w2 := u } else { x.xr with w3 := u } }
  | .sysreg i =>
    let own := rq.cx ≠ .svc ∨ i.toNat ≤ 3 ∨ (0x064 ≤ i.toNat ∧ i.toNat ≤ 0x06B)
    match if own then x.portSet i.toNat (v.setWidth 64) else none with
    | some y => put y
    | none =>
      -- the port writes as the writer that R388 names: SVC, serving the context
      let u : State := { s.setCore rq.core { k with serving := some (rq.cx, 19) } with focus := rq.core, cx := .svc }
      let t := u.writeSys i.toNat (v.setWidth 64)
      { t.setCore rq.core { t.core rq.core with serving := k.serving } with focus := s.focus, cx := s.cx }
  | .tess a => s.setCore rq.core { k with tess := portBytes k.tess Config.tessSize a v }
  | .acm a => s.setCore rq.core { k with acm := portBytes k.acm Config.acmSize a v }
  | .lintel a => s.setCore rq.core { k with lintel := portBytes k.lintel Config.lintelSize a v }
  | .claim => s

/-- The port claims, or gives up, the breakpoints of a gang, whether or not it is placed (R456). -/
def State.portClaim (s : State) (gang : Nat) (on : Bool) : State :=
  let s := if (s.gang gang).state = 0 then s else s.setGang gang { s.gang gang with claimed := on }
  (s.strandsOf gang).foldl (fun (s : State) m => s.setCtxAt m.1 m.2 { s.ctxAt m.1 m.2 with claimed := on }) s

/-- DEBUG_PORT_ACCESS (R456, R457): refused unless the port is open and the gang is stopped, but for a claim of its
breakpoints. -/
def execDebugPortAccess (gang : Nat) (rq : PortRequest) (s : State) : Out :=
  let mine := (s.gang gang).place.any (fun e => e.2 == some rq.core)
  if !s.portOpen then .next s
  else if rq.target = .claim ∧ rq.write then .next (s.portClaim gang (rq.value.getLsbD 0))
  else if (s.gang gang).state ≠ 8 ∨ !mine ∨ (rq.cx ≠ .svc ∧ (s.ctxAt rq.core rq.cx).gang ≠ gang) then .next s
  else if rq.write then .next (s.portWrite rq)
  else .next { s with dbgOut := s.dbgOut ++ [s.portRead rq] }

end Sys2Proof.Machine
end

