-- ==== Sys2Proof/Machine/Dispatch.lean ====
section
/-! DEFINITION. The meaning of every instruction: one arm for each row of spec/opcode_table.json. A slot word runs in the
context and issue latch that the state's focus names; a micro-operation in the focus core's routine; an event in the
whole part. -/

namespace Sys2Proof.Machine

/-- One instruction's effect on the part. -/
def exec (i : Instr) (s : State) : Host.Outcome State Fault Refusal :=
  match i with
  | .nop => Sys2Proof.Machine.execNop s
  | .add h d a b => Sys2Proof.Machine.execAdd h d a b s
  | .sub h d a b => Sys2Proof.Machine.execSub h d a b s
  | .and h d a b => Sys2Proof.Machine.execAnd h d a b s
  | .or h d a b => Sys2Proof.Machine.execOr h d a b s
  | .xor h d a b => Sys2Proof.Machine.execXor h d a b s
  | .andn h d a b => Sys2Proof.Machine.execAndn h d a b s
  | .shl h d a b => Sys2Proof.Machine.execShl h d a b s
  | .shr h d a b => Sys2Proof.Machine.execShr h d a b s
  | .sar h d a b => Sys2Proof.Machine.execSar h d a b s
  | .rol h d a b => Sys2Proof.Machine.execRol h d a b s
  | .mins h d a b => Sys2Proof.Machine.execMins h d a b s
  | .maxs h d a b => Sys2Proof.Machine.execMaxs h d a b s
  | .minu h d a b => Sys2Proof.Machine.execMinu h d a b s
  | .maxu h d a b => Sys2Proof.Machine.execMaxu h d a b s
  | .mul h d a b => Sys2Proof.Machine.execMul h d a b s
  | .mulhs h d a b => Sys2Proof.Machine.execMulhs h d a b s
  | .mulhu h d a b => Sys2Proof.Machine.execMulhu h d a b s
  | .divs h d a b => Sys2Proof.Machine.execDivs h d a b s
  | .divu h d a b => Sys2Proof.Machine.execDivu h d a b s
  | .rems h d a b => Sys2Proof.Machine.execRems h d a b s
  | .remu h d a b => Sys2Proof.Machine.execRemu h d a b s
  | .mov h d a => Sys2Proof.Machine.execMov h d a s
  | .clz h d a => Sys2Proof.Machine.execClz h d a s
  | .ctz h d a => Sys2Proof.Machine.execCtz h d a s
  | .popc h d a => Sys2Proof.Machine.execPopc h d a s
  | .brev h d a => Sys2Proof.Machine.execBrev h d a s
  | .sextb h d a => Sys2Proof.Machine.execSextb h d a s
  | .sexth h d a => Sys2Proof.Machine.execSexth h d a s
  | .sextw h d a => Sys2Proof.Machine.execSextw h d a s
  | .zextb h d a => Sys2Proof.Machine.execZextb h d a s
  | .zexth h d a => Sys2Proof.Machine.execZexth h d a s
  | .zextw h d a => Sys2Proof.Machine.execZextw h d a s
  | .lea h d a b sc => Sys2Proof.Machine.execLea h d a b sc s
  | .cmpEq h d a b => Sys2Proof.Machine.execCmpEq h d a b s
  | .cmpNe h d a b => Sys2Proof.Machine.execCmpNe h d a b s
  | .cmpLts h d a b => Sys2Proof.Machine.execCmpLts h d a b s
  | .cmpLtu h d a b => Sys2Proof.Machine.execCmpLtu h d a b s
  | .cmpLes h d a b => Sys2Proof.Machine.execCmpLes h d a b s
  | .cmpLeu h d a b => Sys2Proof.Machine.execCmpLeu h d a b s
  | .addi h d a imm => Sys2Proof.Machine.execAddi h d a imm s
  | .andi h d a imm => Sys2Proof.Machine.execAndi h d a imm s
  | .ori h d a imm => Sys2Proof.Machine.execOri h d a imm s
  | .xori h d a imm => Sys2Proof.Machine.execXori h d a imm s
  | .shli h d a imm => Sys2Proof.Machine.execShli h d a imm s
  | .shri h d a imm => Sys2Proof.Machine.execShri h d a imm s
  | .sari h d a imm => Sys2Proof.Machine.execSari h d a imm s
  | .cmpeqi h d a imm => Sys2Proof.Machine.execCmpeqi h d a imm s
  | .cmplti h d a imm => Sys2Proof.Machine.execCmplti h d a imm s
  | .cmpltui h d a imm => Sys2Proof.Machine.execCmpltui h d a imm s
  | .ldi h d imm => Sys2Proof.Machine.execLdi h d imm s
  | .lds h t a w o => Sys2Proof.Machine.execLds h t a w o s
  | .sts h t a w o => Sys2Proof.Machine.execSts h t a w o s
  | .pand h d a b => Sys2Proof.Machine.execPand h d a b s
  | .por h d a b => Sys2Proof.Machine.execPor h d a b s
  | .pxor h d a b => Sys2Proof.Machine.execPxor h d a b s
  | .pandn h d a b => Sys2Proof.Machine.execPandn h d a b s
  | .pnot h d a => Sys2Proof.Machine.execPnot h d a s
  | .pset h d => Sys2Proof.Machine.execPset h d s
  | .pclr h d => Sys2Proof.Machine.execPclr h d s
  | .pfrom h d a => Sys2Proof.Machine.execPfrom h d a s
  | .pcnt h d a => Sys2Proof.Machine.execPcnt h d a s
  | .pfirst h d a => Sys2Proof.Machine.execPfirst h d a s
  | .br h o => Sys2Proof.Machine.execBr h o s
  | .call h o => Sys2Proof.Machine.execCall h o s
  | .bri h a => Sys2Proof.Machine.execBri h a s
  | .calli h a => Sys2Proof.Machine.execCalli h a s
  | .ret h => Sys2Proof.Machine.execRet h s
  | .lset h d a => Sys2Proof.Machine.execLset h d a s
  | .lseti h d imm => Sys2Proof.Machine.execLseti h d imm s
  | .ltset h imm => Sys2Proof.Machine.execLtset h imm s
  | .loopf h c o => Sys2Proof.Machine.execLoopf h c o s
  | .loop h c o => Sys2Proof.Machine.execLoop h c o s
  | .movlrRead h d => Sys2Proof.Machine.execMovlrRead h d s
  | .movlrWrite h a => Sys2Proof.Machine.execMovlrWrite h a s
  | .vadd un h d a b t => Sys2Proof.Machine.execVadd un h d a b t s
  | .vsub un h d a b t => Sys2Proof.Machine.execVsub un h d a b t s
  | .vmul un h d a b t => Sys2Proof.Machine.execVmul un h d a b t s
  | .vmulhs un h d a b t => Sys2Proof.Machine.execVmulhs un h d a b t s
  | .vmulhu un h d a b t => Sys2Proof.Machine.execVmulhu un h d a b t s
  | .vand un h d a b t => Sys2Proof.Machine.execVand un h d a b t s
  | .vor un h d a b t => Sys2Proof.Machine.execVor un h d a b t s
  | .vxor un h d a b t => Sys2Proof.Machine.execVxor un h d a b t s
  | .vshl un h d a b t => Sys2Proof.Machine.execVshl un h d a b t s
  | .vshr un h d a b t => Sys2Proof.Machine.execVshr un h d a b t s
  | .vsar un h d a b t => Sys2Proof.Machine.execVsar un h d a b t s
  | .vmins un h d a b t => Sys2Proof.Machine.execVmins un h d a b t s
  | .vmaxs un h d a b t => Sys2Proof.Machine.execVmaxs un h d a b t s
  | .vminu un h d a b t => Sys2Proof.Machine.execVminu un h d a b t s
  | .vmaxu un h d a b t => Sys2Proof.Machine.execVmaxu un h d a b t s
  | .vabs _ h d a t => Sys2Proof.Machine.execVabs h d a t s
  | .vld un h t a b m => Sys2Proof.Machine.execVld un h t a b m s
  | .vcmpeq un h d a b t => Sys2Proof.Machine.execVcmpeq un h d a b t s
  | .vcmplts un h d a b t => Sys2Proof.Machine.execVcmplts un h d a b t s
  | .vcmpltu un h d a b t => Sys2Proof.Machine.execVcmpltu un h d a b t s
  | .vcmples un h d a b t => Sys2Proof.Machine.execVcmples un h d a b t s
  | .vsplat _ h d a t => Sys2Proof.Machine.execVsplat h d a t s
  | .vext _ h d a b t => Sys2Proof.Machine.execVext h d a b t s
  | .vfadd un h d a b t => Sys2Proof.Machine.execVfadd un h d a b t s
  | .vfsub un h d a b t => Sys2Proof.Machine.execVfsub un h d a b t s
  | .vfmul un h d a b t => Sys2Proof.Machine.execVfmul un h d a b t s
  | .vfma un h d a b t => Sys2Proof.Machine.execVfma un h d a b t s
  | .vfms un h d a b t => Sys2Proof.Machine.execVfms un h d a b t s
  | .vfnma un h d a b t => Sys2Proof.Machine.execVfnma un h d a b t s
  | .vfnms un h d a b t => Sys2Proof.Machine.execVfnms un h d a b t s
  | .vfmin un h d a b t => Sys2Proof.Machine.execVfmin un h d a b t s
  | .vfmax un h d a b t => Sys2Proof.Machine.execVfmax un h d a b t s
  | .vfabs _ h d a t => Sys2Proof.Machine.execVfabs h d a t s
  | .vfneg _ h d a t => Sys2Proof.Machine.execVfneg h d a t s
  | .vfcmpeq un h d a b t => Sys2Proof.Machine.execVfcmpeq un h d a b t s
  | .vfcmplt un h d a b t => Sys2Proof.Machine.execVfcmplt un h d a b t s
  | .vfcmple un h d a b t => Sys2Proof.Machine.execVfcmple un h d a b t s
  | .vfclass _ h d a t => Sys2Proof.Machine.execVfclass h d a t s
  | .viota _ h d t => Sys2Proof.Machine.execViota h d t s
  | .vcvt un h d a t f => Sys2Proof.Machine.execVcvt un h d a t f s
  | .vcvts un h d a t f => Sys2Proof.Machine.execVcvts un h d a t f s
  | .vpack un h d a b t => Sys2Proof.Machine.execVpack un h d a b t s
  | .vunpkl _ h d a t => Sys2Proof.Machine.execVunpkl h d a t s
  | .vunpkh _ h d a t => Sys2Proof.Machine.execVunpkh h d a t s
  | .vqnf un h d a b t => Sys2Proof.Machine.execVqnf un h d a b t s
  | .vdqnf un h d a b t => Sys2Proof.Machine.execVdqnf un h d a b t s
  | .vhash un h d a b => Sys2Proof.Machine.execVhash un h d a b s
  | .vrcp _ h d a => Sys2Proof.Machine.execVrcp h d a s
  | .vrsq _ h d a => Sys2Proof.Machine.execVrsq h d a s
  | .vsqrt _ h d a t => Sys2Proof.Machine.execVsqrt h d a t s
  | .vdiv un h d a b t => Sys2Proof.Machine.execVdiv un h d a b t s
  | .vexp2 _ h d a => Sys2Proof.Machine.execVexp2 h d a s
  | .vlog2 _ h d a => Sys2Proof.Machine.execVlog2 h d a s
  | .vsinpi _ h d a => Sys2Proof.Machine.execVsinpi h d a s
  | .vcospi _ h d a => Sys2Proof.Machine.execVcospi h d a s
  | .vtanh _ h d a => Sys2Proof.Machine.execVtanh h d a s
  | .vrsum _ h d a t => Sys2Proof.Machine.execVrsum h d a t s
  | .vrmax _ h d a t => Sys2Proof.Machine.execVrmax h d a t s
  | .vrmin _ h d a t => Sys2Proof.Machine.execVrmin h d a t s
  | .vramax _ h d a t => Sys2Proof.Machine.execVramax h d a t s
  | .vperm _ h d a b f => Sys2Proof.Machine.execVperm h d a b f s
  | .vxcl _ h d a b f => Sys2Proof.Machine.execVxcl h d a b f s
  | .vst un h t a b m => Sys2Proof.Machine.execVst un h t a b m s
  | .mcall h k imm p d => Sys2Proof.Machine.execMcall h k imm p d s
  | .mset h d a => Sys2Proof.Machine.execMset h d a s
  | .mseti h d imm => Sys2Proof.Machine.execMseti h d imm s
  | .mldr h d a b => Sys2Proof.Machine.execMldr h d a b s
  | .copy un h k a p d q c => Sys2Proof.Machine.execCopy un h k a p d q c s
  | .coll un h k a p d q c => Sys2Proof.Machine.execColl un h k a p d q c s
  | .rstrp un h k a p d q c => Sys2Proof.Machine.execRstrp un h k a p d q c s
  | .cryp un h k a p d q c => Sys2Proof.Machine.execCryp un h k a p d q c s
  | .kjoin un h k a p d q c => Sys2Proof.Machine.execKjoin un h k a p d q c s
  | .kcancel un h a => Sys2Proof.Machine.execKcancel un h a s
  | .kdetach un h a => Sys2Proof.Machine.execKdetach un h a s
  | .kprio un h a imm => Sys2Proof.Machine.execKprio un h a imm s
  | .kstat un h d a f => Sys2Proof.Machine.execKstat un h d a f s
  | .kack un h a => Sys2Proof.Machine.execKack un h a s
  | .ldr un h t a w o => Sys2Proof.Machine.execLdr un h t a w o s
  | .str un h t a w o => Sys2Proof.Machine.execStr un h t a w o s
  | .vldr un h t a b m => Sys2Proof.Machine.execVldr un h t a b m s
  | .vstr un h t a b m => Sys2Proof.Machine.execVstr un h t a b m s
  | .amow un h d a b f => Sys2Proof.Machine.execAmow un h d a b f s
  | .amod un h d a b f => Sys2Proof.Machine.execAmod un h d a b f s
  | .cas un h d a b f => Sys2Proof.Machine.execCas un h d a b f s
  | .famo un h d a b f => Sys2Proof.Machine.execFamo un h d a b f s
  | .lda un h t a sc o => Sys2Proof.Machine.execLda un h t a sc o s
  | .strl un h t a sc o => Sys2Proof.Machine.execStrl un h t a sc o s
  | .flip h => Sys2Proof.Machine.execFlip h s
  | .fence h sc m => Sys2Proof.Machine.execFence h sc m s
  | .kwait h a imm => Sys2Proof.Machine.execKwait h a imm s
  | .kwaitch h a c => Sys2Proof.Machine.execKwaitch h a c s
  | .hwaitf h a j => Sys2Proof.Machine.execHwaitf h a j s
  | .hwaite h a j => Sys2Proof.Machine.execHwaite h a j s
  | .hadvr h a j => Sys2Proof.Machine.execHadvr h a j s
  | .hadvw h a j => Sys2Proof.Machine.execHadvw h a j s
  | .hexpect h a j => Sys2Proof.Machine.execHexpect h a j s
  | .hptr h d w j => Sys2Proof.Machine.execHptr h d w j s
  | .bar h v => Sys2Proof.Machine.execBar h v s
  | .xlat h a sc => Sys2Proof.Machine.execXlat h a sc s
  | .xmov h d w => Sys2Proof.Machine.execXmov h d w s
  | .srd h d imm => Sys2Proof.Machine.execSrd h d imm s
  | .swr h d imm => Sys2Proof.Machine.execSwr h d imm s
  | .trap h imm => Sys2Proof.Machine.execTrap h imm s
  | .rett h => Sys2Proof.Machine.execRett h s
  | .hwin h a => Sys2Proof.Machine.execHwin h a s
  | .segb h => Sys2Proof.Machine.execSegb h s
  | .sege h a b => Sys2Proof.Machine.execSege h a b s
  | .iinv h sc => Sys2Proof.Machine.execIinv h sc s
  | .xregRd h d a f c k => Sys2Proof.Machine.execXregRd h d a f c k s
  | .xregWr h d a f c k => Sys2Proof.Machine.execXregWr h d a f c k s
  | .saveph h a c => Sys2Proof.Machine.execSaveph h a c s
  | .loadph h a c => Sys2Proof.Machine.execLoadph h a c s
  | .wait h a b f => Sys2Proof.Machine.execWait h a b f s
  | .signal h a b sc => Sys2Proof.Machine.execSignal h a b sc s
  | .pairset h a b r => Sys2Proof.Machine.execPairset h a b r s
  | .bkpt h imm => Sys2Proof.Machine.execBkpt h imm s
  | .halt h => Sys2Proof.Machine.execHalt h s
  | .pfx x y a b r w => Sys2Proof.Machine.execPfx x y a b r w s
  | .imx sc e => Sys2Proof.Machine.execImx sc e s
  | .mark c t => Sys2Proof.Machine.execMark c t s
  | .fmts mode af bf => Sys2Proof.Machine.execFmts mode af bf s
  | .afet pa pitch ord swz => Sys2Proof.Machine.execAfet pa pitch ord swz s
  | .bsel pb rofs srow ssrow => Sys2Proof.Machine.execBsel pb rofs srow ssrow s
  | .macs nr frow wb adv kv => Sys2Proof.Machine.execMacs nr frow wb adv kv s
  | .accz nr frow wb => Sys2Proof.Machine.execAccz nr frow wb s
  | .accl nr frow wb pa fx => Sys2Proof.Machine.execAccl nr frow wb pa fx s
  | .drn nr frow wb dst pa clr => Sys2Proof.Machine.execDrn nr frow wb dst pa clr s
  | .adptDown nr frow wb pi pt pd => Sys2Proof.Machine.execAdptDown nr frow wb pi pt pd s
  | .adptUp nr frow wb pi pt pd => Sys2Proof.Machine.execAdptUp nr frow wb pi pt pd s
  | .abftArm nr frow wb => Sys2Proof.Machine.execAbftArm nr frow wb s
  | .abftCheck nr frow wb => Sys2Proof.Machine.execAbftCheck nr frow wb s
  | .loopm lvl src pr cnt tgt => Sys2Proof.Machine.execLoopm lvl src pr cnt tgt s
  | .padd pd src ps imm => Sys2Proof.Machine.execPadd pd src ps imm s
  | .yld => Sys2Proof.Machine.execYld s
  | .hwtWaitf hod n => Sys2Proof.Machine.execHwtWaitf hod n s
  | .hwtAdvr hod n => Sys2Proof.Machine.execHwtAdvr hod n s
  | .hwtWaitb hod => Sys2Proof.Machine.execHwtWaitb hod s
  | .endOp => Sys2Proof.Machine.execEndOp s
  | .mwrite m => Sys2Proof.Machine.execMwrite m s
  | .mread m => Sys2Proof.Machine.execMread m s
  | .ingress m => Sys2Proof.Machine.execIngress m s
  | .claim m => Sys2Proof.Machine.execClaim m s
  | .deadlineRaise m => Sys2Proof.Machine.execDeadlineRaise m s
  | .deadlineExpire m => Sys2Proof.Machine.execDeadlineExpire m s
  | .fanswerMapped m => Sys2Proof.Machine.execFanswerMapped m s
  | .fanswerNone m => Sys2Proof.Machine.execFanswerNone m s
  | .dread m => Sys2Proof.Machine.execDread m s
  | .fmap m => Sys2Proof.Machine.execFmap m s
  | .fwload m => Sys2Proof.Machine.execFwload m s
  | .fwgo m => Sys2Proof.Machine.execFwgo m s
  | .tenantSet m => Sys2Proof.Machine.execTenantSet m s
  | .tenantClr m => Sys2Proof.Machine.execTenantClr m s
  | .keyload m => Sys2Proof.Machine.execKeyload m s
  | .keyfree m => Sys2Proof.Machine.execKeyfree m s
  | .unlockChal m => Sys2Proof.Machine.execUnlockChal m s
  | .unlock m => Sys2Proof.Machine.execUnlock m s
  | .quote m => Sys2Proof.Machine.execQuote m s
  | .extend m => Sys2Proof.Machine.execExtend m s
  | .lcsAdvance m => Sys2Proof.Machine.execLcsAdvance m s
  | .nodeset m => Sys2Proof.Machine.execNodeset m s
  | .heldBundleRelease core cx => Sys2Proof.Machine.execHeldBundleRelease core cx s
  | .flipComplete core cx => Sys2Proof.Machine.execFlipComplete core cx s
  | .pwqLand core cx k => Sys2Proof.Machine.execPwqLand core cx k s
  | .secbndBubble core => Sys2Proof.Machine.execSecbndBubble core s
  | .secondaryAccessGrant core => Sys2Proof.Machine.execSecondaryAccessGrant core s
  | .barRelease core cx => Sys2Proof.Machine.execBarRelease core cx s
  | .waitTimeout core cx => Sys2Proof.Machine.execWaitTimeout core cx s
  | .accessPerform core k => Sys2Proof.Machine.execAccessPerform core k s
  | .writeNoticeApply die k => Sys2Proof.Machine.execWriteNoticeApply die k s
  | .xlatWalkComplete core cx => Sys2Proof.Machine.execXlatWalkComplete core cx s
  | .pageWalkPark core cx => Sys2Proof.Machine.execPageWalkPark core cx s
  | .trapEntry core cx => Sys2Proof.Machine.execTrapEntry core cx s
  | .refetchDone core cx => Sys2Proof.Machine.execRefetchDone core cx s
  | .phaseReplay core cx => Sys2Proof.Machine.execPhaseReplay core cx s
  | .preemptRequest gang => Sys2Proof.Machine.execPreemptRequest gang s
  | .gangResume gang => Sys2Proof.Machine.execGangResume gang s
  | .opStart core ch => Sys2Proof.Machine.execOpStart core ch s
  | .copyLineGrant core => Sys2Proof.Machine.execCopyLineGrant core s
  | .collStep core => Sys2Proof.Machine.execCollStep core s
  | .restripeLineMove core => Sys2Proof.Machine.execRestripeLineMove core s
  | .cryptoOperation core => Sys2Proof.Machine.execCryptoOperation core s
  | .kjoinComplete core ch => Sys2Proof.Machine.execKjoinComplete core ch s
  | .adapterFetchComplete core => Sys2Proof.Machine.execAdapterFetchComplete core s
  | .hcfgCreate hod v => Sys2Proof.Machine.execHcfgCreate hod v s
  | .hcfgDestroy hod v => Sys2Proof.Machine.execHcfgDestroy hod v s
  | .mxcfgWrite v => Sys2Proof.Machine.execMxcfgWrite v s
  | .intpWrite v => Sys2Proof.Machine.execIntpWrite v s
  | .trrbWrite v => Sys2Proof.Machine.execTrrbWrite v s
  | .dtqWrite ten v => Sys2Proof.Machine.execDtqWrite ten v s
  | .rclsWrite cls v => Sys2Proof.Machine.execRclsWrite cls v s
  | .queueScan ten => Sys2Proof.Machine.execQueueScan ten s
  | .launchSelect => Sys2Proof.Machine.execLaunchSelect s
  | .gangPlace gang => Sys2Proof.Machine.execGangPlace gang s
  | .fabricGangStart gang => Sys2Proof.Machine.execFabricGangStart gang s
  | .alarmExpire core => Sys2Proof.Machine.execAlarmExpire core s
  | .tenantQueueServe q => Sys2Proof.Machine.execTenantQueueServe q s
  | .tileSpare die tile => Sys2Proof.Machine.execTileSpare die tile s
  | .dieSwitch die => Sys2Proof.Machine.execDieSwitch die s
  | .dieLost die => Sys2Proof.Machine.execDieLost die s
  | .flitReceive port flit => Sys2Proof.Machine.execFlitReceive port flit s
  | .laneSpare port lane => Sys2Proof.Machine.execLaneSpare port lane s
  | .ucieLane module lane => Sys2Proof.Machine.execUcieLane module lane s
  | .debugStop gang => Sys2Proof.Machine.execDebugStop gang s
  | .debugPortAccess gang rq => Sys2Proof.Machine.execDebugPortAccess gang rq s
  | .traceSample core => Sys2Proof.Machine.execTraceSample core s
  | .scrubLine bed => Sys2Proof.Machine.execScrubLine bed s
  | .ppr stack row => Sys2Proof.Machine.execPpr stack row s
  | .chanSpare stack ch => Sys2Proof.Machine.execChanSpare stack ch s
  | .pageRetire frame => Sys2Proof.Machine.execPageRetire frame s
  | .voltRestore die => Sys2Proof.Machine.execVoltRestore die s
  | .remeasurementEnd die => Sys2Proof.Machine.execRemeasurementEnd die s
  | .dvfsEvaluation => Sys2Proof.Machine.execDvfsEvaluation s
  | .thermalTrip temp => Sys2Proof.Machine.execThermalTrip temp s
  | .railFault rail => Sys2Proof.Machine.execRailFault rail s
  | .powerUp => Sys2Proof.Machine.execPowerUp s
  | .runtimeQueueRiAdvance ten ri => Sys2Proof.Machine.execRuntimeQueueRiAdvance ten ri s
  | .fabricPartRejected gang => Sys2Proof.Machine.execFabricPartRejected gang s
  | .undervoltExcursion die start => Sys2Proof.Machine.execUndervoltExcursion die start s

end Sys2Proof.Machine
end

