-- ==== Sys2Proof/Machine/Issue.lean ====
section
/-! DEFINITION. Bundle issue: which context of a core is next, what holds its bundle, fetching and checking it, the order
in which its slots take effect, and what a bundle that has issued leaves (01 R40 to R51, 02 R57 to R80, 03 R106, 10 R236,
11 R259 to R262, 18 R367 to R372, R387, 19 R399, 25 R450 to R455). -/

namespace Sys2Proof.Machine

/-! ### What a bundle's instructions are -/

/-- The slots of a bundle in slot order (R57). -/
def slotList : List Slot := [.s, .v0, .v1, .m, .c0, .c1, .x, .p]

/-- The physical destination registers that an instruction's encoding names, whatever its guard (R35); key 0, s0, is no
destination (R14). -/
def Ctx.dests (x : Ctx) : Instr → List Nat
  | .add _ d _ _ => [keyS d.toNat]
  | .sub _ d _ _ => [keyS d.toNat]
  | .and _ d _ _ => [keyS d.toNat]
  | .or _ d _ _ => [keyS d.toNat]
  | .xor _ d _ _ => [keyS d.toNat]
  | .andn _ d _ _ => [keyS d.toNat]
  | .shl _ d _ _ => [keyS d.toNat]
  | .shr _ d _ _ => [keyS d.toNat]
  | .sar _ d _ _ => [keyS d.toNat]
  | .rol _ d _ _ => [keyS d.toNat]
  | .mins _ d _ _ => [keyS d.toNat]
  | .maxs _ d _ _ => [keyS d.toNat]
  | .minu _ d _ _ => [keyS d.toNat]
  | .maxu _ d _ _ => [keyS d.toNat]
  | .mul _ d _ _ => [keyS d.toNat]
  | .mulhs _ d _ _ => [keyS d.toNat]
  | .mulhu _ d _ _ => [keyS d.toNat]
  | .divs _ d _ _ => [keyS d.toNat]
  | .divu _ d _ _ => [keyS d.toNat]
  | .rems _ d _ _ => [keyS d.toNat]
  | .remu _ d _ _ => [keyS d.toNat]
  | .mov _ d _ => [keyS d.toNat]
  | .clz _ d _ => [keyS d.toNat]
  | .ctz _ d _ => [keyS d.toNat]
  | .popc _ d _ => [keyS d.toNat]
  | .brev _ d _ => [keyS d.toNat]
  | .sextb _ d _ => [keyS d.toNat]
  | .sexth _ d _ => [keyS d.toNat]
  | .sextw _ d _ => [keyS d.toNat]
  | .zextb _ d _ => [keyS d.toNat]
  | .zexth _ d _ => [keyS d.toNat]
  | .zextw _ d _ => [keyS d.toNat]
  | .lea _ d _ _ _ => [keyS d.toNat]
  | .cmpEq _ d _ _ => [x.keyP d.toNat]
  | .cmpNe _ d _ _ => [x.keyP d.toNat]
  | .cmpLts _ d _ _ => [x.keyP d.toNat]
  | .cmpLtu _ d _ _ => [x.keyP d.toNat]
  | .cmpLes _ d _ _ => [x.keyP d.toNat]
  | .cmpLeu _ d _ _ => [x.keyP d.toNat]
  | .addi _ d _ _ => [keyS d.toNat]
  | .andi _ d _ _ => [keyS d.toNat]
  | .ori _ d _ _ => [keyS d.toNat]
  | .xori _ d _ _ => [keyS d.toNat]
  | .shli _ d _ _ => [keyS d.toNat]
  | .shri _ d _ _ => [keyS d.toNat]
  | .sari _ d _ _ => [keyS d.toNat]
  | .cmpeqi _ d _ _ => [x.keyP d.toNat]
  | .cmplti _ d _ _ => [x.keyP d.toNat]
  | .cmpltui _ d _ _ => [x.keyP d.toNat]
  | .ldi _ d _ => [keyS d.toNat]
  | .lds _ d _ _ _ => [keyS d.toNat]
  | .pand _ d _ _ => [x.keyP d.toNat]
  | .por _ d _ _ => [x.keyP d.toNat]
  | .pxor _ d _ _ => [x.keyP d.toNat]
  | .pandn _ d _ _ => [x.keyP d.toNat]
  | .pnot _ d _ => [x.keyP d.toNat]
  | .pset _ d => [x.keyP d.toNat]
  | .pclr _ d => [x.keyP d.toNat]
  | .pfrom _ d _ => [x.keyP d.toNat]
  | .pcnt _ d _ => [keyS d.toNat]
  | .pfirst _ d _ => [keyS d.toNat]
  | .lset _ d _ => [keyLc d.toNat]
  | .lseti _ d _ => [keyLc d.toNat]
  | .loopf _ c _ => keyLc c.toNat :: (if x.rot then [x.stageKey] else [])
  | .loop _ c _ => [keyLc c.toNat]
  | .movlrRead _ d => [keyS d.toNat]
  | .vadd _ _ d _ _ _ => [x.keyV d.toNat]
  | .vsub _ _ d _ _ _ => [x.keyV d.toNat]
  | .vmul _ _ d _ _ _ => [x.keyV d.toNat]
  | .vmulhs _ _ d _ _ _ => [x.keyV d.toNat]
  | .vmulhu _ _ d _ _ _ => [x.keyV d.toNat]
  | .vand _ _ d _ _ _ => [x.keyV d.toNat]
  | .vor _ _ d _ _ _ => [x.keyV d.toNat]
  | .vxor _ _ d _ _ _ => [x.keyV d.toNat]
  | .vshl _ _ d _ _ _ => [x.keyV d.toNat]
  | .vshr _ _ d _ _ _ => [x.keyV d.toNat]
  | .vsar _ _ d _ _ _ => [x.keyV d.toNat]
  | .vmins _ _ d _ _ _ => [x.keyV d.toNat]
  | .vmaxs _ _ d _ _ _ => [x.keyV d.toNat]
  | .vminu _ _ d _ _ _ => [x.keyV d.toNat]
  | .vmaxu _ _ d _ _ _ => [x.keyV d.toNat]
  | .vabs _ _ d _ _ => [x.keyV d.toNat]
  | .vld _ _ d _ _ _ => [x.keyV d.toNat]
  | .vcmpeq _ _ d _ _ _ => [x.keyP d.toNat]
  | .vcmplts _ _ d _ _ _ => [x.keyP d.toNat]
  | .vcmpltu _ _ d _ _ _ => [x.keyP d.toNat]
  | .vcmples _ _ d _ _ _ => [x.keyP d.toNat]
  | .vsplat _ _ d _ _ => [x.keyV d.toNat]
  | .vext _ _ d _ _ _ => [keyS d.toNat]
  | .vfadd _ _ d _ _ _ => [x.keyV d.toNat]
  | .vfsub _ _ d _ _ _ => [x.keyV d.toNat]
  | .vfmul _ _ d _ _ _ => [x.keyV d.toNat]
  | .vfma _ _ d _ _ _ => [x.keyV d.toNat]
  | .vfms _ _ d _ _ _ => [x.keyV d.toNat]
  | .vfnma _ _ d _ _ _ => [x.keyV d.toNat]
  | .vfnms _ _ d _ _ _ => [x.keyV d.toNat]
  | .vfmin _ _ d _ _ _ => [x.keyV d.toNat]
  | .vfmax _ _ d _ _ _ => [x.keyV d.toNat]
  | .vfabs _ _ d _ _ => [x.keyV d.toNat]
  | .vfneg _ _ d _ _ => [x.keyV d.toNat]
  | .vfcmpeq _ _ d _ _ _ => [x.keyP d.toNat]
  | .vfcmplt _ _ d _ _ _ => [x.keyP d.toNat]
  | .vfcmple _ _ d _ _ _ => [x.keyP d.toNat]
  | .vfclass _ _ d _ _ => [x.keyV d.toNat]
  | .viota _ _ d _ => [x.keyV d.toNat]
  | .vcvt _ _ d _ _ _ => [x.keyV d.toNat]
  | .vcvts _ _ d _ _ _ => [x.keyV d.toNat]
  | .vpack _ _ d _ _ _ => [x.keyV d.toNat]
  | .vunpkl _ _ d _ _ => [x.keyV d.toNat]
  | .vunpkh _ _ d _ _ => [x.keyV d.toNat]
  | .vqnf _ _ d _ _ _ => [x.keyV d.toNat]
  | .vdqnf _ _ d _ _ _ => [x.keyV d.toNat]
  | .vhash _ _ d _ _ => [x.keyV d.toNat]
  | .vrcp _ _ d _ => [x.keyV d.toNat]
  | .vrsq _ _ d _ => [x.keyV d.toNat]
  | .vsqrt _ _ d _ _ => [x.keyV d.toNat]
  | .vdiv _ _ d _ _ _ => [x.keyV d.toNat]
  | .vexp2 _ _ d _ => [x.keyV d.toNat]
  | .vlog2 _ _ d _ => [x.keyV d.toNat]
  | .vsinpi _ _ d _ => [x.keyV d.toNat]
  | .vcospi _ _ d _ => [x.keyV d.toNat]
  | .vtanh _ _ d _ => [x.keyV d.toNat]
  | .vrsum _ _ d _ _ => [x.keyV d.toNat]
  | .vrmax _ _ d _ _ => [x.keyV d.toNat]
  | .vrmin _ _ d _ _ => [x.keyV d.toNat]
  | .vramax _ _ d _ _ => [x.keyV d.toNat]
  | .vperm _ _ d _ _ _ => [x.keyV d.toNat]
  | .vxcl _ _ d _ _ _ => [x.keyV d.toNat]
  | .mcall _ d _ _ _ => [keyK d.toNat]
  | .mset _ d _ => [keyM d.toNat]
  | .mseti _ d _ => [keyM d.toNat]
  | .copy _ _ d _ _ _ _ _ => [keyK d.toNat]
  | .coll _ _ d _ _ _ _ _ => [keyK d.toNat]
  | .rstrp _ _ d _ _ _ _ _ => [keyK d.toNat]
  | .cryp _ _ d _ _ _ _ _ => [keyK d.toNat]
  | .kjoin _ _ d _ _ _ _ _ => [keyK d.toNat]
  | .kstat _ _ d _ _ => [keyS d.toNat]
  | .ldr _ _ d _ _ _ => [keyS d.toNat]
  | .vldr _ _ d _ _ _ => [x.keyV d.toNat]
  | .amow _ _ d _ _ _ => [keyS d.toNat]
  | .amod _ _ d _ _ _ => [keyS d.toNat]
  | .cas _ _ d _ _ _ => [keyS d.toNat]
  | .famo _ _ d _ _ _ => [keyS d.toNat]
  | .lda _ _ d _ _ _ => [keyS d.toNat]
  | .hptr _ d _ _ => [keyS d.toNat]
  | .xmov _ d _ => [keyS d.toNat]
  | .srd _ d _ => [keyS d.toNat]
  | .xregRd _ d _ _ _ _ => [keyS d.toNat]
  | _ => []

/-- The instruction accepts a rounding other than RNE (R74). -/
def takesRounding : Instr → Bool
  | .vfadd _ _ _ _ _ _ => true
  | .vfsub _ _ _ _ _ _ => true
  | .vfmul _ _ _ _ _ _ => true
  | .vfma _ _ _ _ _ _ => true
  | .vfms _ _ _ _ _ _ => true
  | .vfnma _ _ _ _ _ _ => true
  | .vfnms _ _ _ _ _ _ => true
  | .vcvt _ _ _ _ _ _ => true
  | .vcvts _ _ _ _ _ _ => true
  | .vpack _ _ _ _ _ _ => true
  | .vqnf _ _ _ _ _ _ => true
  | _ => false

/-- The B field of an instruction of two vectors (R66, R74). -/
def vectorB : Instr → Option (BitVec 5)
  | .vadd _ _ _ _ b _ => some b
  | .vsub _ _ _ _ b _ => some b
  | .vmul _ _ _ _ b _ => some b
  | .vmulhs _ _ _ _ b _ => some b
  | .vmulhu _ _ _ _ b _ => some b
  | .vand _ _ _ _ b _ => some b
  | .vor _ _ _ _ b _ => some b
  | .vxor _ _ _ _ b _ => some b
  | .vshl _ _ _ _ b _ => some b
  | .vshr _ _ _ _ b _ => some b
  | .vsar _ _ _ _ b _ => some b
  | .vmins _ _ _ _ b _ => some b
  | .vmaxs _ _ _ _ b _ => some b
  | .vminu _ _ _ _ b _ => some b
  | .vmaxu _ _ _ _ b _ => some b
  | .vcmpeq _ _ _ _ b _ => some b
  | .vcmplts _ _ _ _ b _ => some b
  | .vcmpltu _ _ _ _ b _ => some b
  | .vcmples _ _ _ _ b _ => some b
  | .vfadd _ _ _ _ b _ => some b
  | .vfsub _ _ _ _ b _ => some b
  | .vfmul _ _ _ _ b _ => some b
  | .vfma _ _ _ _ b _ => some b
  | .vfms _ _ _ _ b _ => some b
  | .vfnma _ _ _ _ b _ => some b
  | .vfnms _ _ _ _ b _ => some b
  | .vfmin _ _ _ _ b _ => some b
  | .vfmax _ _ _ _ b _ => some b
  | .vfcmpeq _ _ _ _ b _ => some b
  | .vfcmplt _ _ _ _ b _ => some b
  | .vfcmple _ _ _ _ b _ => some b
  | .vpack _ _ _ _ b _ => some b
  | .vqnf _ _ _ _ b _ => some b
  | .vdqnf _ _ _ _ b _ => some b
  | .vhash _ _ _ _ b => some b
  | .vdiv _ _ _ _ b _ => some b
  | .vperm _ _ _ _ b _ => some b
  | .vxcl _ _ _ _ b _ => some b
  | _ => none

/-- The B field of an instruction that the row latch may stand in for (R144; TY 2 and 6 are the 32-bit types). -/
def latchField : Instr → Option (BitVec 5)
  | .vadd _ _ _ _ b t => if t = 2 then some b else none
  | .vsub _ _ _ _ b t => if t = 2 then some b else none
  | .vmul _ _ _ _ b t => if t = 2 then some b else none
  | .vmulhs _ _ _ _ b t => if t = 2 then some b else none
  | .vmulhu _ _ _ _ b t => if t = 2 then some b else none
  | .vand _ _ _ _ b t => if t = 2 then some b else none
  | .vor _ _ _ _ b t => if t = 2 then some b else none
  | .vxor _ _ _ _ b t => if t = 2 then some b else none
  | .vshl _ _ _ _ b t => if t = 2 then some b else none
  | .vshr _ _ _ _ b t => if t = 2 then some b else none
  | .vsar _ _ _ _ b t => if t = 2 then some b else none
  | .vmins _ _ _ _ b t => if t = 2 then some b else none
  | .vmaxs _ _ _ _ b t => if t = 2 then some b else none
  | .vminu _ _ _ _ b t => if t = 2 then some b else none
  | .vmaxu _ _ _ _ b t => if t = 2 then some b else none
  | .vcmpeq _ _ _ _ b t => if t = 2 then some b else none
  | .vcmplts _ _ _ _ b t => if t = 2 then some b else none
  | .vcmpltu _ _ _ _ b t => if t = 2 then some b else none
  | .vcmples _ _ _ _ b t => if t = 2 then some b else none
  | .vfadd _ _ _ _ b t => if t = 6 then some b else none
  | .vfsub _ _ _ _ b t => if t = 6 then some b else none
  | .vfmul _ _ _ _ b t => if t = 6 then some b else none
  | .vfma _ _ _ _ b t => if t = 6 then some b else none
  | .vfms _ _ _ _ b t => if t = 6 then some b else none
  | .vfnma _ _ _ _ b t => if t = 6 then some b else none
  | .vfnms _ _ _ _ b t => if t = 6 then some b else none
  | .vfmin _ _ _ _ b t => if t = 6 then some b else none
  | .vfmax _ _ _ _ b t => if t = 6 then some b else none
  | .vfcmpeq _ _ _ _ b t => if t = 6 then some b else none
  | .vfcmplt _ _ _ _ b t => if t = 6 then some b else none
  | .vfcmple _ _ _ _ b t => if t = 6 then some b else none
  | .vdiv _ _ _ _ b t => if t = 0 then some b else none
  | .vqnf _ _ _ _ b t => if t = 6 then some b else none
  | .vdqnf _ _ _ _ b t => if t = 6 then some b else none
  | .vhash _ _ _ _ b => some b
  | _ => none

/-- The instruction has a field that IMX extends (R75). -/
def takesImx : Instr → Bool
  | .addi _ _ _ _ => true
  | .andi _ _ _ _ => true
  | .ori _ _ _ _ => true
  | .xori _ _ _ _ => true
  | .cmpeqi _ _ _ _ => true
  | .cmplti _ _ _ _ => true
  | .cmpltui _ _ _ _ => true
  | .ldi _ _ _ => true
  | .mseti _ _ _ => true
  | .lseti _ _ _ => true
  | .trap _ _ => true
  | .bkpt _ _ => true
  | .lds _ _ _ _ _ => true
  | .sts _ _ _ _ _ => true
  | .ldr _ _ _ _ _ _ => true
  | .str _ _ _ _ _ _ => true
  | .lda _ _ _ _ _ _ => true
  | .strl _ _ _ _ _ _ => true
  | .br _ _ => true
  | .call _ _ => true
  | .loopf _ _ _ => true
  | .loop _ _ _ => true
  | .kwait _ _ _ => true
  | _ => false

/-- A transfer of control (R78). -/
def branches : Instr → Bool
  | .br _ _ => true
  | .call _ _ => true
  | .bri _ _ => true
  | .calli _ _ => true
  | .ret _ => true
  | .loop _ _ _ => true
  | .loopf _ _ _ => true
  | _ => false

/-- TRAP, RETT or HALT (R78). -/
def endsBundle : Instr → Bool
  | .trap _ _ => true
  | .rett _ => true
  | .halt _ => true
  | _ => false

/-- The FENCE class of an instruction as a mask bit: LD 1, ST 2, AMO 4, KOP 8, HOD 16 (R261, R348, R349). -/
def fenceClass : Instr → Nat
  | .lds _ _ _ _ _ => 1
  | .vld _ _ _ _ _ _ => 1
  | .ldr _ _ _ _ _ _ => 1
  | .vldr _ _ _ _ _ _ => 1
  | .lda _ _ _ _ _ _ => 1
  | .wait _ _ _ _ => 1
  | .sts _ _ _ _ _ => 2
  | .vst _ _ _ _ _ _ => 2
  | .str _ _ _ _ _ _ => 2
  | .vstr _ _ _ _ _ _ => 2
  | .strl _ _ _ _ _ _ => 2
  | .amow _ _ _ _ _ _ => 4
  | .amod _ _ _ _ _ _ => 4
  | .cas _ _ _ _ _ _ => 4
  | .famo _ _ _ _ _ _ => 4
  | .copy _ _ _ _ _ _ _ _ => 8
  | .coll _ _ _ _ _ _ _ _ => 8
  | .rstrp _ _ _ _ _ _ _ _ => 8
  | .cryp _ _ _ _ _ _ _ _ => 8
  | .kjoin _ _ _ _ _ _ _ _ => 8
  | .mcall _ _ _ _ _ => 8
  | .hadvr _ _ _ => 16
  | .hadvw _ _ _ => 16
  | .hexpect _ _ _ => 16
  | .signal _ _ _ _ => 16
  | _ => 0

/-- An access to memory outside R261's first four classes (R259). -/
def touchesMemory : Instr → Bool
  | .hwin _ _ => true
  | .mldr _ _ _ _ => true
  | .saveph _ _ _ => true
  | .loadph _ _ _ => true
  | .signal _ _ _ _ => true
  | _ => false

/-- A result of variable latency, which takes a queue entry whatever its LAND (R26, R29, R254, R343). -/
def variableLatency : Instr → Bool
  | .ldr _ _ _ _ _ _ => true
  | .vldr _ _ _ _ _ _ => true
  | .amow _ _ _ _ _ _ => true
  | .amod _ _ _ _ _ _ => true
  | .cas _ _ _ _ _ _ => true
  | .famo _ _ _ _ _ _ => true
  | .lda _ _ _ _ _ _ => true
  | .kstat _ _ _ _ _ => true
  | _ => false

/-- The turn in which an instruction takes effect in its bundle, so that every slot reads registers and memory as they
stood before it (R16, R41, R80): reads of other registers, then of records of operations, then everything that is no
own-memory store, then those stores, then writes of single-faced registers; HALT and RETT come last (R342, R395, R401). A write of a
single-faced register by an SWR so prevails over what another slot of its bundle does to it: PHS.DW set by a double write,
and TAIL written by LTSET (log entry 102). -/
def rank : Instr → Nat
  | .srd _ _ _ => 0
  | .xmov _ _ _ => 0
  | .hptr _ _ _ _ => 0
  | .xregRd _ _ _ _ _ _ => 0
  | .kstat _ _ _ _ _ => 1
  | .sts _ _ _ _ _ => 3
  | .vst _ _ _ _ _ _ => 3
  | .hwin _ _ => 3
  | .saveph _ _ _ => 3
  | .swr _ _ _ => 4
  | .pairset _ _ _ _ => 4
  | .xregWr _ _ _ _ _ _ => 4
  | .segb _ => 4
  | .sege _ _ _ => 4
  | .iinv _ _ => 4
  | .trap _ _ => 4
  | .bkpt _ _ => 4
  | .halt _ => 5
  | .rett _ => 5
  | _ => 2

/-! ### Checks of the whole bundle (R71, R77, R78) -/

/-- What the eight words are in their slots (R57, R77). -/
def decodeBundle (ws : List Word32) : List (Except Reject Instr) := List.zipWith decodeSlot slotList ws

/-- A decoded word, or NOP in place of one that is no instruction. -/
def orNop : Except Reject Instr → Instr
  | .ok i => i
  | .error _ => .nop

/-- The instructions of a bundle, NOP in empty slots. -/
def bundleOf (ds : List (Except Reject Instr)) : List Instr := ds.map orNop

/-- Slot `n` of a bundle. -/
def slotOf (is : List Instr) (n : Nat) : Instr := (is[n]?).getD .nop

/-- A PFX word sets the LAT bit of vector slot 1 or 2 (R73). -/
def latBit (ws : List Word32) (n : Nat) : Bool :=
  let p := ((ws[7]?).getD 0).toNat
  decide (p / 2 ^ 26 = 1) && (if n = 1 then p / 2 ^ 19 % 2 == 1 else if n = 2 then p / 2 ^ 18 % 2 == 1 else false)

/-- PFX rounds a vector slot otherwise than RNE (R73). -/
def rmSet (is : List Instr) (n : Nat) : Bool :=
  match slotOf is 7 with
  | .pfx x y _ _ _ _ => if n = 1 then x != 0 else if n = 2 then y != 0 else false
  | _ => false

/-- The instruction issues only in SVC (R71). -/
def needsSvc : Instr → Bool
  | .rett _ => true
  | .xregRd _ _ _ _ _ _ => true
  | .xregWr _ _ _ _ _ _ => true
  | .saveph _ _ _ => true
  | .loadph _ _ _ => true
  | _ => false

/-- The instruction issues only on a control core (R69). -/
def needsControl : Instr → Bool
  | .cryp _ _ _ _ _ _ _ _ => true
  | _ => false

/-- The field of an IMX aimed at the S slot. -/
def imxAtS (is : List Instr) : Nat :=
  match slotOf is 7 with
  | .imx t e => if t = 0 then e.toNat else 0
  | _ => 0

/-- An instruction that its own rule makes illegal for the core and context in focus: R71's restrictions, CRYP outside the
control cores (R69), an index that is not assigned (R389), an LSETI above 32 bits (R108). -/
def State.illegalHere (s : State) (is : List Instr) (i : Instr) : Bool :=
  (needsSvc i && s.cx != .svc) || (needsControl i && !isControl s.focus)
    || (match i with
        | .bar _ _ => s.cx == .svc
        | .srd _ _ j => (s.sysReg j.toNat).isNone
        | .swr _ _ j => (s.sysReg j.toNat).isNone
        | .lseti _ _ v => decide (0xFFFFFFFF < imxAtS is * 8192 + v.toNat)
        | _ => false)

/-- A C-slot access whose register is a vector: SVC has no vector file (R13, R374). -/
def usesVectors : Instr → Bool
  | .vldr _ _ _ _ _ _ => true
  | .vstr _ _ _ _ _ _ => true
  | _ => false

/-- Slot `n` of a bundle raises ILLEGAL_INSTR for the context in focus (R13, R69, R71, R74, R77, R391). -/
def State.illegalAt (s : State) (ws : List Word32) (ds : List (Except Reject Instr)) (is : List Instr) (n : Nat) : Bool :=
  match ds[n]? with
  | some (.ok i) =>
    ((s.cx == .svc && (n == 1 || n == 2 || n == 3 || usesVectors i) || isControl s.focus && n == 3) && i != .nop)
      || (latBit ws n && (match vectorB i with | some b => b != 0 | none => false))
      || s.illegalHere is i
  | _ => true

/-- A bundle raises ILLEGAL_BUNDLE (R35, R74, R75, R78, R144). -/
def badBundle (x : Ctx) (ws : List Word32) (is : List Instr) : Bool :=
  let ds := (is.flatMap x.dests).filter (fun d => d != 0)
  let flips := is.any (fun i => match i with | .flip _ => true | _ => false)
  let loops := is.any (fun i => match i with | .loopf _ _ _ => true | _ => false)
  !decide ds.Nodup || (flips && loops) || (is.any branches && is.any endsBundle)
    || [1, 2].any (fun n => rmSet is n && !takesRounding (slotOf is n))
    || [1, 2].any (fun n => latBit ws n && (latchField (slotOf is n)).isNone)
    || (match slotOf is 7 with
        | .imx t _ => !takesImx (slotOf is t.toNat)
        | _ => false)

/-- The occupancy mask of a bundle: the slots that are not empty (R46, R58). -/
def occupancy (ws : List Word32) : Nat := (ws.mapIdx (fun i w => if w = 0 then 0 else 2 ^ i)).foldl (· ||| ·) 0

/-! ### Which context is next (R46, R367) -/

/-- The gang of the context may run: it runs, or is on its way to a stop. A control core runs once firmware has started
(R391, R440). -/
def State.gangRuns (s : State) (c : Nat) (cx : CtxId) : Bool :=
  let g := (s.gang (s.ctxAt c cx).gang).state
  (if isControl c then s.booted else g == 3 || g == 4 || g == 11)

/-- The context issues bundles: SVC while it serves a trap, a full context while it holds a strand that has not
trapped, is not parked (R378), and neither it nor a peer of its gang is stopped by the port (R135, R367, R456). -/
def State.runs (s : State) (c : Nat) (cx : CtxId) : Bool :=
  let k := s.core c
  let x := k.ctx cx
  !x.trapped && !x.stopped &&
    (match cx with
      | .svc => k.serving.isSome && s.gangRuns c k.servedId
      | _ => s.holds c cx && s.gangRuns c cx && !k.parked.contains cx && !s.portHeld x.gang)

/-- The contexts of a core in the order in which they issue within one cycle: the primary's role first (R46). -/
def Core.roles (k : Core) : List CtxId := [k.primary, .svc, otherCtx k.primary]

/-- Of the contexts that issue bundles, the one whose next bundle stands in the earliest cycle. -/
def State.pick (s : State) (c : Nat) : Option CtxId :=
  ((s.core c).roles.filter (s.runs c)).foldl (fun (b : Option CtxId) cx => match b with
    | none => some cx
    | some y => if (s.ctxAt c cx).clock < (s.ctxAt c y).clock then some cx else b) none

/-! ### Fetch (R40, R106, R236, R399) -/

/-- The fetch lies in the locked window at a valid entry (R232, R236). -/
def State.inLocked (s : State) (v : Nat) : Bool :=
  let x := s.strand
  let g := pageBytes x.lttGran.toNat
  let w := x.lttBase.toNat * 2 ^ 28
  x.lttEn && decide (w ≤ v) && decide (v < w + 4096 * g) && (Tbl.get {} s.kore.ltt ((v - w) / g)).w0.getLsbD 0

/-- How a fetch ends. -/
inductive Fetched where
  | words (ws : List Word32)
  /-- held behind an XLAT in flight -/
  | held
  /-- not mapped executable -/
  | unmapped
  /-- the memory refuses the line, or has lost it -/
  | lost
deriving DecidableEq, Repr

/-- The eight words of a bundle. -/
def wordsOf (b : BitVec 256) : List Word32 := (List.range 8).map (fun i => (b >>> (32 * i)).setWidth 32)

/-- The context in focus fetches the bundle at its PC. The instruction cache may answer with what it holds until an
IINV drops it; what it holds is this core's own last fetch of the same bundle (R399). -/
def State.fetch (s : State) : State × Fetched :=
  let x := s.me
  let v := x.pc.toNat
  if x.walk.isSome && !s.inLocked v then (s, .held)
  else match s.translate s.focus s.cx v 4 with
    | .error _ => (s, .unmapped)
    | .ok (pa, plc) =>
      if isBell pa then (s, .unmapped)
      else
        let fill := fun (s : State) =>
          let s := s.setKore (s.kore.count 15 (some s.cx) 1)
          let (s, l) := if isControl s.focus then s.homeReadW 8 none (pa / 64) plc
            else s.dieRead (dieOf s.focus) s.strand.gang s.strand.gtile (s.tenOf s.focus s.cx) (pa / 64) plc x.must
          match l with
          | none => (s, Fetched.lost)
          | some l =>
            let b : BitVec 256 := BitVec.ofNat 256 (l.data / 256 ^ (pa % 64))
            (s.setKore { s.kore with icache := Tbl.set none s.kore.icache (pa / 32) (some b) }, Fetched.words (wordsOf b))
        -- R424: a parity error has the line fetched again, and no trap results
        let spoilt := s.kore.badIc.contains (pa / 32)
        let s := if !spoilt then s
          else s.setKore (({ s.kore with icache := Tbl.set none s.kore.icache (pa / 32) none,
                                         badIc := s.kore.badIc.filter (· != pa / 32) } : Core).countErr 1)
        match Tbl.get none s.kore.icache (pa / 32) with
        | some b => if Config.icacheKeeps (pa / 32) x.bundles then (s, .words (wordsOf b)) else fill s
        | none => fill s

/-! ### What holds a bundle before its slots are looked at (R22, R40, R132, R260, R399) -/

/-- The context in focus waits for something that an earlier bundle began: the hold reason of R450. -/
def State.earlierHold (s : State) : Option Nat :=
  let x := s.me
  if x.owed.isSome then some 1
  else if s.kore.delayed.any (fun d => d.cx == s.cx && d.refetch) then some 12
  else if x.barWait.isSome then some 5
  else if !x.iinv.isEmpty then some 11
  else none

/-- The element width that the lanes of a vector instruction's result follow (R37, R140); none for any other instruction. -/
def State.laneWidth (s : State) : Instr → Option Nat
  | .vadd _ _ _ _ _ t | .vsub _ _ _ _ _ t | .vmul _ _ _ _ _ t | .vmulhs _ _ _ _ _ t | .vmulhu _ _ _ _ _ t
  | .vand _ _ _ _ _ t | .vor _ _ _ _ _ t | .vxor _ _ _ _ _ t | .vshl _ _ _ _ _ t | .vshr _ _ _ _ _ t
  | .vsar _ _ _ _ _ t | .vmins _ _ _ _ _ t | .vmaxs _ _ _ _ _ t | .vminu _ _ _ _ _ t | .vmaxu _ _ _ _ _ t
  | .vcmpeq _ _ _ _ _ t | .vcmplts _ _ _ _ _ t | .vcmpltu _ _ _ _ _ t | .vcmples _ _ _ _ _ t
  | .vabs _ _ _ _ t | .vsplat _ _ _ _ t | .vfabs _ _ _ _ t | .vfneg _ _ _ _ t | .viota _ _ _ t
  | .vrsum _ _ _ _ t | .vrmax _ _ _ _ t | .vrmin _ _ _ _ t | .vramax _ _ _ _ t => some (tyWidth t.toNat)
  | .vfadd _ _ _ _ _ t | .vfsub _ _ _ _ _ t | .vfmul _ _ _ _ _ t | .vfma _ _ _ _ _ t | .vfms _ _ _ _ _ t
  | .vfnma _ _ _ _ _ t | .vfnms _ _ _ _ _ t | .vfmin _ _ _ _ _ t | .vfmax _ _ _ _ _ t | .vfcmpeq _ _ _ _ _ t
  | .vfcmplt _ _ _ _ _ t | .vfcmple _ _ _ _ _ t | .vfclass _ _ _ _ t => some (tyFmt t.toNat).width
  | .vpack _ _ _ _ _ t | .vunpkl _ _ _ _ t | .vunpkh _ _ _ _ t => some (2 * halfCount (tyWidth t.toNat) * tyWidth t.toNat)
  | .vcvt _ _ _ _ t f | .vcvts _ _ _ _ t f => some (max (width4 (s.fmt4 t.toNat)) (width4 (s.fmt4 f.toNat)))
  | .vsqrt _ _ _ _ t | .vdiv _ _ _ _ _ t => some (sqrtFmt t).width
  | .vperm _ _ _ _ _ f | .vxcl _ _ _ _ _ f => some (if f = 0 then 32 else 64)
  | .vqnf _ _ _ _ _ _ | .vdqnf _ _ _ _ _ _ | .vhash _ _ _ _ _ | .vrcp _ _ _ _ | .vrsq _ _ _ _ | .vexp2 _ _ _ _
  | .vlog2 _ _ _ _ | .vsinpi _ _ _ _ | .vcospi _ _ _ _ | .vtanh _ _ _ _ => some 32
  | _ => none

/-- An instruction whose word is `w` is on: a memory access by lanes needs a lane that is active and takes part, VEXT its
element's lane, another vector instruction an active lane of its elements' width, and any other its guard (R36, R37, R140,
R163). -/
def State.slotOn (s : State) (w : Word32) (i : Instr) : Bool :=
  match i with
  | .vld _ h _ _ _ m => partOf m false (s.lanes h) != 0
  | .vst _ h _ _ _ m => partOf m true (s.lanes h) != 0
  | .vldr _ h _ _ _ m => partOf m false (s.lanes h) != 0
  | .vstr _ h _ _ _ m => partOf m true (s.lanes h) != 0
  | .vext _ h _ _ b t => (s.lanes h).getLsbD (s.extLane b t)
  | i => match s.laneWidth i with
    | some n => elLanes n (s.lanes (hdrOf w)) != 0
    | none => s.guardOn (hdrOf w)

/-- The instructions of the bundle whose guards are on, with their words. -/
def State.onSlots (s : State) (ws : List Word32) (is : List Instr) : List (Word32 × Instr) :=
  (ws.zip is).take 7 |>.filter (fun e => e.2 != .nop && s.slotOn e.1 e.2)

/-- A result of an instruction is of variable latency here: KSTAT's only when its token names another core (R343). -/
def State.varies (s : State) (i : Instr) : Bool :=
  match i with
  | .kstat _ _ _ a _ => (match s.tokCore s.focus s.strand.gang (s.me.k a.toNat) with
      | some c => c != s.focus
      | none => false)
  | i => variableLatency i

/-- Entries of the pending-write queue that the bundle needs (R26). -/
def State.entries (s : State) (on : List (Word32 × Instr)) : Nat :=
  (on.filter (fun e => (s.me.dests e.2).any (fun d => d != 0) && (s.varies e.2 || (hdrOf e.1).land != 0))).length

/-- A bundle of the context in focus is held by the queue, by an earlier LDA, or by a FENCE (R26, R259, R260). -/
def State.bundleHold (s : State) (on : List (Word32 × Instr)) : Option Nat :=
  let cls := on.foldl (fun a e => a ||| fenceClass e.2) 0
  let mem := on.any (fun e => touchesMemory e.2 || (fenceClass e.2 != 0 && fenceClass e.2 != 16))
  let need := s.entries on
  if need ≠ 0 ∧ Config.pwqDepth < s.me.pwq.length + need then some 2
  else if mem && s.kore.ldaOpen s.cx then some 6
  else if s.me.fences.any (fun f => f.2.1.toNat &&& cls != 0) then some 6
  else none

/-! ### The slots (R41, R42, R79) -/

/-- One slot instruction is executed: the state, and how it came out. No slot instruction faults or is refused. -/
def State.tryOne (s : State) (i : Instr) : State × Verdict :=
  match exec i s with
  | .next t => (t, t.iss.out)
  | _ => (s, .issued)

/-- The trap found first by R79's order: least step, then least slot. -/
def leastTrap : List (State × Verdict) → Option (State × Nat)
  | [] => none
  | (t, v) :: rest =>
    let r := leastTrap rest
    match v with
    | .trapped st _ _ _ => (match r with
      | some (u, n) => if n < st then some (u, n) else some (t, st)
      | none => some (t, st))
    | _ => r

/-- The first hold among the slots: its reason, and the state that names its bound. -/
def firstHold : List (State × Verdict) → Option (Nat × State)
  | [] => none
  | (t, v) :: rest =>
    match v with
    | .held r => some (r, t)
    | _ => firstHold rest

/-- Instructions in the order in which they take effect (R41, R80). -/
def inOrder (is : List Instr) : List Instr :=
  [0, 1, 2, 3, 4, 5].flatMap (fun r => is.filter (fun i => rank i == r))

/-- Instructions take effect one after another; a hold or a trap that only one of them meets after the others ends it. -/
def State.runAll (s : State) : List Instr → State × Verdict
  | [] => (s, .issued)
  | i :: rest =>
    match s.tryOne i with
    | (t, .issued) => t.runAll rest
    | r => r

/-- HALT is judged after the other slots of its bundle (R342, R401). -/
def isHalt : Instr → Bool
  | .halt _ => true
  | _ => false

/-- Every slot of the bundle in focus is judged on the state before it; HALT on the state the others leave. -/
def State.judge (s : State) (is : List Instr) : List (State × Verdict) :=
  is.map (fun i =>
    if isHalt i && s.cx != .svc then
      let others := (inOrder (is.filter (fun j => !isHalt j))).foldl (fun (u : State) j =>
        match u.tryOne j with
        | (t, .issued) => t
        | _ => u) s
      match others.tryOne i with
      | (_, .trapped st slot code info) => (s.trap code slot info s.me.pc true, .trapped st slot code info)
      | r => r
    else s.tryOne i)

/-! ### The bundle has issued (R22, R32, R40, R387) -/

/-- The running signature of a segment takes in one bundle (R387). -/
def segNext (sig : BitVec 32) (pc : Word64) (ws : List Word32) (taken : Bool) : BitVec 32 :=
  let bytes := natToBytes 8 pc.toNat ++ ws.flatMap (fun w => natToBytes 4 w.toNat) ++ natToBytes 1 taken.toNat
  BitVec.ofNat 32 ((bytes.foldl (fun c b => crcByte c b.toNat) (sig.toNat ^^^ 0xFFFFFFFF)) ^^^ 0xFFFFFFFF)

/-- The context after its bundle: what R32, R40 and R387 count, the owed flip, and the place of the next bundle.
`open_` says that a segment was open before the bundle. -/
def Ctx.issued (x : Ctx) (l : Latch) (open_ : Bool) : Ctx :=
  let counts := open_ && !l.seg
  { x with
    last := { pc := x.pc, at_ := x.clock, phn := x.phn },
    segCnt := if counts then x.segCnt + 1 else x.segCnt,
    segSig := if counts then segNext x.segSig x.pc l.words l.taken else x.segSig,
    pc := l.next.getD (x.pc + 32),
    stamp := x.stamp + 1, bundles := x.bundles + 1, clock := x.clock + 1,
    esc := x.esc || l.esc, owed := l.flip,
    holding := false, held := 0, waited := 0, skipped := 0, bound := none }

/-- The core after one of its bundles: the latch entry it read is gone (R144), and the stream's record of R46 and R48
is kept. -/
def Core.issued (k : Core) (cx : CtxId) (mask now : Nat) (latUsed : Bool) : Core :=
  let k := { k with latch := if latUsed then k.latch.drop 1 else k.latch }
  let k := k.count 2 (some cx) 1
  if k.isPrimary cx then { k with primMask := mask, primAt := now } else { k with starve := 0 }

/-- The run of cycles in which the context `x` in focus did not issue is over: while interlock trace is armed it is
written as one record, with the reason of its first cycle (R451). -/
def State.traceRun (s : State) (x : Ctx) : State :=
  s.traceHold s.focus s.cx (if 0 < x.skipped then 1 else x.why) (x.held + x.skipped)

/-- The bundle in focus has issued: its slots have taken effect in `s`. `b` is its context before the bundle. -/
def State.commit (s : State) (b : Ctx) : State :=
  let l := s.iss
  let c := s.focus
  let cx := s.cx
  let x := s.me
  let now := x.clock
  let s := s.traceRun x
  let s := match l.mark with
    | some (e, tag) => s.traceMark c cx b e tag
    | none => s
  let y := s.me.issued l (b.sega && cx != CtxId.svc)
  let k := (s.kore.setCtx cx y).issued cx (occupancy l.words) now l.latUsed
  let s := (s.setKore (k.advance cx)).tryBar c cx
  match l.svc with
  | some code => s.trap 17 7 code s.me.pc false
  | none => s

/-! ### One attempt (R40, R46, R48, R371, R382) -/

/-- The secondary's bundle is ready and does not issue beside the primary's; N such cycles make a bubble (R46, R48). -/
def State.blocked (s : State) (c : Nat) (cx : CtxId) : State :=
  let k := s.core c
  let n := k.starve + 1
  let k := if k.secbnd ≠ 0 ∧ k.secbnd.toNat ≤ n then { k with starve := 0, bubble := true } else { k with starve := n }
  (s.setCore c k).markHeld c cx 9 none

/-- An instruction of the P slot tells the bundle's latch its fields (R72 to R76). -/
def State.prefixed (s : State) (i : Instr) : State := (s.tryOne i).1

/-- Own-tessera lines that a held read met are to be filled again; its bundle tries again after that (R380). -/
def State.beginRefetch (s : State) (lines : List Nat) : State :=
  let k := s.kore
  let x := s.me
  let d : Delayed := { id := k.nextId, cx := s.cx, store := false, acm := false, refetch := true, banks := [], pc := x.pc,
                       bundle := x.bundles, orig := x.clock, since := x.clock, lat := 0,
                       pieces := lines.map (fun l => ⟨.tess s.focus (64 * l), 0, 64⟩) }
  s.setKore { k with delayed := k.delayed ++ [d], nextId := k.nextId + 1 }

/-- The bundle holds an MLDR that faults at its first three steps, which no hold comes before (R190). -/
def State.mldrBars (s : State) (is : List Instr) : Bool :=
  is.any (fun i => match i with
    | .mldr h d a b => s.guardOn h && (s.mldrFault d a b).isSome
    | _ => false)

/-- A hold found at the slots: an MLDR that begins to copy says when it may issue (R190), and a read whose lines are to be
filled again has that begun (R380). -/
def State.slotHold (s : State) (r : Nat) (t : State) : State :=
  let s := match t.iss.mldr with
    | some n => s.setKore { s.kore with mldrAt := some (s.cx, n) }
    | none => s
  let s := if t.iss.refetch.isEmpty then s else s.beginRefetch t.iss.refetch
  s.markHeld s.focus s.cx r t.iss.bound

/-- The slots of a bundle that passes checks 1 and 2: its instructions `is`, without the P slot and NOPs, are judged,
and the bundle is held, traps, is blocked, or issues whole (R40, R42, R79). A trap of checks 1 and 2 goes before a hold,
and so does any trap of a bundle whose MLDR faults before every hold (R190). A trap of the later checks is raised once no
hold is left, in the secondary too, whether or not the primary's bundle bars its own from the cycle (log entry 130). What an
interlock asks of its bundle is judged on the state before the bundle, so an MCALL beside a SWR of MXCFG does not hold it
(R41, R183, log entry 131). -/
def State.issueSlots (s : State) (is : List Instr) : State :=
  let vs := s.judge is
  match leastTrap vs, firstHold vs with
  | some (t, st), some (r, u) => if st ≤ 2 || s.mldrBars is then t.traceRun s.me else s.slotHold r u
  | some (t, _), none => t.traceRun s.me
  | none, some (r, u) => s.slotHold r u
  | none, none =>
    let k := s.kore
    if !k.isPrimary s.cx && k.primAt == s.me.clock && (k.primMask &&& occupancy s.iss.words) != 0 then
      s.blocked s.focus s.cx
    else
      let u := s.setIss { s.iss with judged := true, before := some s.kore.tess }
      match u.runAll (inOrder is) with
      | (t, .issued) => t.commit s.me
      | (t, .held r) => s.slotHold r t
      | (t, _) => t.traceRun s.me

/-- A fetched bundle of the context in focus: checks 1 and 2 of R79, the holds of R26, R259 and R260, then its slots. -/
def State.issueBundle (s : State) (ws : List Word32) : State :=
  let ds := decodeBundle ws
  let is := bundleOf ds
  match (List.range 8).find? (s.illegalAt ws ds is) with
  | some n => (s.trap 1 n (((ws[n]?).getD 0).setWidth 64) s.me.pc true).traceRun s.me
  | none =>
    if badBundle s.me ws is then (s.trap 2 7 0 s.me.pc true).traceRun s.me
    else
      let s := { s with iss := { words := ws } }
      let s := match slotOf is 7 with
        | .nop => s
        | i => s.prefixed i
      let slots := (is.take 7).filter (fun i => i != .nop)
      let on := s.onSlots ws is
      let s := s.setIss { s.iss with spare := some (Config.pwqDepth - s.me.pwq.length - s.entries on) }
      match s.bundleHold on with
      | some r => if s.mldrBars slots then s.issueSlots slots else s.markHeld s.focus s.cx r none
      | none => s.issueSlots slots

/-- The FENCEs of the context in focus that are over leave it, with what they order (R260, R286). -/
def State.dropFences (s : State) : State :=
  let x := s.me
  if x.fences.isEmpty then s
  else
    let past := x.fences.filter (s.fenceOver s.focus s.cx)
    let y := past.foldl (fun (y : Ctx) f => y.fenced f.1.toNat f.2.1 s.strand.gang s.strand.gtile) x
    s.setMe { y with fences := x.fences.filter (fun f => !s.fenceOver s.focus s.cx f) }

/-- The context in focus, at a boundary with no trap pending, tries its next bundle. -/
def State.tryBundle (s : State) : State :=
  match s.earlierHold with
  | some r => s.markHeld s.focus s.cx r (if s.me.barWait.isSome && r == 5 then s.lim else none)
  | none =>
    match s.fetch with
    | (s, .held) => s.markHeld s.focus s.cx 3 none
    | (s, .unmapped) => (s.trap 4 7 s.me.pc s.me.pc true).traceRun s.me
    | (s, .lost) => s.setMe { s.me with asyncs := s.me.asyncs ++ [{ code := 13 }] }
    | (s, .words ws) => s.dropFences.issueBundle ws

/-- What is pending at the boundary of the context in focus (R368, R371, R382): an error to be replayed, a trap to be
taken, or in SVC an asynchronous fault, which is an SVC fault; none when its next bundle may try. -/
def State.atBoundary (s : State) : Option State :=
  let x := s.me
  if (x.transient || x.resid) && s.cx = .svc then some (s.replay s.focus s.cx)
  else if s.cx = .svc then
    (match x.firstAsync with
      | some a => some (s.svcFault a.code)
      | none => none)
  else if x.transient || x.resid then some (s.replay s.focus s.cx)
  else match s.boundary s.focus s.cx with
    | (t, true) => some t
    | (_, false) => none

/-- The primary's cycle that R48 leaves empty. -/
def State.inBubble (s : State) : Bool :=
  let k := s.kore
  k.bubble && k.isPrimary s.cx && k.primAt + 1 == s.me.clock

/-- The context in focus at the start of a cycle of its own: its boundary, then its bundle. -/
def State.boundaryOrBundle (s : State) : State :=
  match s.atBoundary with
  | some t => t.traceRun s.me
  | none =>
    if s.inBubble then (s.setKore { s.kore with bubble := false }).markHeld s.focus s.cx 9 none
    else
      let s := if s.kore.bubble && s.kore.isPrimary s.cx then s.setKore { s.kore with bubble := false } else s
      s.tryBundle

/-- The context in focus tries its next bundle. What it waited for may have come first: its owed flip may complete, and
then its next bundle stands in a later cycle (R22). -/
def State.attempt (s : State) : State :=
  let t := (s.setKore (s.kore.advance s.cx)).tryBar s.focus s.cx
  let t := t.tryIinv s.focus s.cx
  if t.me.clock = s.me.clock then t.boundaryOrBundle else t

/-- A value written to PRIM takes effect once every context that issues stands in a later cycle than its write (R49). -/
def State.takePrim (s : State) (c : Nat) : State :=
  match (s.core c).primSet, s.pick c with
  | some (_, t), some cx => if t < (s.ctxAt c cx).clock then s.setCore c (s.core c).settlePrim else s
  | _, _ => s

/-- The contexts of a core move: delayed accesses whose turn has come, then the context whose next bundle comes first
tries it (R46, R47). The trace unit and the counters keep up with them (R449, R450, R453). -/
def State.issueCore (s : State) (c : Nat) : State :=
  let s := (s.portStops (s.ctxAt c .cb0).gang).portStops (s.ctxAt c .cb1).gang
  let s := s.grantDue c (s.core c).delayed.length
  let s := (s.takePrim c).traced c
  match s.pick c with
  | none => s
  | some cx => (({ s with focus := c, cx := cx, iss := {} } : State).attempt).traced c

/-- The matrix array of a core executes the micro-operation at its routine's word (R188, R193). -/
def State.issueMicro (s : State) (c : Nat) : Out :=
  let s := { s with focus := c }
  match s.mxRun with
  | none => .next s
  | some (_, r) =>
    let (s, bad) := s.storeRead r.word
    if bad then (match s.mxRun with
      | some (o, _) => s.mxFault o (4 + 256 * 6)
      | none => .next s)
    else match decodeUop (Tbl.get 0 s.kore.store r.word) with
    | .ok i => exec i s
    | .error _ => .next s

/-! ### Whoever moves next -/

/-- Nothing on the core can issue before something else happens: every context that runs is held. -/
def State.allHeld (s : State) (c : Nat) : Bool :=
  (s.core c).roles.all (fun cx => !s.runs c cx || (s.ctxAt c cx).holding)

/-- The `n`-th engine or wait of a core makes its next step, if it has one. -/
def State.engineStep (s : State) (c n : Nat) : Out :=
  match n with
  | 0 => execXlatWalkComplete c .cb0 s
  | 1 => execXlatWalkComplete c .cb1 s
  | 2 => execXlatWalkComplete c .svc s
  | 3 => execPageWalkPark c .cb0 s
  | 4 => execPageWalkPark c .cb1 s
  | 5 => execAccessPerform c 0 s
  | 6 => execWriteNoticeApply (dieOf c) 0 s
  | 7 => execCopyLineGrant c s
  | 8 => execCollStep c s
  | 9 => execRestripeLineMove c s
  | 10 => execCryptoOperation c s
  | 11 => execAdapterFetchComplete c s
  | 12 => s.issueMicro c
  | 13 => execRefetchDone c .cb0 s
  | 14 => execRefetchDone c .cb1 s
  | 15 => execTrapEntry c .cb0 s
  | 16 => execTrapEntry c .cb1 s
  | 17 => execBarRelease c .cb0 s
  | 18 => execBarRelease c .cb1 s
  | n => if n < 27 then execOpStart c (n - 19) s else execKjoinComplete c (n - 27) s

/-- One round of a core's engines and waits, and then its contexts again: the order of moves while the agenda names none
(log entry 44). -/
def roundOf (c : Nat) : List Action := (List.range 35).map (Action.engine c) ++ [.core c]

/-- An instruction that moves by itself: an event, a host message or a control command. -/
def isMove (i : Instr) : Bool :=
  match i.source with
  | .slot _ => false
  | .routine => false
  | _ => true

/-- A move of the part's own leaves the core and context in focus where they were. -/
def refocus (s : State) : Out → Out
  | .next t => .next { t with focus := s.focus, cx := s.cx }
  | o => o

/-- The bytes of a host message come in: a TYPE that R417 does not list draws NACK 7, or NACK 3 before firmware runs (R417,
R436). Fewer bytes than a header are no message. -/
def State.received (s : State) (bs : List Byte) : Out :=
  match decodeMsg bs with
  | .ok i => exec i s
  | .error _ => if bs.length < 32 then .next s else s.nack (hostMsgOf bs) (if s.booted then 7 else 3)

/-- The bytes of a control command come in: a CMD that R436 does not list is MALFORMED. Fewer bytes than a header are no
command. -/
def State.commanded (s : State) (bs : List Byte) : Out :=
  match decodeCmd bs with
  | .ok i => exec i s
  | .error _ => if bs.length < 16 then .next s else s.replyTo (hostCmdOf bs) stMalformed []

/-- An action of the agenda is carried out. A slot instruction moves only in its bundle and a micro-operation only in
its routine; a part without power does nothing but power up (R464). The focus moves to a core only when its contexts
move. -/
def State.act (s : State) (a : Action) : Out :=
  match a with
  | .core c => if s.powered && decide (c < Config.allCores) then .next { s.issueCore c with focus := c } else .next s
  | .micro c => if s.powered && decide (c < Config.allCores) then refocus s (s.issueMicro c) else .next s
  | .engine c n => if s.powered && decide (c < Config.allCores) then refocus s (s.engineStep c n) else .next s
  | .event i => if isMove i && (s.powered || i == .powerUp) then refocus s (exec i s) else .next s
  | .message bs => if s.powered then refocus s (s.received bs) else .next s
  | .command bs => if s.powered then refocus s (s.commanded bs) else .next s

end Sys2Proof.Machine
end

