-- ==== Sys2Proof/Machine/Place.lean ====
section
/-! DEFINITION. Putting one instruction where the part fetches next: the launch of a strand, or the running of a control
core's firmware or of a trap handler, reduced to what the fetch needs (log entry 45). -/

namespace Sys2Proof.Machine

/-- The slot number of a slot (R57). -/
def slotNum : Slot → Nat
  | .s => 0
  | .v0 => 1
  | .v1 => 2
  | .m => 3
  | .c0 => 4
  | .c1 => 5
  | .x => 6
  | .p => 7

/-- The context holds a strand that may issue its next bundle, or stands trapped under SVC. -/
def Ctx.standing (x : Ctx) (gang : Nat) (trapped : Bool) : Ctx :=
  { x with gang := gang, halted := false, stopped := false, trapped := trapped, dueTrap := none, owed := none,
           barWait := none, fences := [], iinv := [], walk := none, asyncs := [], preempt := false, pageFault := none,
           transient := false, holding := false, lttEn := false,
           dyn := if gang = 0 then x.dyn else
             Tbl.set {} x.dyn 0 { v := true, base := x.pc.toNat / 65536 * 65536, size := 65536, pa := 0, perm := 7 } }

/-- The physical address of the bundle at a PC: a tile core's page lies at physical address 0; a control core uses
physical addresses. -/
def bundleAt (c : Nat) (pc : Word64) : Nat := if isControl c then pc.toNat else pc.toNat % 65536

/-- One bundle is stored where a core fetches it, and no copy of its line is left. -/
def State.putBundle (s : State) (c pa : Nat) (ws : List Word32) : State :=
  let s := { s with mem := Mem.setBytes s.mem pa (ws.flatMap (fun (w : Word32) => natToBytes 4 w.toNat)) }
  let s := s.setCore c { s.core c with icache := [] }
  if isControl c then s
  else s.setDie (dieOf c) { s.die (dieOf c) with lines := Tbl.set none (s.die (dieOf c)).lines (pa / 64) none }

/-- The gang of one strand on a core, and the frame its page lies in. -/
def State.oneGang (s : State) (c : Nat) : State :=
  let s := s.setGang 1 { s.gang 1 with state := 3, place := Tbl.set none (s.gang 1).place 0 (some c), unhalted := 1 }
  let t := s.tenant (s.gang 1).ten
  s.setTenant (s.gang 1).ten { t with frames := (0, 1) :: t.frames }

/-- The instruction of the table is placed. -/
def State.placed (s : State) (nbits w : Nat) : State :=
  let word : Word32 := BitVec.ofNat 32 (if nbits ≤ 32 then w else 0)
  let (sl, i) := (firstSlot word tableSlots).getD (.s, .nop)
  let c := if needsControl i then 768 else 0
  let cx : CtxId := if needsSvc i then .svc else .cb0
  let ws := (List.replicate 8 (0 : Word32)).set (slotNum sl) word
  let g := if isControl c then 0 else 1
  let s := if isControl c then { s with booted := true } else s.oneGang c
  let k := s.core c
  let k := { k with cb0 := k.cb0.standing g (decide (cx = CtxId.svc)), delayed := [], parked := [], bubble := false, intm := 0 }
  let k := if cx = CtxId.svc then
      { k with serving := some (.cb0, 16), svc := { k.svc with trapped := false, stopped := false, owed := none, asyncs := [] } }
    else { k with serving := none }
  let s := s.setCore c k
  let s := s.putBundle c (bundleAt c (k.ctx cx).pc) ws
  { s with focus := c, cx := cx, agenda := [], powered := true }

end Sys2Proof.Machine
end

