-- ==== Sys2Proof/Machine/Step.lean ====
section
/-! DEFINITION. One step of the part, and the state in which a given instruction is the next one that step runs. -/

namespace Sys2Proof.Machine

/-- One step: the next action of the agenda. While the agenda names none, the contexts of the core in focus move, or,
when every one of them is held, one round of that core's engines is named (log entry 44). The one fault is a focus on no
core. -/
def step (s : State) : Host.Outcome State Fault Refusal :=
  if Config.allCores ≤ s.focus then .fault .noSuchCore
  else match s.agenda with
    | a :: rest => ({ s with agenda := rest } : State).act a
    | [] => if s.allHeld s.focus then .next { s with agenda := roundOf s.focus } else s.act (.core s.focus)

/-- The state with an instruction of the opcode table as the next one that `step` runs: its word in its slot of a bundle
at the PC of a context that may issue it, every other slot empty (log entry 45). -/
def State.withFetchWord (s : State) (nbits w : Nat) : State := s.placed nbits w

end Sys2Proof.Machine
end

