-- ==== Sys2Proof/Safety.lean ====
section
/-! DEFINITION. The terms in which claims are made: a step that goes on, an instruction that issues, what an instruction
leaves unchanged (its frame), and the state predicates that every step keeps. -/

namespace Sys2Proof.Safety

open Sys2Proof.Machine

/-- The focus names a core of the part, so that no step of it ends in the one fault (R2, R391). -/
def InPart (s : State) : Prop := s.focus < Config.allCores

/-- The memories of the part outside its cores are in canonical form. -/
def MemoryOk (s : State) : Prop :=
  Mem.wf s.mem = true ∧ Mem.wf s.hostMem = true ∧ Mem.wf s.image = true

/-- The slot instruction issues: `exec` answers `t`, and no check of R79 and no hold of R40 has stopped it. -/
def Issues (i : Instr) (s t : State) : Prop := exec i s = .next t ∧ t.iss.out = .issued

/-- Every byte of every memory reads as before. -/
structure KeepsMemory (s t : State) : Prop where
  device : ∀ a, Mem.byte t.mem a = Mem.byte s.mem a
  host   : ∀ a, Mem.byte t.hostMem a = Mem.byte s.hostMem a
  tess   : ∀ c a, Mem.byte (t.core c).tess a = Mem.byte (s.core c).tess a
  acm    : ∀ c a, Mem.byte (t.core c).acm a = Mem.byte (s.core c).acm a
  lintel : ∀ c a, Mem.byte (t.core c).lintel a = Mem.byte (s.core c).lintel a

/-- Nothing outside the core in focus changes but the issue latch: no other core, gang, tenant, queue, die, counter or
unit of the part. -/
structure KeepsPart (s t : State) : Prop where
  cores : ∀ c, c ≠ s.focus → t.core c = s.core c
  part  : { t with cores := s.cores, iss := s.iss } = s

/-- Of the core in focus, nothing changes but the context in focus. -/
structure KeepsCore (s t : State) : Prop extends KeepsPart s t where
  core : t.kore.setCtx s.cx s.me = s.kore

/-- The frame of an instruction that writes two-faced registers and nothing else: every other register keeps both faces
and its bits, and of the context only the registers, the pending-write queue, DW and the ready cycle of the phase may
change (R17 to R35). -/
structure WritesOnly (keys : List Nat) (s t : State) : Prop extends KeepsCore s t where
  memory  : KeepsMemory s t
  regs    : ∀ key, key ∉ keys → t.me.two key = s.me.two key
  context : { t.me with regs := s.me.regs, pwq := s.me.pwq, dw := s.me.dw, ready := s.me.ready } = s.me

/-- The frame of an instruction that changes the context in focus in the fields that `f` puts back, and nothing else:
registers, queue, other fields and every memory stay as they were. -/
structure ChangesOnly (f : Ctx → Ctx → Ctx) (s t : State) : Prop extends KeepsCore s t where
  memory  : KeepsMemory s t
  context : f s.me t.me = s.me

/-- A result may be written: the pending-write queue has room for the entry it needs, and with PHCTL.DWT set it meets no
other write due in its phase (R26, R34); a write to s0 needs neither (R14). -/
def Room (s : State) (key : Nat) (entry : Bool) (land : Nat) : Prop :=
  key = 0 ∨ ((entry = true → s.me.pwq.length < Config.pwqDepth) ∧ ¬ (s.me.dwt = true ∧ s.me.collides key land = true))

/-- The register takes a fixed-latency result (R14, R18, R25 to R28, R33, R37, R45): nothing for s0; with LAND 0 the
hidden face, now due at the flip, while the visible face stays; with LAND n a queue entry that lands n flips on, and the
register itself stays. -/
structure TakesResult (key : Nat) (v : Vec) (lanes : Pred) (land lat : Nat) (s t : State) : Prop where
  zero   : key = 0 → t.me = s.me
  now    : key ≠ 0 → land = 0 →
    (t.me.two key).hid = (if s.me.overtaken key s.me.stamp then (s.me.two key).hid else mergeFor key lanes v (s.me.two key).vis)
      ∧ (t.me.two key).vis = (s.me.two key).vis ∧ (t.me.two key).w = true
      ∧ t.me.pwq = s.me.pwq ∧ t.me.ready = max s.me.ready (s.me.clock + lat)
  later  : key ≠ 0 → land ≠ 0 →
    t.me.pwq = s.me.pwq ++ [{ reg := key, rem := land, val := some v, ready := s.me.clock + lat, stamp := s.me.stamp,
                              lanes := lanes }]
      ∧ t.me.two key = s.me.two key ∧ t.me.ready = s.me.ready
  double : key ≠ 0 → t.me.dw = (s.me.dw || s.me.collides key land)

end Sys2Proof.Safety
end

