-- ==== Sys2Proof/Certificates/Slice0/Obligations.lean ====
section
/-! DEFINITION. The statements for the provers, and the tables of results and effects that they are stated with. -/

namespace Sys2Proof.Claims

open Sys2Proof.Machine Sys2Proof.Safety

/-! ### Results of the S, M and X slots -/

/-- The header, destination, value and latency of an instruction whose result is one scalar register, read from the
state before it; none where it has no such result (03 R91 to R99, R102, R105, 11 R263, 14 R343, R346, 19 R389, R396). -/
def scalarValue (s : State) : Instr → Option (Hdr × BitVec 5 × Word64 × Nat)
  | .add h d a b => some (h, d, s.me.s a.toNat + s.me.s b.toNat, 1)
  | .sub h d a b => some (h, d, s.me.s a.toNat - s.me.s b.toNat, 1)
  | .and h d a b => some (h, d, s.me.s a.toNat &&& s.me.s b.toNat, 1)
  | .or h d a b => some (h, d, s.me.s a.toNat ||| s.me.s b.toNat, 1)
  | .xor h d a b => some (h, d, s.me.s a.toNat ^^^ s.me.s b.toNat, 1)
  | .andn h d a b => some (h, d, s.me.s a.toNat &&& ~~~ s.me.s b.toNat, 1)
  | .shl h d a b => some (h, d, s.me.s a.toNat <<< ((s.me.s b.toNat).toNat % 64), 1)
  | .shr h d a b => some (h, d, s.me.s a.toNat >>> ((s.me.s b.toNat).toNat % 64), 1)
  | .sar h d a b => some (h, d, (s.me.s a.toNat).sshiftRight ((s.me.s b.toNat).toNat % 64), 1)
  | .rol h d a b => some (h, d, (s.me.s a.toNat).rotateLeft ((s.me.s b.toNat).toNat % 64), 1)
  | .mins h d a b =>
    some (h, d, if (s.me.s a.toNat).toInt < (s.me.s b.toNat).toInt then s.me.s a.toNat else s.me.s b.toNat, 1)
  | .maxs h d a b =>
    some (h, d, if (s.me.s a.toNat).toInt < (s.me.s b.toNat).toInt then s.me.s b.toNat else s.me.s a.toNat, 1)
  | .minu h d a b => some (h, d, BitVec.ofNat 64 (min (s.me.s a.toNat).toNat (s.me.s b.toNat).toNat), 1)
  | .maxu h d a b => some (h, d, BitVec.ofNat 64 (max (s.me.s a.toNat).toNat (s.me.s b.toNat).toNat), 1)
  | .mul h d a b => some (h, d, s.me.s a.toNat * s.me.s b.toNat, 3)
  | .mulhs h d a b => some (h, d, BitVec.ofInt 64 ((s.me.s a.toNat).toInt * (s.me.s b.toNat).toInt / 2 ^ 64), 3)
  | .mulhu h d a b => some (h, d, BitVec.ofNat 64 ((s.me.s a.toNat).toNat * (s.me.s b.toNat).toNat / 2 ^ 64), 3)
  | .divs h d a b =>
    some (h, d, if s.me.s b.toNat = 0 then BitVec.allOnes 64
      else BitVec.ofInt 64 ((s.me.s a.toNat).toInt.tdiv (s.me.s b.toNat).toInt), 18)
  | .divu h d a b =>
    some (h, d, if s.me.s b.toNat = 0 then BitVec.allOnes 64
      else BitVec.ofNat 64 ((s.me.s a.toNat).toNat / (s.me.s b.toNat).toNat), 18)
  | .rems h d a b =>
    some (h, d, if s.me.s b.toNat = 0 then s.me.s a.toNat
      else BitVec.ofInt 64 ((s.me.s a.toNat).toInt.tmod (s.me.s b.toNat).toInt), 18)
  | .remu h d a b =>
    some (h, d, if s.me.s b.toNat = 0 then s.me.s a.toNat
      else BitVec.ofNat 64 ((s.me.s a.toNat).toNat % (s.me.s b.toNat).toNat), 18)
  | .mov h d a => some (h, d, s.me.s a.toNat, 1)
  | .clz h d a => some (h, d, clzW (s.me.s a.toNat), 1)
  | .ctz h d a => some (h, d, ctzW (s.me.s a.toNat), 1)
  | .popc h d a => some (h, d, popcW (s.me.s a.toNat), 1)
  | .brev h d a => some (h, d, (s.me.s a.toNat).reverse, 1)
  | .sextb h d a => some (h, d, ((s.me.s a.toNat).setWidth 8).signExtend 64, 1)
  | .sexth h d a => some (h, d, ((s.me.s a.toNat).setWidth 16).signExtend 64, 1)
  | .sextw h d a => some (h, d, ((s.me.s a.toNat).setWidth 32).signExtend 64, 1)
  | .zextb h d a => some (h, d, BitVec.ofNat 64 ((s.me.s a.toNat).toNat % 2 ^ 8), 1)
  | .zexth h d a => some (h, d, BitVec.ofNat 64 ((s.me.s a.toNat).toNat % 2 ^ 16), 1)
  | .zextw h d a => some (h, d, BitVec.ofNat 64 ((s.me.s a.toNat).toNat % 2 ^ 32), 1)
  | .lea h d a b n => some (h, d, s.me.s a.toNat + s.me.s b.toNat <<< n.toNat, 1)
  | .addi h d a i => some (h, d, s.me.s a.toNat + s.immS 0 i, 1)
  | .andi h d a i => some (h, d, s.me.s a.toNat &&& s.immS 0 i, 1)
  | .ori h d a i => some (h, d, s.me.s a.toNat ||| s.immS 0 i, 1)
  | .xori h d a i => some (h, d, s.me.s a.toNat ^^^ s.immS 0 i, 1)
  | .shli h d a i => some (h, d, s.me.s a.toNat <<< i.toNat, 1)
  | .shri h d a i => some (h, d, s.me.s a.toNat >>> i.toNat, 1)
  | .sari h d a i => some (h, d, (s.me.s a.toNat).sshiftRight i.toNat, 1)
  | .ldi h d i => some (h, d, s.immS 0 i, 1)
  | .pcnt h d a => some (h, d, BitVec.ofNat 64 (countBits (s.me.p a.toNat) 128), 1)
  | .pfirst h d a => some (h, d, BitVec.ofNat 64 (lowestBit (s.me.p a.toNat) 128), 1)
  | .movlrRead h d => some (h, d, s.me.lr, 1)
  | .srd h d i => (s.sysReg i.toNat).map (fun v => (h, d, v, 1))
  | .xmov h d w =>
    if s.me.walk.isSome then none
    else some (h, d, if w = 0 then s.me.xr.w0 else if w = 1 then s.me.xr.w1 else if w = 2 then s.me.xr.w2
      else s.me.xr.w3, 1)
  | .hptr h d w j =>
    let e := s.kore.hod j.toNat
    if e.en && !(e.priv && decide (e.own ≠ bankOf s.cx)) && !e.ovf then
      some (h, d, (if w = 0 then e.rp else e.wp).setWidth 64, 1)
    else none
  | .kstat _ h d a f =>
    match s.tokCore s.focus s.strand.gang (s.me.k a.toNat) with
    | none => some (h, d, 0, 4)
    | some c =>
      if c = s.focus then
        some (h, d, if (s.tokIssued s.focus s.strand.gang (s.me.k a.toNat)).isSome
          then s.kore.kstat (s.me.k a.toNat) f.toNat else 0, 4)
      else none
  | .xregRd h d a f c k =>
    let key := xregKey k a
    let v := (((s.kore.ctx (ctxBit c)).two key).face (f == 1)).toNat
    if s.cx = .svc ∧ s.reachable (ctxBit c) = true then
      some (h, d, if key = 0 then 0 else BitVec.ofNat 64 (if k = 2 then v / 2 ^ 64 else v), 1)
    else none
  | _ => none

/-- The same for an instruction whose result is one predicate register (R97, R101). -/
def predValue (s : State) : Instr → Option (Hdr × BitVec 4 × Pred)
  | .cmpEq h d a b => some (h, d, predOf (decide (s.me.s a.toNat = s.me.s b.toNat)))
  | .cmpNe h d a b => some (h, d, predOf (decide (s.me.s a.toNat ≠ s.me.s b.toNat)))
  | .cmpLts h d a b => some (h, d, predOf (decide ((s.me.s a.toNat).toInt < (s.me.s b.toNat).toInt)))
  | .cmpLtu h d a b => some (h, d, predOf (decide ((s.me.s a.toNat).toNat < (s.me.s b.toNat).toNat)))
  | .cmpLes h d a b => some (h, d, predOf (decide ((s.me.s a.toNat).toInt ≤ (s.me.s b.toNat).toInt)))
  | .cmpLeu h d a b => some (h, d, predOf (decide ((s.me.s a.toNat).toNat ≤ (s.me.s b.toNat).toNat)))
  | .cmpeqi h d a i => some (h, d, predOf (decide (s.me.s a.toNat = s.immS 0 i)))
  | .cmplti h d a i => some (h, d, predOf (decide ((s.me.s a.toNat).toInt < (s.immS 0 i).toInt)))
  | .cmpltui h d a i => some (h, d, predOf (decide ((s.me.s a.toNat).toNat < (s.immS 0 i).toNat)))
  | .pand h d a b => some (h, d, s.me.p a.toNat &&& s.me.p b.toNat)
  | .por h d a b => some (h, d, s.me.p a.toNat ||| s.me.p b.toNat)
  | .pxor h d a b => some (h, d, s.me.p a.toNat ^^^ s.me.p b.toNat)
  | .pandn h d a b => some (h, d, s.me.p a.toNat &&& ~~~ s.me.p b.toNat)
  | .pnot h d a => some (h, d, ~~~ s.me.p a.toNat)
  | .pset h d => some (h, d, BitVec.allOnes 128)
  | .pclr h d => some (h, d, 0)
  | .pfrom h d a => some (h, d, s.me.s a.toNat ++ s.me.s a.toNat)
  | _ => none

/-- The same for an instruction whose result is a loop counter or a matrix parameter: the register's key and its value
(R108, R187). -/
def otherValue (s : State) : Instr → Option (Hdr × Nat × Vec)
  | .lset h d a => some (h, keyLc d.toNat, ((s.me.s a.toNat).setWidth 32).setWidth 4096)
  | .lseti h d i => if s.immU 0 i < 2 ^ 32 then some (h, keyLc d.toNat, BitVec.ofNat 4096 (s.immU 0 i)) else none
  | .mset h d a => some (h, keyM d.toNat, (s.me.s a.toNat).setWidth 4096)
  | .mseti h d i => some (h, keyM d.toNat, (s.immS 3 i).setWidth 4096)
  | _ => none

/-! ### Results of the V slots -/

/-- What a vector instruction gives: header, destination, element width, the width its lanes follow, each element of the
result by its number, and the latency. -/
structure VecRes where
  h    : Hdr
  d    : BitVec 5
  w    : Nat
  lw   : Nat
  el   : Nat → Nat
  lat  : Nat

/-- The B operand of a vector slot: its register, or under PFX the oldest pending row of the latch (R73, R144). -/
def operandB (s : State) (un : VUnit) (b : BitVec 5) : Option Vec :=
  if s.latOf un then s.kore.latch.head? else some (s.me.v b.toNat)

/-- An integer instruction of two vectors: `f` of the width and of the two elements (R145). -/
def int2 (s : State) (un : VUnit) (h : Hdr) (d a b : BitVec 5) (t : BitVec 3) (f : Nat → Nat → Nat → Nat) : Option VecRes :=
  let w := tyWidth t.toNat
  (operandB s un b).map fun vb =>
    ⟨h, d, w, w, fun k => f w (elAt w (s.me.v a.toNat).toNat k) (elAt w vb.toNat k), 2⟩

/-- A rounded float instruction: the exact value of the elements of a, b and d, rounded once (R147, R148, R171, R172). -/
def float3 (s : State) (un : VUnit) (h : Hdr) (d a b : BitVec 5) (t : BitVec 3) (f : Bool → FVal → FVal → FVal → FVal) :
    Option VecRes :=
  let fm := tyFmt t.toNat
  (operandB s un b).map fun vb =>
    ⟨h, d, fm.width, fm.width, fun k =>
      fm.round (rmAt (s.modeOf un) s.rndSrc.1 s.rndSrc.2 (fm.width * k))
        (f (s.modeOf un == 2) (fm.val (elAt fm.width (s.me.v a.toNat).toNat k)) (fm.val (elAt fm.width vb.toNat k))
          (fm.val (elAt fm.width (s.me.v d.toNat).toNat k))), fpLat t.toNat⟩

/-- An instruction of one vector, element by element. -/
def one (s : State) (h : Hdr) (d a : BitVec 5) (w lat : Nat) (f : Nat → Nat) : Option VecRes :=
  some ⟨h, d, w, w, fun k => f (elAt w (s.me.v a.toNat).toNat k), lat⟩

/-- A reduction: every element takes the tree's result over the active elements (R162). -/
def reduction (s : State) (h : Hdr) (d a : BitVec 5) (t : BitVec 3) (ident : Nat) (pre : Nat → Nat)
    (f : Nat → Nat → Nat) : Option VecRes :=
  let w := tyWidth t.toNat
  let p := elLanes w (s.lanes h)
  some ⟨h, d, w, w, fun _ => treeFold f ident 10 ((List.range (4096 / w)).map fun k =>
    if p.getLsbD (k * w / 32) then pre (elAt w (s.me.v a.toNat).toNat k) else ident), 10⟩

/-- A conversion; none where a table code resolves to no format or to the other one (R66, R154, R155). -/
def conversion (s : State) (sat : Bool) (un : VUnit) (h : Hdr) (d a : BitVec 5) (t f : BitVec 4) : Option VecRes :=
  let dst := s.fmt4 t.toNat
  let frm := s.fmt4 f.toNat
  let u := max (width4 dst) (width4 frm)
  if 14 ≤ dst ∨ 14 ≤ frm ∨ dst = frm then none
  else some ⟨h, d, u, u, fun k =>
    cvtEl sat (rmAt (s.modeOf un) s.rndSrc.1 s.rndSrc.2 (u * k)) dst frm
      (elAt u (s.me.v a.toNat).toNat k % 2 ^ width4 frm), 3⟩

/-- The result of an instruction that writes one vector register, read from the state before it; none where it has no
such result or its B operand is a row that the latch does not hold (06 R145 to R162). -/
def vectorValue (s : State) : Instr → Option VecRes
  | .vadd un h d a b t => int2 s un h d a b t fun _ x y => x + y
  | .vsub un h d a b t => int2 s un h d a b t fun w x y => x + 2 ^ w - y
  | .vmul un h d a b t => int2 s un h d a b t fun _ x y => x * y
  | .vmulhs un h d a b t => int2 s un h d a b t fun w x y => ofIntW w (asInt w x * asInt w y / (2 ^ w : Nat))
  | .vmulhu un h d a b t => int2 s un h d a b t fun w x y => x * y / 2 ^ w
  | .vand un h d a b t => int2 s un h d a b t fun _ x y => x &&& y
  | .vor un h d a b t => int2 s un h d a b t fun _ x y => x ||| y
  | .vxor un h d a b t => int2 s un h d a b t fun _ x y => x ^^^ y
  | .vshl un h d a b t => int2 s un h d a b t fun w x y => x * 2 ^ (y % w)
  | .vshr un h d a b t => int2 s un h d a b t fun w x y => x / 2 ^ (y % w)
  | .vsar un h d a b t => int2 s un h d a b t fun w x y => ofIntW w (asInt w x / (2 ^ (y % w) : Nat))
  | .vmins un h d a b t => int2 s un h d a b t fun w x y => if asInt w x < asInt w y then x else y
  | .vmaxs un h d a b t => int2 s un h d a b t fun w x y => if asInt w x < asInt w y then y else x
  | .vminu un h d a b t => int2 s un h d a b t fun _ x y => min x y
  | .vmaxu un h d a b t => int2 s un h d a b t fun _ x y => max x y
  | .vabs _ h d a t =>
    one s h d a (tyWidth t.toNat) 2 fun x => if x < 2 ^ (tyWidth t.toNat - 1) then x else 2 ^ tyWidth t.toNat - x
  | .vsplat _ h d a t =>
    some ⟨h, d, tyWidth t.toNat, tyWidth t.toNat, fun _ => (s.me.s a.toNat).toNat, 2⟩
  | .viota _ h d t => some ⟨h, d, tyWidth t.toNat, tyWidth t.toNat, fun k => k, 2⟩
  | .vhash un h d a b => (operandB s un b).map fun vb =>
      ⟨h, d, 32, 32, fun k => hash32 (elAt 32 (s.me.v a.toNat).toNat k) (elAt 32 vb.toNat k), 2⟩
  | .vperm _ h d a b f =>
    if f = 0 then some ⟨h, d, 32, 32, fun j =>
      elAt 32 (s.me.v a.toNat).toNat (16 * (j / 16) + elAt 32 (s.me.v b.toNat).toNat j % 16), 2⟩
    else some ⟨h, d, 64, 64, fun j =>
      elAt 64 (s.me.v a.toNat).toNat (8 * (j / 8) + elAt 32 (s.me.v b.toNat).toNat (2 * j) % 8), 2⟩
  | .vxcl _ h d a b f =>
    if f = 0 then some ⟨h, d, 32, 32, fun j =>
      elAt 32 (s.me.v a.toNat).toNat (elAt 32 (s.me.v b.toNat).toNat j % 128), 8⟩
    else some ⟨h, d, 64, 64, fun j => elAt 64 (s.me.v a.toNat).toNat (elAt 32 (s.me.v b.toNat).toNat (2 * j) % 64), 8⟩
  | .vfadd un h d a b t => float3 s un h d a b t fun z x y _ => FVal.add z x y
  | .vfsub un h d a b t => float3 s un h d a b t fun z x y _ => FVal.add z x y.neg
  | .vfmul un h d a b t => float3 s un h d a b t fun _ x y _ => x.mul y
  | .vfma un h d a b t => float3 s un h d a b t fun z x y c => FVal.add z (x.mul y) c
  | .vfms un h d a b t => float3 s un h d a b t fun z x y c => FVal.add z (x.mul y) c.neg
  | .vfnma un h d a b t => float3 s un h d a b t fun z x y c => FVal.add z (x.mul y).neg c.neg
  | .vfnms un h d a b t => float3 s un h d a b t fun z x y c => FVal.add z (x.mul y).neg c
  | .vfmin un h d a b t =>
    let fm := tyFmt t.toNat
    (operandB s un b).map fun vb => ⟨h, d, fm.width, fm.width, fun k =>
      fm.minNum (elAt fm.width (s.me.v a.toNat).toNat k) (elAt fm.width vb.toNat k), fpLat t.toNat⟩
  | .vfmax un h d a b t =>
    let fm := tyFmt t.toNat
    (operandB s un b).map fun vb => ⟨h, d, fm.width, fm.width, fun k =>
      fm.maxNum (elAt fm.width (s.me.v a.toNat).toNat k) (elAt fm.width vb.toNat k), fpLat t.toNat⟩
  | .vfabs _ h d a t => one s h d a (tyWidth t.toNat) 2 fun x => x % 2 ^ (tyWidth t.toNat - 1)
  | .vfneg _ h d a t => one s h d a (tyWidth t.toNat) 2 fun x => x ^^^ 2 ^ (tyWidth t.toNat - 1)
  | .vfclass _ h d a t => one s h d a (tyFmt t.toNat).width 2 fun x => 2 ^ (tyFmt t.toNat).classBit x
  | .vrcp _ h d a => one s h d a 32 20 rcpF32
  | .vrsq _ h d a => one s h d a 32 20 rsqF32
  | .vexp2 _ h d a => one s h d a 32 20 exp2F32
  | .vlog2 _ h d a => one s h d a 32 20 log2F32
  | .vsinpi _ h d a => one s h d a 32 28 sinpiF32
  | .vcospi _ h d a => one s h d a 32 28 cospiF32
  | .vtanh _ h d a => one s h d a 32 28 tanhF32
  | .vsqrt _ h d a t =>
    one s h d a (sqrtFmt t).width 24 fun x => (sqrtFmt t).round rne ((sqrtFmt t).val x).sqrt
  | .vdiv un h d a b t =>
    let fm := sqrtFmt t
    (operandB s un b).map fun vb => ⟨h, d, fm.width, fm.width, fun k =>
      fm.round rne ((fm.val (elAt fm.width (s.me.v a.toNat).toNat k)).div (fm.val (elAt fm.width vb.toNat k))), 24⟩
  | .vrsum _ h d a t =>
    if t.toNat ≤ 3 then reduction s h d a t 0 (fun x => x) fun x y => (x + y) % 2 ^ tyWidth t.toNat
    else reduction s h d a t ((tyFmt t.toNat).sign true) (fun x => x) fun x y =>
      (tyFmt t.toNat).round rne (FVal.add false ((tyFmt t.toNat).val x) ((tyFmt t.toNat).val y))
  | .vrmax _ h d a t =>
    if t.toNat ≤ 3 then reduction s h d a t (2 ^ (tyWidth t.toNat - 1)) (fun x => x) fun x y =>
      if asInt (tyWidth t.toNat) x < asInt (tyWidth t.toNat) y then y else x
    else reduction s h d a t ((tyFmt t.toNat).sign true + (tyFmt t.toNat).top) (fun x => x) (tyFmt t.toNat).maxNum
  | .vrmin _ h d a t =>
    if t.toNat ≤ 3 then reduction s h d a t (2 ^ (tyWidth t.toNat - 1) - 1) (fun x => x) fun x y =>
      if asInt (tyWidth t.toNat) x < asInt (tyWidth t.toNat) y then x else y
    else reduction s h d a t (tyFmt t.toNat).top (fun x => x) (tyFmt t.toNat).minNum
  | .vramax _ h d a t =>
    reduction s h d a t 0 (fun x => x % 2 ^ ((tyFmt t.toNat).e + (tyFmt t.toNat).m)) (tyFmt t.toNat).maxNum
  | .vcvt un h d a t f => conversion s false un h d a t f
  | .vcvts un h d a t f => conversion s true un h d a t f
  | .vpack un h d a b t =>
    let w := tyWidth t.toNat
    let n := halfCount w
    some ⟨h, d, w, 2 * n * w, fun k =>
      narrowEl (rmAt (s.modeOf un) s.rndSrc.1 s.rndSrc.2 (w * k)) t.toNat
        (elAt (2 * w) (if k % (2 * n) < n then (s.me.v a.toNat).toNat else (s.me.v b.toNat).toNat)
          (k / (2 * n) * n + k % (2 * n) % n)), 3⟩
  | .vunpkl _ h d a t =>
    let w := tyWidth t.toNat
    let n := halfCount w
    some ⟨h, d, 2 * w, 2 * n * w, fun j =>
      widenEl t.toNat (elAt w (s.me.v a.toNat).toNat (j / n * (2 * n) + 0 + j % n)), 3⟩
  | .vunpkh _ h d a t =>
    let w := tyWidth t.toNat
    let n := halfCount w
    some ⟨h, d, 2 * w, 2 * n * w, fun j =>
      widenEl t.toNat (elAt w (s.me.v a.toNat).toNat (j / n * (2 * n) + n + j % n)), 3⟩
  | .vqnf un h d a b t =>
    let fm := tyFmt t.toNat
    (operandB s un b).map fun vb => ⟨h, d, 32, 32, fun j =>
      (List.range (32 / fm.width)).foldl (fun acc i =>
        let k := j * (32 / fm.width) + i
        acc + 16 ^ i * nf4Index (rmAt (s.modeOf un) s.rndSrc.1 s.rndSrc.2 (fm.width * k))
          (fm.val (elAt fm.width (s.me.v a.toNat).toNat k)) (fp32.val (elAt 32 vb.toNat j))) 0, 3⟩
  | .vdqnf un h d a b t =>
    let fm := tyFmt t.toNat
    (operandB s un b).map fun vb => ⟨h, d, fm.width, 32, fun k =>
      let j := k * fm.width / 32
      fm.round rne ((nf4Val (elAt 32 (s.me.v a.toNat).toNat j / 16 ^ (k % (32 / fm.width)) % 16)).mul
        (fp32.val (elAt 32 vb.toNat j))), 3⟩
  | _ => none

/-- What a vector compare gives: header, destination, element width, the test of element `k`, and the latency (R150). -/
structure CmpRes where
  h    : Hdr
  d    : BitVec 4
  w    : Nat
  test : Nat → Bool
  lat  : Nat

/-- A compare of the elements of two vectors. -/
def compare2 (s : State) (un : VUnit) (h : Hdr) (d : BitVec 4) (a b : BitVec 5) (w lat : Nat) (t : Nat → Nat → Bool) :
    Option CmpRes :=
  (operandB s un b).map fun vb => ⟨h, d, w, fun k => t (elAt w (s.me.v a.toNat).toNat k) (elAt w vb.toNat k), lat⟩

/-- The result of a vector compare (R150). -/
def compareValue (s : State) : Instr → Option CmpRes
  | .vcmpeq un h d a b t => compare2 s un h d a b (tyWidth t.toNat) 2 fun x y => decide (x = y)
  | .vcmplts un h d a b t =>
    compare2 s un h d a b (tyWidth t.toNat) 2 fun x y => decide (asInt (tyWidth t.toNat) x < asInt (tyWidth t.toNat) y)
  | .vcmpltu un h d a b t => compare2 s un h d a b (tyWidth t.toNat) 2 fun x y => decide (x < y)
  | .vcmples un h d a b t =>
    compare2 s un h d a b (tyWidth t.toNat) 2 fun x y => decide (asInt (tyWidth t.toNat) x ≤ asInt (tyWidth t.toNat) y)
  | .vfcmpeq un h d a b t =>
    let fm := tyFmt t.toNat
    compare2 s un h d a b fm.width (fpLat t.toNat) fun x y => (fm.val x).same (fm.val y)
  | .vfcmplt un h d a b t =>
    let fm := tyFmt t.toNat
    compare2 s un h d a b fm.width (fpLat t.toNat) fun x y => (fm.val x).lt (fm.val y)
  | .vfcmple un h d a b t =>
    let fm := tyFmt t.toNat
    compare2 s un h d a b fm.width (fpLat t.toNat) fun x y => (fm.val x).lt (fm.val y) || (fm.val x).same (fm.val y)
  | _ => none

end Sys2Proof.Claims

open Sys2Proof Sys2Proof.Machine Sys2Proof.Safety Sys2Proof.Claims

/-- Every instruction whose result is one scalar register issues on any operands, gives that register the value of R91
to R105, R263, R343, R346, R389 and R396 as R18 and R25 say (or nothing at all, for s0), and changes nothing else. -/
def Obligations.ScalarResults : Prop :=
  ∀ (i : Instr) (s : State) (h : Hdr) (d : BitVec 5) (v : Word64) (lat : Nat),
    scalarValue s i = some (h, d, v, lat) → s.guardOn h = true →
    Room s (keyS d.toNat) (decide (0 < h.land.toNat)) h.land.toNat →
    ∃ t, Issues i s t
      ∧ TakesResult (keyS d.toNat) (v.setWidth 4096) (BitVec.allOnes 128) h.land.toNat lat s t
      ∧ WritesOnly [keyS d.toNat] s t

/-- The same of every instruction whose result is one predicate register (R97, R101); the register is the one that the
rotation names (R50). -/
def Sys2Proof.Claims.PredicateResults : Prop :=
  ∀ (i : Instr) (s : State) (h : Hdr) (d : BitVec 4) (v : Pred),
    predValue s i = some (h, d, v) → s.guardOn h = true →
    Room s (s.me.keyP d.toNat) (decide (0 < h.land.toNat)) h.land.toNat →
    ∃ t, Issues i s t
      ∧ TakesResult (s.me.keyP d.toNat) (v.setWidth 4096) (BitVec.allOnes 128) h.land.toNat 1 s t
      ∧ WritesOnly [s.me.keyP d.toNat] s t

/-- The same of LSET, LSETI, MSET and MSETI (R108, R187). -/
def Sys2Proof.Claims.CounterAndParameterResults : Prop :=
  ∀ (i : Instr) (s : State) (h : Hdr) (key : Nat) (v : Vec),
    otherValue s i = some (h, key, v) → s.guardOn h = true → Room s key (decide (0 < h.land.toNat)) h.land.toNat →
    ∃ t, Issues i s t ∧ TakesResult key v (BitVec.allOnes 128) h.land.toNat 1 s t ∧ WritesOnly [key] s t

/-- Every vector instruction that writes a vector register issues on any operands, when a lane is active: each element of
its result is the one that R145 to R162 give, the active lanes of its register take them as R18, R25 and R37 say, and
nothing else changes. With FMTT codes that resolve to no conversion, or no row in the latch, it has no such result. Where its clauses rest on choices or inferences of the model, these are log entries 29 and 35. -/
def Obligations.VectorResults : Prop :=
  ∀ (i : Instr) (s : State) (r : VecRes),
    vectorValue s i = some r → elLanes r.lw (s.lanes r.h) ≠ 0 →
    Room s (s.me.keyV r.d.toNat) (decide (0 < r.h.land.toNat)) r.h.land.toNat →
    ∃ t v, Issues i s t
      ∧ (∀ k, k < 4096 / r.w → elAt r.w v.toNat k = r.el k % 2 ^ r.w)
      ∧ TakesResult (s.me.keyV r.d.toNat) v (elLanes r.lw (s.lanes r.h)) r.h.land.toNat r.lat s t
      ∧ WritesOnly [s.me.keyV r.d.toNat] s t

/-- Every vector compare issues on any operands, when a lane is active: bit j of its result is 1 when the compare holds
for every element of lane j, both bits of a 64-bit element are its result, and inactive bits keep the visible ones (R140,
R150). -/
def Sys2Proof.Claims.VectorCompares : Prop :=
  ∀ (i : Instr) (s : State) (r : CmpRes),
    compareValue s i = some r → elLanes r.w (s.lanes r.h) ≠ 0 →
    Room s (s.me.keyP r.d.toNat) (decide (0 < r.h.land.toNat)) r.h.land.toNat →
    ∃ (t : State) (v : Pred), Issues i s t
      ∧ (∀ j, j < 128 → v.getLsbD j
          = if r.w = 64 then r.test (j / 2) else decide (∀ k, k < 32 / r.w → r.test (j * (32 / r.w) + k) = true))
      ∧ TakesResult (s.me.keyP r.d.toNat) (v.setWidth 4096) (elLanes r.w (s.lanes r.h)) r.h.land.toNat r.lat s t
      ∧ WritesOnly [s.me.keyP r.d.toNat] s t

/-- VEXT issues on any operands: where the lane of its element is active the scalar takes the element, sign-extended for
integer types and zero-extended for float types, and nothing else changes; where it is not, nothing happens (R152). -/
def Sys2Proof.Claims.VectorExtract : Prop :=
  ∀ (s : State) (un : VUnit) (h : Hdr) (d a b : BitVec 5) (t : BitVec 3),
    let w := tyWidth t.toNat
    let k := (s.me.s b.toNat).toNat % (4096 / w)
    let e := elAt w (s.me.v a.toNat).toNat k
    ((s.lanes h).getLsbD (if w = 64 then 2 * k else k * w / 32) = true →
      Room s (keyS d.toNat) (decide (0 < h.land.toNat)) h.land.toNat →
      ∃ u, Issues (.vext un h d a b t) s u
        ∧ TakesResult (keyS d.toNat) (((if t.toNat ≤ 3 then BitVec.ofInt 64 (asInt w e) else BitVec.ofNat 64 e) :
            Word64).setWidth 4096) (BitVec.allOnes 128) h.land.toNat 2 s u
        ∧ WritesOnly [keyS d.toNat] s u)
    ∧ ((s.lanes h).getLsbD (if w = 64 then 2 * k else k * w / 32) = false →
      exec (.vext un h d a b t) s = .next (s.setIss { s.iss with out := .issued }))

namespace Sys2Proof.Claims

/-! ### The own tessera and accumulator memory -/

/-- The physical byte behind a logical byte of a slot's access to its own memory (R223). -/
def ownPhys (s : State) (acm store : Bool) (off : Nat) : Nat :=
  if acm then off else (s.me.mapOwn store off).getD off

/-- A byte of the own memory that a slot names: the tessera or the accumulator memory (R163, R217). -/
def ownByte (s : State) (acm : Bool) (p : Nat) : Byte := if acm then Mem.byte s.kore.acm p else Mem.byte s.kore.tess p

/-- The access need not wait: no access of an earlier bundle of its context waits, and its context is the primary or the
primary has claimed none of its banks in this cycle (R43, R47). The accumulator memory has no banks to claim. -/
def AtOnce (s : State) (acm store : Bool) (offs : List Nat) : Prop :=
  (∀ d ∈ s.kore.delayed, d.cx = s.cx → s.me.bundles ≤ d.bundle)
    ∧ (s.kore.isPrimary s.cx = true
      ∨ (acm = false → s.kore.claimAt = s.me.clock → ∀ o ∈ offs, ownPhys s acm store o / 64 % 96 ∉ s.kore.claims))

/-- None of the bytes lies in a line that reads wrong, once or for good, or that has a bit to correct (R380, R424). -/
def Clean (s : State) (acm : Bool) (offs : List Nat) : Prop :=
  ∀ o ∈ offs, if acm then o / 64 ∉ s.kore.badAcm ∧ (1, o / 64) ∉ s.kore.soft ∧ (1, o / 64) ∉ s.kore.ce
    else ownPhys s acm false o / 64 ∉ s.kore.badTess ∧ ownPhys s acm false o / 64 ∉ s.kore.softTess
      ∧ (0, ownPhys s acm false o / 64) ∉ s.kore.ce

/-- Every byte of the device memory, of the tesserae, the accumulator memories and the lintels reads as before; an error
that a read meets may be logged in host memory (R433). -/
structure KeepsOwnMemory (s t : State) : Prop where
  device : ∀ a, Mem.byte t.mem a = Mem.byte s.mem a
  tess   : ∀ c a, Mem.byte (t.core c).tess a = Mem.byte (s.core c).tess a
  acm    : ∀ c a, Mem.byte (t.core c).acm a = Mem.byte (s.core c).acm a
  lintel : ∀ c a, Mem.byte (t.core c).lintel a = Mem.byte (s.core c).lintel a

/-- The state with what its context knows of other agents' writes as it was (R271, R286). -/
def unheard (s t : State) : State := t.setMe { t.me with notes := s.me.notes, heard := s.me.heard }

/-- The frame of a load from the own memory: the register `key` alone, what the context knows of the writes that it has read
(R271, R286), and the banks that the primary claims with the accesses that they put off (R47). -/
structure LoadsOwn (key : Nat) (s t : State) : Prop extends KeepsPart s t where
  memory  : KeepsMemory s t
  core    : { t.kore.setCtx s.cx s.me with
              claims := s.kore.claims, claimAt := s.kore.claimAt, delayed := s.kore.delayed } = s.kore
  regs    : ∀ k, k ≠ key → t.me.two k = s.me.two k
  context : { t.me with regs := s.me.regs, pwq := s.me.pwq, dw := s.me.dw, ready := s.me.ready,
                        notes := s.me.notes, heard := s.me.heard } = s.me

/-- The frame of a store to the own memory: of the context, only the DIRTY marks of its paired regions; of the core, the
memory, the marks of lines stored whole, and the banks claimed; no other core. Where the context need not bring other writes
before its own (R271), nothing else of the part changes but the order marks of the words, and every other memory is as it
was. -/
structure StoresOwn (s t : State) : Prop where
  cores   : ∀ c, c ≠ s.focus → t.core c = s.core c
  core    : { t.kore.setCtx s.cx s.me with
              tess := s.kore.tess, acm := s.kore.acm, badTess := s.kore.badTess, softTess := s.kore.softTess,
              badAcm := s.kore.badAcm, soft := s.kore.soft, ce := s.kore.ce, claims := s.kore.claims,
              claimAt := s.kore.claimAt, delayed := s.kore.delayed } = s.kore
  context : { t.me with pairs := s.me.pairs } = s.me
  part    : s.me.must = [] → { t with cores := s.cores, iss := s.iss, rel := s.rel } = s
  device  : s.me.must = [] → ∀ a, Mem.byte t.mem a = Mem.byte s.mem a
  host    : s.me.must = [] → ∀ a, Mem.byte t.hostMem a = Mem.byte s.hostMem a

/-- The byte offsets of a run. -/
def offsFrom (o n : Nat) : List Nat := (List.range n).map (o + ·)

/-- The lanes that take part in a vector access, with their addresses (R163). -/
def lanesOf (s : State) (h : Hdr) (m : BitVec 3) (a b : BitVec 5) (store : Bool) : List (Nat × Word64) :=
  laneAddrs m.toNat (s.fvm m a b).1 (s.fvm m a b).2.1 (s.fvm m a b).2.2 (partLanes m.toNat store (s.lanes h))

/-- The byte offsets of a vector access, in lane order. -/
def laneOffs (ls : List (Nat × Word64)) : List Nat := ls.flatMap fun l => offsFrom l.2.toNat 4

/-- A slot's access passes its checks: every lane is aligned, inside the space, and outside the hidden range of a paired
region (R163, R223). -/
def LanesOk (s : State) (un : VUnit) (ls : List (Nat × Word64)) : Prop :=
  ∀ l ∈ ls, l.2.toNat % 4 = 0 ∧ l.2.toNat < vSpaceSize un ∧ (vAcm un = false → s.me.ownOk l.2.toNat 4 = true)

end Sys2Proof.Claims

/-- LDS issues when its address is aligned, inside the tessera and outside every hidden range and no watchpoint fires,
whatever its lines hold and whoever uses its banks; where it meets no claimed bank and no bad line, its register takes
the bytes read through the visible halves, extended as R99 says, with latency 4, and nothing else changes but the banks
claimed (R43, R47, R98, R99, R223). -/
def Sys2Proof.Claims.TesseraLoad : Prop :=
  ∀ (s : State) (h : Hdr) (t a : BitVec 5) (w : BitVec 3) (o : BitVec 5),
    let size := sizeOfW w
    let e := (s.addrFM 0 a o size).toNat
    s.guardOn h = true → Room s (keyS t.toNat) (decide (0 < h.land.toNat)) h.land.toNat →
    e % size = 0 → e < Config.tessSize → s.me.ownOk e size = true → s.watch 60 1 [(e, size)] = none →
    ∃ u, Issues (.lds h t a w o) s u
      ∧ KeepsOwnMemory s u
      ∧ (AtOnce s false false (offsFrom e size) → Clean s false (offsFrom e size) →
          LoadsOwn (keyS t.toNat) s u
          ∧ ∃ n : Nat, n < 256 ^ size
            ∧ (∀ i, i < size → n / 256 ^ i % 256 = (ownByte s false (ownPhys s false false (e + i))).toNat)
            ∧ TakesResult (keyS t.toNat)
                ((if w.toNat ≤ 2 then BitVec.ofInt 64 (asInt (8 * size) n) else BitVec.ofNat 64 n : Word64).setWidth 4096)
                (BitVec.allOnes 128) h.land.toNat 4 s (unheard s u))

/-- STS issues under the same checks; where it meets no claimed bank, byte i of its register goes to the physical byte
behind logical byte i of its address (of two that fall on one place, the later prevails), every other byte of every
memory reads as before, and no register changes (R43, R47, R98, R100, R223). -/
def Sys2Proof.Claims.TesseraStore : Prop :=
  ∀ (s : State) (h : Hdr) (t a : BitVec 5) (w : BitVec 3) (o : BitVec 5),
    let size := sizeOfW w
    let e := (s.addrFM 0 a o size).toNat
    let phys := fun i => ownPhys s false true (e + i)
    s.guardOn h = true → e % size = 0 → e < Config.tessSize → s.me.ownOk e size = true →
    s.watch 61 1 [(e, size)] = none →
    ∃ u, Issues (.sts h t a w o) s u
      ∧ (AtOnce s false true (offsFrom e size) →
          StoresOwn s u
          ∧ (∀ i, i < size → (∀ j, i < j → j < size → phys j ≠ phys i) →
              ownByte u false (phys i) = BitVec.ofNat 8 ((s.me.s t.toNat).toNat / 256 ^ i))
          ∧ (∀ p, (∀ i, i < size → phys i ≠ p) → ownByte u false p = ownByte s false p)
          ∧ (∀ p, ownByte u true p = ownByte s true p))

/-- VLD issues when every lane taking part passes the checks and no watchpoint fires; where it meets no claimed bank and
no bad line, each lane taking part takes the four bytes at its address, with latency 6, and nothing else changes but the
banks claimed; with no active lane taking part it is guarded off (R43, R47, R140, R163, R164, R223). -/
def Sys2Proof.Claims.VectorLoad : Prop :=
  ∀ (s : State) (un : VUnit) (h : Hdr) (t a b : BitVec 5) (m : BitVec 3),
    let ls := lanesOf s h m a b false
    let key := s.me.keyV t.toNat
    (partLanes m.toNat false (s.lanes h) = 0 → exec (.vld un h t a b m) s = .next (s.setIss { s.iss with out := .issued }))
    ∧ (partLanes m.toNat false (s.lanes h) ≠ 0 → Room s key (decide (0 < h.land.toNat)) h.land.toNat → LanesOk s un ls →
    s.watch 60 (vSpace un) (ls.map fun l => (l.2.toNat, 4)) = none →
    ∃ u, Issues (.vld un h t a b m) s u
      ∧ KeepsOwnMemory s u
      ∧ (AtOnce s (vAcm un) false (laneOffs ls) → Clean s (vAcm un) (laneOffs ls) →
          LoadsOwn key s u
          ∧ ∃ v : Vec,
            (∀ l ∈ ls, ∀ i, i < 4 → v.toNat / 256 ^ (4 * l.1 + i) % 256
              = (ownByte s (vAcm un) (ownPhys s (vAcm un) false (l.2.toNat + i))).toNat)
            ∧ TakesResult key v (partLanes m.toNat false (s.lanes h)) h.land.toNat 6 s (unheard s u)))

/-- VST issues under the same checks; where it meets no claimed bank, each lane taking part stores its four bytes at its
address (of two that fall on one place, the later byte of the higher lane prevails), every other byte of every memory
reads as before, and no register changes; with no active lane taking part it is guarded off (R43, R47, R140, R163,
R164, R223). -/
def Sys2Proof.Claims.VectorStore : Prop :=
  ∀ (s : State) (un : VUnit) (h : Hdr) (t a b : BitVec 5) (m : BitVec 3),
    let ls := lanesOf s h m a b true
    let phys := fun (l : Nat × Word64) i => ownPhys s (vAcm un) true (l.2.toNat + i)
    (partLanes m.toNat true (s.lanes h) = 0 → exec (.vst un h t a b m) s = .next (s.setIss { s.iss with out := .issued }))
    ∧ (partLanes m.toNat true (s.lanes h) ≠ 0 → LanesOk s un ls → s.watch 61 (vSpace un) (ls.map fun l => (l.2.toNat, 4)) = none →
    ∃ u, Issues (.vst un h t a b m) s u
      ∧ (AtOnce s (vAcm un) true (laneOffs ls) →
          StoresOwn s u
          ∧ (∀ l ∈ ls, ∀ i, i < 4 →
              (∀ k ∈ ls, ∀ j, j < 4 → l.1 < k.1 ∨ (l.1 = k.1 ∧ i < j) → phys k j ≠ phys l i) →
              ownByte u (vAcm un) (phys l i) = BitVec.ofNat 8 ((s.me.v t.toNat).toNat / 256 ^ (4 * l.1 + i)))
          ∧ (∀ p, (∀ l ∈ ls, ∀ i, i < 4 → phys l i ≠ p) → ownByte u (vAcm un) p = ownByte s (vAcm un) p)
          ∧ (∀ p, ownByte u (!vAcm un) p = ownByte s (!vAcm un) p)))

/-- An LDS or STS whose address is not a multiple of its size raises MISALIGNED with its address as INFO and has none of
its effect; one whose address lies beyond the tessera raises UNMAPPED (R98). -/
def Sys2Proof.Claims.TesseraAccessTraps : Prop :=
  ∀ (s : State) (h : Hdr) (t a : BitVec 5) (w : BitVec 3) (o : BitVec 5) (i : Instr),
    (i = .lds h t a w o ∧ Room s (keyS t.toNat) (decide (0 < h.land.toNat)) h.land.toNat ∨ i = .sts h t a w o) →
    s.guardOn h = true →
    let e := s.addrFM 0 a o (sizeOfW w)
    ((e.toNat % sizeOfW w ≠ 0 → ∃ u, exec i s = .next u ∧ u.iss.out = .trapped 6 0 6 e
        ∧ (s.cx ≠ .svc → u.kore = s.kore.takeTrap s.cx 6 0 e s.me.pc false true))
    ∧ (e.toNat % sizeOfW w = 0 → Config.tessSize ≤ e.toNat → ∃ u, exec i s = .next u ∧ u.iss.out = .trapped 6 0 4 e
        ∧ (s.cx ≠ .svc → u.kore = s.kore.takeTrap s.cx 4 0 e s.me.pc false true)))

namespace Sys2Proof.Claims

/-! ### Control -/

/-- The header, target and link of a transfer of control that is always taken (R103, R104); none where a target register
holds no bundle address. -/
def branchOf (s : State) : Instr → Option (Hdr × Word64 × Bool)
  | .br h o => some (h, s.me.pc + 32 * s.immS 0 o, false)
  | .call h o => some (h, s.me.pc + 32 * s.immS 0 o, true)
  | .bri h a => if (s.me.s a.toNat).toNat % 32 = 0 then some (h, s.me.s a.toNat, false) else none
  | .calli h a => if (s.me.s a.toNat).toNat % 32 = 0 then some (h, s.me.s a.toNat, true) else none
  | .ret h => if s.me.lr.toNat % 32 = 0 then some (h, s.me.lr, false) else none
  | _ => none

/-- The state before the effect of a P-slot word, or of NOP, with what the word tells the issue latch (R58, R72 to R76). -/
def prefixOf (l : Latch) : Instr → Option Latch
  | .nop => some l
  | .pfx x y a b r w =>
    some { l with rm0 := x.toNat, rm1 := y.toNat, lat0 := a == 1, lat1 := b == 1, rnd := r.toNat, rw := w.toNat }
  | .imx sl e => some { l with imx := some (sl.toNat, e) }
  | .mark c t => some { l with mark := some (c, t) }
  | _ => none

/-- Only the issue latch changes. -/
def OnlyLatch (s t : State) : Prop := { t with iss := s.iss } = s

/-- What comes before the next bundle of the core in focus is tried: a breakpoint that the port has claimed stops the gang of
its context, the delayed accesses whose turn has come are granted, a value written to PRIM takes effect, and the trace unit and
the counters catch up (R448, R47, R49, R449, R453). -/
def beforeTry (s : State) : State :=
  let p := (s.portStops (s.ctxAt s.focus .cb0).gang).portStops (s.ctxAt s.focus .cb1).gang
  ((p.grantDue s.focus (p.core s.focus).delayed.length).takePrim s.focus).traced s.focus

/-- A slot-executed instruction comes to an attempt of its context that goes through: the agenda is empty, the context
`cx` of the core in focus is next, its waits and its boundary are over, and its fetch answers the bundle `ws`, whose one
instruction other than NOP is `i` in slot `n`, whose checks pass and which nothing holds; `u` is the state in which its
slots are judged (R40, R46, R78, R79). -/
structure Reaches (s u : State) (ws : List Word32) (n : Nat) (i : Instr) : Prop where
  agenda  : s.agenda = []
  part    : s.focus < Config.allCores
  power   : s.powered = true
  moves   : s.allHeld s.focus = false
  atIssue : ∃ (cx : CtxId) (a b f v : State),
    (beforeTry s).pick s.focus = some cx
      ∧ a = { beforeTry s with focus := s.focus, cx := cx, iss := {} }
      ∧ b = ((a.setKore (a.kore.advance cx)).tryBar s.focus cx).tryIinv s.focus cx
      ∧ b.focus = s.focus ∧ b.cx = cx
      ∧ b.me.clock = a.me.clock ∧ b.atBoundary = none ∧ b.kore.bubble = false ∧ b.earlierHold = none
      ∧ b.fetch = (f, .words ws) ∧ f.focus = s.focus ∧ f.cx = cx
      ∧ v = { f.dropFences with iss := { words := ws } }
      ∧ u = v.setIss { v.iss with
          spare := some (Config.pwqDepth - v.me.pwq.length - v.entries (v.onSlots ws (bundleOf (decodeBundle ws)))) }
  word    : decodeBundle ws = (List.replicate 8 (.ok .nop)).set n (.ok i)
  slot    : n < 7 ∧ i ≠ .nop
  legal   : (∀ v, v < 8 → u.illegalAt ws (decodeBundle ws) (bundleOf (decodeBundle ws)) v = false)
    ∧ badBundle u.me ws (bundleOf (decodeBundle ws)) = false
  free    : u.bundleHold (u.onSlots ws (bundleOf (decodeBundle ws))) = none

/-- What the step of a core adds after an attempt of a context: its trace unit and its counters catch up with it (R449, R450,
R453), and the focus stays at the core. -/
def closeStep (s t : State) : State := { t.traced s.focus with focus := s.focus }

/-- The state in which the slots of a bundle take effect once every one of them has been judged (R41). -/
def judged (u : State) : State := u.setIss { u.iss with judged := true, before := some u.kore.tess }

/-- The header of an instruction of slots 0 to 6 (R36, R59). -/
def headerOf : Instr → Option Hdr
  | .add h _ _ _ | .sub h _ _ _ | .and h _ _ _ | .or h _ _ _ | .xor h _ _ _ | .andn h _ _ _ | .shl h _ _ _
  | .shr h _ _ _ | .sar h _ _ _ | .rol h _ _ _ | .mins h _ _ _ | .maxs h _ _ _ | .minu h _ _ _ | .maxu h _ _ _
  | .mul h _ _ _ | .mulhs h _ _ _ | .mulhu h _ _ _ | .divs h _ _ _ | .divu h _ _ _ | .rems h _ _ _ | .remu h _ _ _
  | .mov h _ _ | .clz h _ _ | .ctz h _ _ | .popc h _ _ | .brev h _ _ | .sextb h _ _ | .sexth h _ _ | .sextw h _ _
  | .zextb h _ _ | .zexth h _ _ | .zextw h _ _ | .lea h _ _ _ _ | .cmpEq h _ _ _ | .cmpNe h _ _ _ | .cmpLts h _ _ _
  | .cmpLtu h _ _ _ | .cmpLes h _ _ _ | .cmpLeu h _ _ _ | .addi h _ _ _ | .andi h _ _ _ | .ori h _ _ _
  | .xori h _ _ _ | .shli h _ _ _ | .shri h _ _ _ | .sari h _ _ _ | .cmpeqi h _ _ _ | .cmplti h _ _ _
  | .cmpltui h _ _ _ | .ldi h _ _ | .lds h _ _ _ _ | .sts h _ _ _ _ | .pand h _ _ _ | .por h _ _ _ | .pxor h _ _ _
  | .pandn h _ _ _ | .pnot h _ _ | .pset h _ | .pclr h _ | .pfrom h _ _ | .pcnt h _ _ | .pfirst h _ _ | .br h _
  | .call h _ | .bri h _ | .calli h _ | .ret h | .lset h _ _ | .lseti h _ _ | .ltset h _ | .loopf h _ _ | .loop h _ _
  | .movlrRead h _ | .movlrWrite h _ | .vadd _ h _ _ _ _ | .vsub _ h _ _ _ _ | .vmul _ h _ _ _ _
  | .vmulhs _ h _ _ _ _ | .vmulhu _ h _ _ _ _ | .vand _ h _ _ _ _ | .vor _ h _ _ _ _ | .vxor _ h _ _ _ _
  | .vshl _ h _ _ _ _ | .vshr _ h _ _ _ _ | .vsar _ h _ _ _ _ | .vmins _ h _ _ _ _ | .vmaxs _ h _ _ _ _
  | .vminu _ h _ _ _ _ | .vmaxu _ h _ _ _ _ | .vabs _ h _ _ _ | .vld _ h _ _ _ _ | .vcmpeq _ h _ _ _ _
  | .vcmplts _ h _ _ _ _ | .vcmpltu _ h _ _ _ _ | .vcmples _ h _ _ _ _ | .vsplat _ h _ _ _ | .vext _ h _ _ _ _
  | .vfadd _ h _ _ _ _ | .vfsub _ h _ _ _ _ | .vfmul _ h _ _ _ _ | .vfma _ h _ _ _ _ | .vfms _ h _ _ _ _
  | .vfnma _ h _ _ _ _ | .vfnms _ h _ _ _ _ | .vfmin _ h _ _ _ _ | .vfmax _ h _ _ _ _ | .vfabs _ h _ _ _
  | .vfneg _ h _ _ _ | .vfcmpeq _ h _ _ _ _ | .vfcmplt _ h _ _ _ _ | .vfcmple _ h _ _ _ _ | .vfclass _ h _ _ _
  | .viota _ h _ _ | .vcvt _ h _ _ _ _ | .vcvts _ h _ _ _ _ | .vpack _ h _ _ _ _ | .vunpkl _ h _ _ _
  | .vunpkh _ h _ _ _ | .vqnf _ h _ _ _ _ | .vdqnf _ h _ _ _ _ | .vhash _ h _ _ _ | .vrcp _ h _ _ | .vrsq _ h _ _
  | .vsqrt _ h _ _ _ | .vdiv _ h _ _ _ _ | .vexp2 _ h _ _ | .vlog2 _ h _ _ | .vsinpi _ h _ _ | .vcospi _ h _ _
  | .vtanh _ h _ _ | .vrsum _ h _ _ _ | .vrmax _ h _ _ _ | .vrmin _ h _ _ _ | .vramax _ h _ _ _ | .vperm _ h _ _ _ _
  | .vxcl _ h _ _ _ _ | .vst _ h _ _ _ _ | .mcall h _ _ _ _ | .mset h _ _ | .mseti h _ _ | .mldr h _ _ _
  | .copy _ h _ _ _ _ _ _ | .coll _ h _ _ _ _ _ _ | .rstrp _ h _ _ _ _ _ _ | .cryp _ h _ _ _ _ _ _
  | .kjoin _ h _ _ _ _ _ _ | .kcancel _ h _ | .kdetach _ h _ | .kprio _ h _ _ | .kstat _ h _ _ _ | .kack _ h _
  | .ldr _ h _ _ _ _ | .str _ h _ _ _ _ | .vldr _ h _ _ _ _ | .vstr _ h _ _ _ _ | .amow _ h _ _ _ _
  | .amod _ h _ _ _ _ | .cas _ h _ _ _ _ | .famo _ h _ _ _ _ | .lda _ h _ _ _ _ | .strl _ h _ _ _ _ | .flip h
  | .fence h _ _ | .kwait h _ _ | .kwaitch h _ _ | .hwaitf h _ _ | .hwaite h _ _ | .hadvr h _ _ | .hadvw h _ _
  | .hexpect h _ _ | .hptr h _ _ _ | .bar h _ | .xlat h _ _ | .xmov h _ _ | .srd h _ _ | .swr h _ _ | .trap h _
  | .rett h | .hwin h _ | .segb h | .sege h _ _ | .iinv h _ | .xregRd h _ _ _ _ _ | .xregWr h _ _ _ _ _
  | .saveph h _ _ | .loadph h _ _ | .wait h _ _ _ | .signal h _ _ _ | .pairset h _ _ _ | .bkpt h _ | .halt h => some h
  | _ => none

/-- The instruction is guarded off: a memory access by lanes with no active lane that takes part, VEXT with its element's
lane inactive, any other vector instruction with no active lane, and an instruction of another slot with its guard off (R36,
R37, R140, R163). -/
def guardedOff (s : State) (h : Hdr) : Instr → Prop
  | .vld _ _ _ _ _ m | .vldr _ _ _ _ _ m => partLanes m.toNat false (s.lanes h) = 0
  | .vst _ _ _ _ _ m | .vstr _ _ _ _ _ m => partLanes m.toNat true (s.lanes h) = 0
  | .vext _ _ _ _ b t =>
    let w := tyWidth t.toNat
    let k := (s.me.s b.toNat).toNat % (4096 / w)
    (s.lanes h).getLsbD (if w = 64 then 2 * k else k * w / 32) = false
  | i => match s.laneWidth i with
    | some w => elLanes w (s.lanes h) = 0
    | none => s.guardOn h = false

/-- The word itself is illegal here, which no guard excuses (R38): an instruction of SVC elsewhere, BAR in SVC (R71), CRYP
outside the control cores (R69), an index of SRD or SWR that is not assigned (R389), LSETI of more than 32 bits (R108). -/
def illegalWord (s : State) : Instr → Prop
  | .rett _ | .xregRd _ _ _ _ _ _ | .xregWr _ _ _ _ _ _ | .saveph _ _ _ | .loadph _ _ _ => s.cx ≠ .svc
  | .bar _ _ => s.cx = .svc
  | .cryp _ _ _ _ _ _ _ _ => isControl s.focus = false
  | .srd _ _ j | .swr _ _ j => s.sysReg j.toNat = none
  | .lseti _ _ i => 0xFFFFFFFF < s.immU 0 i
  | _ => False

end Sys2Proof.Claims

/-- A transfer of control issues on any operands: the bundle goes on at its target, CALL and CALLI put the address of the
next bundle into LR, CALLI reading its register first, and nothing else changes (R103, R104). -/
def Sys2Proof.Claims.BranchesTransfer : Prop :=
  ∀ (i : Instr) (s : State) (h : Hdr) (target : Word64) (links : Bool),
    branchOf s i = some (h, target, links) → s.guardOn h = true →
    ∃ t, Issues i s t ∧ t.iss = { s.iss with next := some target, taken := true, out := .issued }
      ∧ t.me = (if links then { s.me with lr := s.me.pc + 32 } else s.me)
      ∧ KeepsCore s t ∧ KeepsMemory s t

/-- BRI and CALLI with a register, and RET with an LR, that is no multiple of 32 raise MISALIGNED with it as INFO (R103). -/
def Sys2Proof.Claims.BranchTargetTraps : Prop :=
  ∀ (s : State) (h : Hdr) (a : BitVec 5), s.guardOn h = true →
    (∀ i, i = .bri h a ∨ i = .calli h a → (s.me.s a.toNat).toNat % 32 ≠ 0 →
      ∃ t, exec i s = .next t ∧ t.iss.out = .trapped 6 0 6 (s.me.s a.toNat) ∧ t.iss.next = s.iss.next
        ∧ (s.cx ≠ .svc → t.kore = s.kore.takeTrap s.cx 6 0 (s.me.s a.toNat) s.me.pc false true))
    ∧ (s.me.lr.toNat % 32 ≠ 0 →
      ∃ t, exec (.ret h) s = .next t ∧ t.iss.out = .trapped 6 0 6 s.me.lr ∧ t.iss.next = s.iss.next
        ∧ (s.cx ≠ .svc → t.kore = s.kore.takeTrap s.cx 6 0 s.me.lr s.me.pc false true))

/-- MOVLR form 1 and LTSET issue on any operands: LR takes the scalar, TAIL the low 8 bits of the immediate, and nothing
else changes (R105, R109). -/
def Sys2Proof.Claims.LinkAndTailWrites : Prop :=
  ∀ (s : State) (h : Hdr) (a : BitVec 5) (i : BitVec 13), s.guardOn h = true →
    (∃ t, Issues (.movlrWrite h a) s t ∧ t.me.lr = s.me.s a.toNat
      ∧ ChangesOnly (fun x y => { y with lr := x.lr }) s t)
    ∧ (∃ t, Issues (.ltset h i) s t ∧ t.me.tail.toNat = i.toNat % 256
      ∧ ChangesOnly (fun x y => { y with tail := x.tail }) s t)

/-- LOOP issues whatever its counter holds: at zero it changes nothing and control goes on; above zero the counter takes
one less, as a result of latency 1 that needs no queue entry, and control goes to its target (R111). -/
def Sys2Proof.Claims.LoopCounts : Prop :=
  ∀ (s : State) (h : Hdr) (c : BitVec 2) (o : BitVec 16), s.guardOn h = true →
    let n := s.me.lc c.toNat
    (n = 0 → exec (.loop h c o) s = .next (s.setIss { s.iss with out := .issued }))
    ∧ (n ≠ 0 → Room s (keyLc c.toNat) false 0 →
      ∃ t, Issues (.loop h c o) s t
        ∧ TakesResult (keyLc c.toNat) ((n - 1).setWidth 4096) (BitVec.allOnes 128) 0 1 s t
        ∧ t.iss = { s.iss with next := some (s.me.pc + 32 * s.immS 0 o), taken := true, out := .issued }
        ∧ WritesOnly [keyLc c.toNat] s t)

/-- LOOPF issues whatever its counter and TAIL hold, and owes a flip. While the counter is above zero the counter takes
one less; while it or TAIL is above zero the bundle goes to its target, and under ROT the stage predicate takes ones for
a counted pass and zeros for a drain pass, the flip then rotating; TAIL falls, with the flip, on a drain pass only; at the
end of the loop no register changes and control goes on (R51, R110). -/
def Sys2Proof.Claims.LoopfCountsAndOwesAFlip : Prop :=
  ∀ (s : State) (h : Hdr) (c : BitVec 2) (o : BitVec 16), s.guardOn h = true →
    let n := s.me.lc c.toNat
    let counts := n ≠ 0
    let go := n ≠ 0 ∨ s.me.tail ≠ 0
    let stage := regKey 1 (8 + (15 - s.me.rpos.toNat) % 8)
    (counts → Room s (keyLc c.toNat) false 0) → (go → s.me.rot = true → Room s stage false 0) →
    ∃ t, Issues (.loopf h c o) s t
      ∧ t.iss.flip = some { issued := s.me.clock, ftl := decide (¬counts ∧ go),
                            frot := decide (go ∧ s.me.rot = true) }
      ∧ (t.iss.next = if go then some (s.me.pc + 32 * s.immS 0 o) else s.iss.next)
      ∧ (counts → (t.me.two (keyLc c.toNat)).w = true
        ∧ ((s.me.two (keyLc c.toNat)).stamp = none →
            (t.me.two (keyLc c.toNat)).hid = (n - 1).setWidth 4096))
      ∧ (go → s.me.rot = true → (t.me.two stage).w = true
        ∧ ((s.me.two stage).stamp = none →
            (t.me.two stage).hid.setWidth 128 = if counts then BitVec.allOnes 128 else 0))
      ∧ (¬counts → (t.me.two (keyLc c.toNat)) = (s.me.two (keyLc c.toNat)))
      ∧ (¬go → t.me = s.me)
      ∧ t.me.tail = s.me.tail ∧ t.me.rpos = s.me.rpos
      ∧ WritesOnly [keyLc c.toNat, stage] s t

/-- FLIP owes a flip from its bundle's issue and changes no register and no memory (R20, R112). -/
def Sys2Proof.Claims.FlipIsOwed : Prop :=
  ∀ (s : State) (h : Hdr), s.guardOn h = true →
    ∃ t, Issues (.flip h) s t ∧ t.iss = { s.iss with flip := some { issued := s.me.clock }, out := .issued }
      ∧ OnlyLatch s t

/-- NOP does nothing, and PFX, IMX and MARK only tell their bundle their fields (R58, R72 to R76). -/
def Sys2Proof.Claims.PrefixWordsReachTheirBundle : Prop :=
  ∀ (i : Instr) (s : State) (l : Latch), prefixOf s.iss i = some l →
    ∃ t, Issues i s t ∧ t.iss = { l with out := .issued } ∧ OnlyLatch s t

/-- An instruction of slots 0 to 6 that is guarded off issues and changes nothing: no register, no queue entry, no memory, no
flip, and no fault, whatever its operands and whatever it would have needed; only a word that is itself illegal in its context
or on its core raises ILLEGAL_INSTR whatever the guard, and has no other effect (R37, R38, R69, R71, R108, R389). -/
def Sys2Proof.Claims.GuardedOffInstructionsDoNothing : Prop :=
  ∀ (i : Instr) (s : State) (h : Hdr), headerOf i = some h → guardedOff s h i →
    (¬ illegalWord s i → exec i s = .next (s.setIss { s.iss with out := .issued }))
    ∧ (illegalWord s i → ∃ t n info, exec i s = .next t ∧ t.iss.out = .trapped 1 n 1 info
        ∧ (s.cx ≠ .svc → t.kore = s.kore.takeTrap s.cx 1 n info s.me.pc false true))

/-- The flip of a context in whose queue every due entry has its value: what is due lands, every register with W set
exchanges its faces and loses W, every other keeps them; entries come one flip nearer, and those that become due set W of
their register for the new phase; every region declared before the flip's bundle exchanges its halves; and PHN counts it
(R20, R28, R222). The register table is in canonical form. -/
def Obligations.FlipExchangesFaces : Prop :=
  ∀ (x : Ctx), Tbl.wf {} x.regs = true → (∀ e ∈ x.pwq, e.rem = 0 → e.val.isSome = true) →
    let y := (x.pwq.filter (fun e => e.rem == 0)).foldl Ctx.landEntry x
    x.flip.phn = x.phn + 1
    ∧ (∀ key, (x.flip.two key).vis = (if (y.two key).w then (y.two key).hid else (y.two key).vis)
        ∧ (x.flip.two key).hid = (if (y.two key).w then (y.two key).vis else (y.two key).hid)
        ∧ ((x.flip.two key).w = true ↔ ∃ e ∈ x.pwq, e.reg = key ∧ e.rem = 1))
    ∧ x.flip.pwq = (x.pwq.filter (fun e => e.rem != 0)).map (fun e => { e with rem := e.rem - 1 })
    ∧ (∀ j, Tbl.wf {} x.pairs = true → (Tbl.get {} x.pairs j).en = true → (Tbl.get {} x.pairs j).fresh = false →
        (Tbl.get {} x.flip.pairs j).sel = !(Tbl.get {} x.pairs j).sel)
    ∧ x.flip.lr = x.lr ∧ x.flip.pc = x.pc ∧ x.flip.tail = x.tail ∧ x.flip.rpos = x.rpos ∧ x.flip.stamp = x.stamp

/-- Every operation on registers keeps their table in canonical form: a result, an expected value, a landing and a flip. -/
def Sys2Proof.Claims.RegisterOperationsKeepTheForm : Prop :=
  ∀ (x : Ctx), Tbl.wf {} x.regs = true →
    (∀ key v lanes land ready, Tbl.wf {} (x.writeReg key v lanes land ready).regs = true)
    ∧ (∀ key lanes land acc, Tbl.wf {} (x.expect key lanes land acc).regs = true)
    ∧ (∀ now, Tbl.wf {} (x.settle now).regs = true)
    ∧ (∀ acc v ready poison, Tbl.wf {} (x.deliver acc v ready poison).regs = true)
    ∧ Tbl.wf {} x.flip.regs = true

/-- A value that comes later in the phase prevails: one with an older stamp than the write that last set the hidden face
is discarded, and never changes the register again (R32). -/
def Sys2Proof.Claims.LaterWritesPrevail : Prop :=
  ∀ (x : Ctx) (key : Nat) (v : Vec) (lanes : Pred) (q stamp : BitVec 32),
    (x.two key).stamp = some q →
    (olderStamp stamp q = true → x.landIn key v lanes stamp = x)
    ∧ (olderStamp stamp q = false →
      ((x.landIn key v lanes stamp).two key).stamp = some stamp
      ∧ ((x.landIn key v lanes stamp).two key).hid = mergeFor key lanes v (x.two key).vis)

/-- A result that meets another write due in its phase raises DOUBLE_WRITE with the register's DESC when PHCTL.DWT is set,
before any effect of its own; with DWT clear it only sets PHS.DW (R33, R34). -/
def Sys2Proof.Claims.DoubleWriteTraps : Prop :=
  ∀ (i : Instr) (s : State) (h : Hdr) (d : BitVec 5) (v : Word64) (lat : Nat),
    scalarValue s i = some (h, d, v, lat) → s.guardOn h = true → d ≠ 0 →
    (h.land ≠ 0 → s.me.pwq.length < Config.pwqDepth) →
    s.me.collides (keyS d.toNat) h.land.toNat = true →
    (s.me.dwt = true → ∃ t, exec i s = .next t
      ∧ t.iss.out = .trapped 5 7 3 (BitVec.ofNat 64 (8 * d.toNat))
      ∧ (s.cx ≠ .svc → t.kore = s.kore.takeTrap s.cx 3 7 (BitVec.ofNat 64 (8 * d.toNat)) s.me.pc false true))
    ∧ (s.me.dwt = false → ∃ t, Issues i s t ∧ t.me.dw = true)

/-- A step runs the instruction that the bytes at the PC decode to: where the one instruction of the fetched bundle is
`i`, its slots are judged by `exec i` in the state before the bundle; where that issues and nothing bars the bundle from the
cycle, the step is `exec i` and then what the bundle's issue adds (the PC, the stamp, the counts and the owed flip: commit);
where `i` traps, the step ends in its trap; where `i` holds, the bundle is held one more cycle (R40, R41, R42, R79). Where its clauses rest on choices or inferences of the model, these are log entries 10 and 130. -/
def Obligations.StepRunsDecodedInstruction : Prop :=
  ∀ (s u t : State) (ws : List Word32) (n : Nat) (i : Instr),
    Reaches s u ws n i → exec i u = .next t →
    (t.iss.out = .issued →
      (u.kore.isPrimary u.cx = true ∨ u.kore.primAt ≠ u.me.clock ∨ u.kore.primMask &&& occupancy ws = 0) →
      ∀ t', exec i (judged u) = .next t' →
        (t'.iss.out = .issued → step s = .next (closeStep s (t'.commit u.me)))
        ∧ (∀ st sl code info, t'.iss.out = .trapped st sl code info → step s = .next (closeStep s (t'.traceRun u.me)))
        ∧ (∀ r, t'.iss.out = .held r → step s = .next (closeStep s (u.slotHold r t'))))
    ∧ (∀ st sl code info, t.iss.out = .trapped st sl code info → (∀ h, i ≠ .halt h) →
      step s = .next (closeStep s (t.traceRun u.me)))
    ∧ (∀ r, t.iss.out = .held r → step s = .next (closeStep s (u.slotHold r t)))

/-- When a bundle has issued, the next one stands 32 bytes on, or where its branch goes; the stamp and the bundle count go
up by one, escaping operations of the bundle are noted, and without a flip the next bundle may issue one cycle later (R22,
R32, R40, R106, R381). Where its clauses rest on choices or inferences of the model, these are log entries 19 and 20. -/
def Obligations.IssuedBundleMovesOn : Prop :=
  ∀ (s : State) (b : Ctx), s.iss.svc = none → s.me.dueTrap = none →
    let t := s.commit b
    t.me.pc = s.iss.next.getD (s.me.pc + 32) ∧ t.me.stamp = s.me.stamp + 1 ∧ t.me.bundles = s.me.bundles + 1
    ∧ (s.iss.flip = none → t.me.clock = s.me.clock + 1 ∧ t.me.phn = s.me.phn ∧ t.me.owed = none
        ∧ t.me.esc = (s.me.esc || s.iss.esc))

namespace Sys2Proof.Claims

/-! ### C-slot accesses -/

/-- The place of a scalar access of a C slot that passes its checks: aligned, mapped and permitted (`need`: R 1, W 2), an
atomic never in the doorbell space (R218, R235, R248, R254). -/
def placeOf (s : State) (un : CUnit) (e size need : Nat) : Option Loc :=
  if e % size ≠ 0 then none
  else match un with
    | .c0 => (s.remote s.strand.gang e size).map fun p => .tess p.1 p.2
    | .c1 => match s.translate s.focus s.cx e need with
      | .error _ => none
      | .ok (pa, plc) => if need = 3 ∧ isBell pa = true then none else some (.mem pa plc)

/-- The places of a vector access of a C slot, one for each lane taking part, in lane order; none where a lane fails a
check (R248, R253). -/
def placesOf (s : State) (un : CUnit) (need : Nat) : List (Nat × Word64) → Option (List Piece)
  | [] => some []
  | l :: ls => match placeOf s un l.2.toNat 4 need, placesOf s un need ls with
    | some p, some ps => some (⟨p, 4 * l.1, 4⟩ :: ps)
    | _, _ => none

/-- What an access is on record as (R249): guard and lanes, slot, destination key and delay, operation, bytes, operand,
places, scope, and what a watchpoint compares. -/
structure AccRes where
  h      : Hdr
  un     : CUnit
  key    : Nat := 0
  op     : AccOp
  size   : Nat
  val    : Nat := 0
  pieces : List Piece
  lanes  : Pred := BitVec.allOnes 128
  scope  : Option Nat := none
  vector : Bool := false
  cls    : Nat
  runs   : List (Nat × Nat)

/-- An atomic on its address (R254). -/
def atomicOf (s : State) (un : CUnit) (h : Hdr) (d a : BitVec 5) (size val : Nat) (op : AccOp) : Option AccRes :=
  (placeOf s un (s.me.s a.toNat).toNat size 3).map fun p =>
    { h := h, un := un, key := keyS d.toNat, op := op, size := size, val := val, pieces := [⟨p, 0, size⟩], cls := 62,
      runs := [((s.me.s a.toNat).toNat, size)] }

/-- The access that a C-slot memory instruction makes; none where its checks fail, or where no active lane of a vector
access takes part (R140, R247 to R259). -/
def accessOf (s : State) : Instr → Option AccRes
  | .ldr un h t a w o =>
    let e := (s.me.s a.toNat + BitVec.ofNat 64 (s.immU (cnum un) o * sizeOfW w)).toNat
    (placeOf s un e (sizeOfW w) 1).map fun p =>
      { h := h, un := un, key := keyS t.toNat, op := .load (decide (w.toNat < 4)), size := sizeOfW w,
        pieces := [⟨p, 0, sizeOfW w⟩], cls := 60, runs := [(e, sizeOfW w)] }
  | .str un h t a w o =>
    let e := (s.me.s a.toNat + BitVec.ofNat 64 (s.immU (cnum un) o * sizeOfW w)).toNat
    (placeOf s un e (sizeOfW w) 2).map fun p =>
      { h := h, un := un, op := .store, size := sizeOfW w, val := (s.me.s t.toNat).toNat % 256 ^ sizeOfW w,
        pieces := [⟨p, 0, sizeOfW w⟩], cls := 61, runs := [(e, sizeOfW w)] }
  | .lda un h t a c o =>
    let e := (s.me.s a.toNat + BitVec.ofNat 64 (s.immU (cnum un) o * 8)).toNat
    (placeOf s un e 8 1).map fun p =>
      { h := h, un := un, key := keyS t.toNat, op := .load false, size := 8, pieces := [⟨p, 0, 8⟩],
        scope := some c.toNat, cls := 60, runs := [(e, 8)] }
  | .strl un h t a c o =>
    let e := (s.me.s a.toNat + BitVec.ofNat 64 (s.immU (cnum un) o * 8)).toNat
    (placeOf s un e 8 2).map fun p =>
      { h := h, un := un, op := .store, size := 8, val := (s.me.s t.toNat).toNat, pieces := [⟨p, 0, 8⟩],
        scope := some c.toNat, cls := 61, runs := [(e, 8)] }
  | .amow un h d a b f => atomicOf s un h d a 4 ((s.me.s b.toNat).toNat % 2 ^ 32) (.amo f.toNat)
  | .amod un h d a b f => atomicOf s un h d a 8 (s.me.s b.toNat).toNat (.amo f.toNat)
  | .cas un h d a b f =>
    let size := if f = 0 then 4 else 8
    atomicOf s un h d a size ((s.me.s b.toNat).toNat % 256 ^ size) (.cas ((s.me.s d.toNat).toNat % 256 ^ size))
  | .famo un h d a b f =>
    let size := if f = 1 ∨ f = 4 then 8 else 4
    atomicOf s un h d a size ((s.me.s b.toNat).toNat % 256 ^ size) (.famo f.toNat)
  | .vldr un h t a b m =>
    let ls := lanesOf s h m a b false
    if partLanes m.toNat false (s.lanes h) = 0 then none else (placesOf s un 1 ls).map fun ps =>
      { h := h, un := un, key := s.me.keyV t.toNat, op := .load false, size := 512, pieces := ps,
        lanes := partLanes m.toNat false (s.lanes h), vector := true, cls := 60, runs := ls.map fun l => (l.2.toNat, 4) }
  | .vstr un h t a b m =>
    let ls := lanesOf s h m a b true
    if partLanes m.toNat true (s.lanes h) = 0 then none else (placesOf s un 2 ls).map fun ps =>
      { h := h, un := un, op := .store, size := 512, val := (s.me.v t.toNat).toNat, pieces := ps, vector := true,
        cls := 61, runs := ls.map fun l => (l.2.toNat, 4) }
  | _ => none

/-- The register expects the value of access `acc` (R26, R29, R33): nothing for key 0; otherwise a queue entry whatever
its LAND, due at once for LAND 0, and no register changes a face. -/
structure Expects (key : Nat) (lanes : Pred) (land acc : Nat) (s t : State) : Prop where
  zero  : key = 0 → t.me = s.me
  entry : key ≠ 0 → t.me.pwq = s.me.pwq ++ [{ reg := key, rem := land, stamp := s.me.stamp, lanes := lanes, acc := acc }]
  due   : key ≠ 0 → (t.me.two key).w = (decide (land = 0) || (s.me.two key).w)
  faces : ∀ k, (t.me.two k).vis = (s.me.two k).vis ∧ (t.me.two k).hid = (s.me.two k).hid
  other : ∀ k, k ≠ key → t.me.two k = s.me.two k
  dw    : key ≠ 0 → t.me.dw = (s.me.dw || s.me.collides key land)

/-- The frame of an issued access: of the context, registers and queue; of the core, the records of outstanding accesses
and the event counters; no byte of any memory. -/
structure IssuesAccess (s t : State) : Prop extends KeepsPart s t where
  memory  : KeepsMemory s t
  core    : { t.kore.setCtx s.cx s.me with accs := s.kore.accs, nextId := s.kore.nextId, pmc := s.kore.pmc } = s.kore
  context : { t.me with regs := s.me.regs, pwq := s.me.pwq, dw := s.me.dw } = s.me

/-- An instruction's guard is on; an access by lanes has in its lanes already what its guard leaves on (R36, R37). -/
def onFor (s : State) (vector : Bool) (h : Hdr) : Prop := vector = false → s.guardOn h = true

/-- The cycle in which the value of an access that performs while its context stands at cycle `now` is ready: at least 40
after issue in C0 and 250 in C1, and in C0 at most 160 (R45, R249). -/
def readyCycle (a : Access) (now : Nat) : Nat :=
  match a.un with
  | .c0 => min (max now (a.issued + 40)) (a.issued + 160)
  | .c1 => max now (a.issued + 250)

/-- What an own, complete or remote steering instruction asks for: KCANCEL 0, KDETACH 1, KPRIO 2, KACK 3 (R342). -/
def steerOf : Instr → Option (CUnit × Hdr × BitVec 4 × Nat × Nat)
  | .kcancel un h a => some (un, h, a, 0, 0)
  | .kdetach un h a => some (un, h, a, 1, 0)
  | .kprio un h a i => some (un, h, a, 2, i.toNat)
  | .kack un h a => some (un, h, a, 3, 0)
  | _ => none

/-- The core's hod `j` admits an instruction of the context in focus: enabled, its own or not private, not overflowed
(R318, R346). -/
def HodOpen (s : State) (j : BitVec 5) : Prop :=
  (s.kore.hod j.toNat).en = true ∧ ((s.kore.hod j.toNat).priv = true → (s.kore.hod j.toNat).own = bankOf s.cx)
    ∧ (s.kore.hod j.toNat).ovf = false

/-- The frame of an instruction that changes one hod of its core, and at most the ordering of its context. -/
structure ChangesHod (j : Nat) (s t : State) : Prop extends KeepsPart s t where
  memory  : KeepsMemory s t
  core    : { t.kore.setCtx s.cx s.me with hods := s.kore.hods } = s.kore
  others  : ∀ i, i ≠ j → t.kore.hod i = s.kore.hod i
  context : { t.me with must := s.me.must } = s.me

/-- The frame of an instruction that only takes on the order of what it has waited for. -/
def OnlyOrder (s t : State) : Prop :=
  KeepsCore s t ∧ KeepsMemory s t ∧ { t.me with must := s.me.must } = s.me

/-- The frame of an instruction that reads the own tessera for a flag: only the order that the context takes on with what it
has read, and the banks that the primary claims with the accesses that they put off (R47, R271, R349). -/
structure OnlyReads (s t : State) : Prop extends KeepsPart s t where
  memory  : KeepsMemory s t
  core    : { t.kore.setCtx s.cx s.me with
              claims := s.kore.claims, claimAt := s.kore.claimAt, delayed := s.kore.delayed } = s.kore
  context : { t.me with must := s.me.must, notes := s.me.notes, heard := s.me.heard } = s.me

/-- A line of the own tessera may be read for a packet, a routine or a flag: no access of an earlier bundle waits before
it, the primary claims none of its banks in this cycle, and the line holds no error (R43, R47, R326, R380). -/
abbrev MayReadOwn (s : State) (lines : List Nat) : Prop :=
  (∀ d ∈ s.kore.delayed, d.cx = s.cx → s.me.bundles ≤ d.bundle)
    ∧ (s.kore.isPrimary s.cx = true ∨ s.kore.claimAt ≠ s.me.clock ∨ ∀ l ∈ lines, l % 96 ∉ s.kore.claims)
    ∧ ∀ l ∈ lines, l ∉ s.kore.badTess ∧ l ∉ s.kore.softTess ∧ (0, l) ∉ s.kore.ce

/-- A scalar access of a C slot: unit, header, key of the register that it writes (0 for none), address, bytes and the
permissions that it needs (R 1, W 2) (R247, R252, R254, R259). -/
def scalarAccess (s : State) : Instr → Option (CUnit × Hdr × Nat × Word64 × Nat × Nat)
  | .ldr un h t a w o => some (un, h, keyS t.toNat, s.addrFM (cnum un) a o (sizeOfW w), sizeOfW w, 1)
  | .str un h _ a w o => some (un, h, 0, s.addrFM (cnum un) a o (sizeOfW w), sizeOfW w, 2)
  | .lda un h t a _ o => some (un, h, keyS t.toNat, s.addrFM (cnum un) a o 8, 8, 1)
  | .strl un h _ a _ o => some (un, h, 0, s.addrFM (cnum un) a o 8, 8, 2)
  | .amow un h d a _ _ => some (un, h, keyS d.toNat, s.me.s a.toNat, 4, 3)
  | .amod un h d a _ _ => some (un, h, keyS d.toNat, s.me.s a.toNat, 8, 3)
  | .cas un h d a _ f => some (un, h, keyS d.toNat, s.me.s a.toNat, if f = 0 then 4 else 8, 3)
  | .famo un h d a _ f => some (un, h, keyS d.toNat, s.me.s a.toNat, if f = 1 ∨ f = 4 then 8 else 4, 3)
  | _ => none

/-- A vector access of a C slot: unit, header, key of the register that it writes, its lanes with their addresses, mode, and
the permission that it needs (R253). -/
def laneAccess (s : State) : Instr → Option (CUnit × Hdr × Nat × List (Nat × Word64) × Nat × Nat)
  | .vldr un h t a b m => some (un, h, s.me.keyV t.toNat, lanesOf s h m a b false, m.toNat, 1)
  | .vstr un h _ a b m => some (un, h, 0, lanesOf s h m a b true, m.toNat, 2)
  | _ => none

/-- The instruction traps at step 6 of R79 from slot `n` with a code and INFO, before any effect of its own. -/
def TrapsAtSix (i : Instr) (s u : State) (n code : Nat) (info : Word64) : Prop :=
  exec i s = .next u ∧ u.iss.out = .trapped 6 n code info

end Sys2Proof.Claims

/-- Every load, store and atomic of the C slots issues on operands that pass its checks: it is put on record with its
operation, bytes, operand, places and scope, its register expects the value through a queue entry, and no register face
and no byte of memory changes before the access performs (R26, R29, R247 to R259). Where its clauses rest on a choice or an inference of the model, that is log entry 12. -/
def Obligations.AccessesGoOnRecord : Prop :=
  ∀ (i : Instr) (s : State) (r : AccRes),
    accessOf s i = some r → onFor s r.vector r.h → (r.un = .c1 → s.me.walk = none) →
    Room s r.key true r.h.land.toNat → s.watch r.cls (cSpace r.un) r.runs = none →
    ∃ (t : State) (a : Access), Issues i s t
      ∧ t.kore.accs = s.kore.accs ++ [a] ∧ t.kore.nextId = s.kore.nextId + 1
      ∧ a.id = s.kore.nextId ∧ a.cx = s.cx ∧ a.un = r.un ∧ a.op = r.op ∧ a.size = r.size ∧ a.val = r.val
      ∧ a.pieces = r.pieces ∧ a.scope = r.scope ∧ a.vector = r.vector ∧ a.writes = decide (r.key ≠ 0)
      ∧ a.bundle = s.me.bundles ∧ a.issued = s.me.clock ∧ a.got = 0 ∧ a.poison = false
      ∧ Expects r.key r.lanes r.h.land.toNat s.kore.nextId s t
      ∧ IssuesAccess s t

/-- A load, store or atomic of a C slot whose address is no multiple of its size raises MISALIGNED before any mapping check; a
C0 one whose address names no byte of its gang's tesserae raises UNMAPPED; a C1 one that translation refuses raises UNMAPPED or
PERM, as does an atomic in the doorbell space, and sets TADDR to its line and TVEC to its kind and bit 0. A vector access does
so for its lanes in lane order, each check for all of them before the next: INFO is the address of the lowest lane that fails,
TADDR the lowest failing line, and TVEC the lines that fail (R218, R235, R248, R253, R254). -/
def Sys2Proof.Claims.AccessTraps : Prop :=
  (∀ (i : Instr) (s : State) (un : CUnit) (h : Hdr) (key : Nat) (e : Word64) (size need : Nat),
    scalarAccess s i = some (un, h, key, e, size, need) → s.guardOn h = true → (un = .c1 → s.me.walk = none) →
    Room s key true h.land.toNat →
    (e.toNat % size ≠ 0 → ∃ u, TrapsAtSix i s u (cnum un) 6 e
        ∧ (s.cx ≠ .svc → u.kore = s.kore.takeTrap s.cx 6 (cnum un) e s.me.pc false true))
    ∧ (e.toNat % size = 0 → un = .c0 → s.remote s.strand.gang e.toNat size = none → ∃ u, TrapsAtSix i s u 4 4 e
        ∧ (s.cx ≠ .svc → u.kore = s.kore.takeTrap s.cx 4 4 e s.me.pc false true))
    ∧ (∀ code, e.toNat % size = 0 → un = .c1 → s.translate s.focus s.cx e.toNat need = .error code →
        ∃ u, TrapsAtSix i s u 5 code e
          ∧ (s.cx ≠ .svc → u.me.taddr.toNat = 64 * (e.toNat / 64) % 2 ^ 48 ∧ u.me.tvecKind = decide (code = 5) ∧ u.me.tvec = 1))
    ∧ (∀ pa plc, e.toNat % size = 0 → un = .c1 → need = 3 → s.translate s.focus s.cx e.toNat need = .ok (pa, plc) →
        isBell pa = true → ∃ u, TrapsAtSix i s u 5 5 e
          ∧ (s.cx ≠ .svc → u.me.taddr.toNat = 64 * (e.toNat / 64) % 2 ^ 48 ∧ u.me.tvecKind = true ∧ u.me.tvec = 1)))
  ∧ (∀ (i : Instr) (s : State) (un : CUnit) (h : Hdr) (key : Nat) (ls : List (Nat × Word64)) (m need : Nat) (l : Nat × Word64),
    laneAccess s i = some (un, h, key, ls, m, need) → (un = .c1 → s.me.walk = none) → Room s key true h.land.toNat →
    let aligned := ∀ k ∈ ls, k.2.toNat % 4 = 0
    let fails := fun (code : Nat) => ls.filter fun k => s.translate s.focus s.cx k.2.toNat need = .error code
    (ls.find? (fun k => k.2.toNat % 4 != 0) = some l → ∃ u, TrapsAtSix i s u (cnum un) 6 l.2)
    ∧ (aligned → un = .c0 → ls.find? (fun k => (s.remote s.strand.gang k.2.toNat 4).isNone) = some l →
        ∃ u, TrapsAtSix i s u 4 4 l.2)
    ∧ (∀ code, code = 4 ∨ (code = 5 ∧ fails 4 = []) → aligned → un = .c1 → (fails code).head? = some l →
        ∃ u, TrapsAtSix i s u 5 code l.2
          ∧ (s.cx ≠ .svc → u.me.tvecKind = decide (code = 5)
            ∧ (∃ k ∈ fails code, u.me.taddr.toNat = 64 * (k.2.toNat / 64) % 2 ^ 48
                ∧ ∀ j ∈ fails code, k.2.toNat / 64 ≤ j.2.toNat / 64)
            ∧ ∀ j, j < 8 → (u.me.tvec.getLsbD j = true ↔ ∃ k ∈ fails code,
                lineBit m ((ls.head?.map fun k => k.2.toNat).getD 0 / 64) k.1 k.2.toNat = j))))

/-- A scalar load of a remote or own tessera performs whole: it binds the bytes that its place holds at that moment, and
delivers them, extended as R251 says, to the queue entry that waits for them; the access is then no longer outstanding
(R218, R249, R251). -/
def Sys2Proof.Claims.TesseraLoadPerforms : Prop :=
  ∀ (s : State) (c d off : Nat) (a : Access) (sx : Bool) (rest : List Access),
    (s.core c).accs = a :: rest → (∀ b ∈ rest, a.id < b.id) → (∀ u ∈ s.unripe, s.veils u c a = false) → a.un = .c0 →
    a.op = .load sx → a.scope = none → a.vector = false →
    a.pieces = [⟨.tess d off, 0, a.size⟩] → a.got = 0 → a.poison = false → a.writes = true →
    off % 64 + a.size ≤ 64 → off / 64 ∉ (s.core d).badTess → off / 64 ∉ (s.core d).softTess →
    (∀ e ∈ ((s.core c).ctx a.cx).pwq, e.acc = a.id → e.val = none ∧ e.rem ≠ 0) →
    (((s.core c).ctx a.cx).owed = none ∧ ((s.core c).ctx a.cx).dueTrap = none) →
    ∃ t, exec (.accessPerform c 0) s = .next t
      ∧ (t.core c).accs = rest
      ∧ ∃ v : Nat, v = Mem.read (s.core d).tess off a.size
        ∧ ∀ e ∈ ((s.core c).ctx a.cx).pwq, e.acc = a.id →
            { e with val := some (if sx then (BitVec.ofInt 64 (asInt (8 * a.size) v)).setWidth 4096 else BitVec.ofNat 4096 v),
                     ready := readyCycle a ((s.core c).ctx a.cx).clock } ∈ ((t.core c).ctx a.cx).pwq

/-- A scalar store to a tessera performs whole: its bytes are written at its place, every other byte of that tessera and
of every other one reads as before, and so does device memory while no STRL runs ahead of its context, but for the stores
that this one must come after and that have still to reach their homes (`must`, none of them: nothing at all); it is no longer
outstanding (R218, R252, R271). -/
def Sys2Proof.Claims.TesseraStorePerforms : Prop :=
  ∀ (s : State) (c d off : Nat) (a : Access) (rest : List Access),
    (s.core c).accs = a :: rest → (∀ b ∈ rest, a.id < b.id) → (∀ u ∈ s.unripe, s.veils u c a = false) → a.un = .c0 →
    a.op = .store → a.scope = none →
    a.pieces = [⟨.tess d off, 0, a.size⟩] → off % 64 + a.size ≤ 64 → a.writes = false →
    ((s.core c).ctx a.cx).owed = none → ((s.core c).ctx a.cx).dueTrap = none →
    ∃ t, exec (.accessPerform c 0) s = .next t
      ∧ (t.core c).accs = rest
      ∧ Mem.read (t.core d).tess off a.size = a.val % 256 ^ a.size
      ∧ (∀ p, p < off ∨ off + a.size ≤ p → Mem.byte (t.core d).tess p = Mem.byte (s.core d).tess p)
      ∧ (∀ e p, e ≠ d → Mem.byte (t.core e).tess p = Mem.byte (s.core e).tess p)
      ∧ (s.unripe = [] → (∀ p, Mem.byte t.mem p = Mem.byte (s.bringAll ((s.core c).ctx a.cx).must).mem p)
        ∧ (((s.core c).ctx a.cx).must = [] → ∀ p, Mem.byte t.mem p = Mem.byte s.mem p))

/-- An atomic on a tessera reads and writes its place in one step: memory takes the result of R255 to R257 on the old
value and the operand, and the value it returns goes to the queue entry that waits for it, sign-extended when integer and
zero-extended when floating-point (R254 to R257). -/
def Sys2Proof.Claims.AtomicsReadModifyWrite : Prop :=
  ∀ (s : State) (c d off : Nat) (a : Access) (rest : List Access),
    (s.core c).accs = a :: rest → (∀ b ∈ rest, a.id < b.id) → (∀ u ∈ s.unripe, s.veils u c a = false) → a.un = .c0 →
    a.op.isAtomic = true →
    a.pieces = [⟨.tess d off, 0, a.size⟩] → off % 64 + a.size ≤ 64 → a.got = 0 → a.poison = false → a.writes = true →
    a.vector = false → off / 64 ∉ (s.core d).badTess → off / 64 ∉ (s.core d).softTess →
    ((s.core c).ctx a.cx).owed = none → ((s.core c).ctx a.cx).dueTrap = none →
    (∀ e ∈ ((s.core c).ctx a.cx).pwq, e.acc = a.id → e.val = none ∧ e.rem ≠ 0) →
    let r := a.op.apply a.size (Mem.read (s.core d).tess off a.size) a.val
    ∃ t, exec (.accessPerform c 0) s = .next t
      ∧ (t.core c).accs = rest
      ∧ Mem.read (t.core d).tess off a.size = r.1 % 256 ^ a.size
      ∧ (∀ p, p < off ∨ off + a.size ≤ p → Mem.byte (t.core d).tess p = Mem.byte (s.core d).tess p)
      ∧ ∀ e ∈ ((s.core c).ctx a.cx).pwq, e.acc = a.id →
          { e with val := some ((match a.op with
                                 | .famo _ => BitVec.ofNat 4096 r.2
                                 | _ => (BitVec.ofInt 64 (asInt (8 * a.size) r.2)).setWidth 4096) : Vec),
                   ready := readyCycle a ((s.core c).ctx a.cx).clock } ∈ ((t.core c).ctx a.cx).pwq

/-- What the atomics compute: AMO's eight functions, CAS's exchange on equality, FAMO's sums and maxima, and the value each
returns (R255 to R257). -/
def Sys2Proof.Claims.AtomicFunctions : Prop :=
  ∀ (size m b c : Nat), 0 < size → m < 256 ^ size → b < 256 ^ size →
    (AccOp.amo 0).apply size m b = ((m + b) % 256 ^ size, m)
    ∧ (AccOp.amo 1).apply size m b = (if asInt (8 * size) b < asInt (8 * size) m then b else m, m)
    ∧ (AccOp.amo 2).apply size m b = (if asInt (8 * size) m < asInt (8 * size) b then b else m, m)
    ∧ (AccOp.amo 3).apply size m b = (b, m) ∧ (AccOp.amo 4).apply size m b = (m &&& b, m)
    ∧ (AccOp.amo 5).apply size m b = (m ||| b, m) ∧ (AccOp.amo 6).apply size m b = (m ^^^ b, m)
    ∧ (AccOp.amo 7).apply size m b = (min m b, m)
    ∧ (AccOp.cas c).apply size m b = (if m = c then b else m, m)
    ∧ (∀ fn, ((AccOp.amo fn).apply size m b).2 = m ∧ ((AccOp.amo fn).apply size m b).1 < 256 ^ size)
    ∧ (AccOp.famo 0).apply size m b = (fp32.sumNum m b, m) ∧ (AccOp.famo 1).apply size m b = (fp64.sumNum m b, m)
    ∧ (AccOp.famo 2).apply size m b = (fp32.maxNum m b, m)
    ∧ (AccOp.famo 3).apply size m b = (0, fp32.maxNum (m % 2 ^ 31) (b % 2 ^ 31))
    ∧ (AccOp.famo 4).apply size m b = (0, fp64.maxNum (m % 2 ^ 63) (b % 2 ^ 63))

/-- A write notice that may be applied reaches its die: the die's copy of the line, if it holds one, takes the bytes of
the notice's mask and the writer's stamp, the notice is gone, and no other die and no core changes (R231, R269, R270). -/
def Sys2Proof.Claims.NoticesReachTheDies : Prop :=
  ∀ (s : State) (d k : Nat) (n : Notice), (s.die d).notices[k]? = some n → (s.die d).mayApply k n = true →
    ∃ t, exec (.writeNoticeApply d k) s = .next t
      ∧ (∀ l, Tbl.get none (s.die d).lines n.line = some l →
          Tbl.get none (t.die d).lines n.line = some ⟨mergeLine l.data n.mask n.data, n.comp, n.count, markWords l.rels n.mask n.rels⟩)
      ∧ (Tbl.get none (s.die d).lines n.line = none → (t.die d).lines = (s.die d).lines)
      ∧ (∀ m ∈ (t.die d).notices, ¬ (m.comp = n.comp ∧ m.count = n.count))
      ∧ (∀ e, e ≠ d → t.die e = s.die e) ∧ t.cores = s.cores ∧ t.mem = s.mem

/-- KCANCEL, KDETACH, KPRIO and KACK issue on any token. A null, malformed or foreign token has no effect, nor one that names no
operation of the own core that has been issued; on an
operation of the own core a settled one is neither cancelled nor given a priority, a running one is marked, one not yet
running is aborted (a suspended matrix operation that holds half a latch row, once the row has its place), KDETACH marks any that is not complete, and KACK acknowledges a faulted one; for another core's
operation a request goes on record, which its core judges (R302, R304, R308 to R310, R342). -/
def Sys2Proof.Claims.SteeringInstructions : Prop :=
  ∀ (i : Instr) (s : State) (un : CUnit) (h : Hdr) (a : BitVec 4) (what pri : Nat),
    steerOf i = some (un, h, a, what, pri) → s.guardOn h = true →
    let tok := s.me.k a.toNat
    ∃ t, Issues i s t ∧ t.iss.esc = true
      ∧ (s.tokCore s.focus s.strand.gang tok = none → t.kore = s.kore)
      ∧ (s.tokCore s.focus s.strand.gang tok = some s.focus → s.kore.opOf tok = none → t.kore = s.kore)
      ∧ (∀ d, s.tokCore s.focus s.strand.gang tok = some d → d ≠ s.focus →
          ∃ r, t.kore.accs = s.kore.accs ++ [r] ∧ r.op = .steer what tok pri ∧ r.pieces = [⟨.tess d 0, 0, 0⟩])
      ∧ (∀ o, s.tokCore s.focus s.strand.gang tok = some s.focus → s.kore.opOf tok = some o →
          (what = 0 → 4 ≤ o.state → t.kore = s.kore)
          ∧ (what = 0 → o.state = 2 → o.kind ≠ .rstrp → t.kore = s.kore.setOp { o with cancel := true })
          ∧ (what = 0 → o.state = 2 → o.kind = .rstrp → t.kore = s.kore)
          ∧ (what = 0 → o.state < 4 → o.state ≠ 2 → o.newer < 64 →
              (o.state = 3 → o.kind = .mcall → s.kore.halfRow = none ∨ s.kore.latch.length < 4) →
              ∃ p ∈ t.kore.ops, p.token = tok ∧ p.state = 5)
          ∧ (what = 1 → completeCode o.state = true → t.kore = s.kore)
          ∧ (what = 1 → completeCode o.state = false → t.kore = s.kore.setOp { o with det := true })
          ∧ (what = 2 → 4 ≤ o.state → t.kore = s.kore)
          ∧ (what = 2 → o.state < 4 → t.kore = s.kore.setOp { o with pri := pri })
          ∧ (what = 3 → o.state = 6 → o.newer < 64 → ∃ p ∈ t.kore.ops, p.token = tok ∧ p.state = 7)
          ∧ (what = 3 → o.state ≠ 6 → t.kore = s.kore))

/-- KWAIT issues once the operation that its token names is settled, whatever its result, or its record has been retired;
it is held while the operation goes on, with the bound of its field or LIM; a token that names no issued operation raises
DEADWAIT with the token (R305, R322, R323, R344). -/
def Sys2Proof.Claims.KwaitWaitsForItsOperation : Prop :=
  ∀ (s : State) (h : Hdr) (a : BitVec 4) (i : BitVec 8), s.guardOn h = true →
    let tok := s.me.k a.toNat
    (∀ d o, s.tokIssued s.focus s.strand.gang tok = some d → (s.core d).opOf tok = some o →
      (4 ≤ o.state → ∃ t, Issues (.kwait h a i) s t ∧ OnlyOrder s t)
      ∧ (o.state < 4 → exec (.kwait h a i) s = .next (s.setIss { s.iss with
          out := .held 5, bound := if s.immU 6 i = 0 then s.lim else some (64 * s.immU 6 i) })))
    ∧ (∀ d, s.tokIssued s.focus s.strand.gang tok = some d → (s.core d).opOf tok = none →
      ∃ t, Issues (.kwait h a i) s t ∧ OnlyOrder s t)
    ∧ (s.tokIssued s.focus s.strand.gang tok = none →
      ∃ t, exec (.kwait h a i) s = .next t ∧ t.iss.out = .trapped 7 6 8 tok)

/-- KWAITCH issues once DONE of the channel has reached the number, or an operation up to it has faulted; it is held
before, with LIM as its bound; a number that the channel has not issued raises DEADWAIT (R303, R322, R345). -/
def Sys2Proof.Claims.KwaitchWaitsForItsChannel : Prop :=
  ∀ (s : State) (h : Hdr) (a : BitVec 5) (c : BitVec 3), s.guardOn h = true →
    let q : BitVec 32 := (s.me.s a.toNat).setWidth 32
    let issued := serialLe q (Tbl.get 0 s.me.seqs c.toNat)
    let past := serialLe q (Tbl.get 0 s.me.dones c.toNat) = true
      ∨ ∃ o ∈ s.kore.ops, o.cx = s.cx ∧ o.ch = c.toNat ∧ o.state = 6 ∧ serialLe (tokSeq o.token) q = true
    (issued = true → past → ∃ t, Issues (.kwaitch h a c) s t ∧ OnlyOrder s t)
    ∧ (issued = true → ¬past → exec (.kwaitch h a c) s
        = .next (s.setIss { s.iss with out := .held 5, bound := s.lim }))
    ∧ (issued = false → ∃ t, exec (.kwaitch h a c) s = .next t ∧ t.iss.out = .trapped 7 6 8 (q.setWidth 64))

/-- WAIT issues once the 8 bytes of the own tessera at its address meet its condition against its second register,
changing no register and no memory, and is held before with LIM as its bound, as far as the read needs no wait, meets no bank of
the primary and no error; a misaligned address and one beyond the
tessera raise MISALIGNED and UNMAPPED (R349). -/
def Sys2Proof.Claims.WaitWatchesTheTessera : Prop :=
  ∀ (s : State) (h : Hdr) (a b : BitVec 5) (f : BitVec 3), s.guardOn h = true →
    let o := s.me.s a.toNat
    let v := Mem.read s.kore.tess o.toNat 8
    let met := if f = 0 then (s.me.s b.toNat).toNat ≤ v else if f = 1 then v = (s.me.s b.toNat).toNat
      else v ≠ (s.me.s b.toNat).toNat
    (o.toNat % 8 = 0 → o.toNat < Config.tessSize → MayReadOwn s [o.toNat / 64] → met →
      ∃ t, Issues (.wait h a b f) s t ∧ OnlyReads s t)
    ∧ (o.toNat % 8 = 0 → o.toNat < Config.tessSize → MayReadOwn s [o.toNat / 64] → ¬met →
      ∃ t, exec (.wait h a b f) s = .next t ∧ t.iss.out = .held 5 ∧ t.iss.bound = s.lim ∧ OnlyReads s t)
    ∧ (o.toNat % 8 ≠ 0 → ∃ t, exec (.wait h a b f) s = .next t ∧ t.iss.out = .trapped 6 6 6 o)
    ∧ (o.toNat % 8 = 0 → Config.tessSize ≤ o.toNat →
        ∃ t, exec (.wait h a b f) s = .next t ∧ t.iss.out = .trapped 6 6 4 o)

/-- HADVW and HADVR issue on an open COUNT hod: WP or RP goes up by the register's count modulo 2^32, OVF is set when more
slots are filled than the hod has, or fewer than are freed, the release is noted, and no other hod and no register changes
(R314, R316, R346, R347). -/
def Sys2Proof.Claims.HodAdvances : Prop :=
  ∀ (s : State) (h : Hdr) (a j : BitVec 5), s.guardOn h = true → HodOpen s j → (s.kore.hod j.toNat).mode = false →
    let d := s.kore.hod j.toNat
    let n := (s.me.s a.toNat).toNat
    let filled := (d.wp - d.rp).toNat
    (∃ t, Issues (.hadvw h a j) s t ∧ (t.kore.hod j.toNat).wp = d.wp + BitVec.ofNat 32 n
      ∧ (t.kore.hod j.toNat).rp = d.rp ∧ (t.kore.hod j.toNat).ovf = decide (d.nslot.toNat < filled + n)
      ∧ (s.cx, s.me.bundles) ∈ (t.kore.hod j.toNat).pend ∧ ChangesHod j.toNat s t)
    ∧ (∃ t, Issues (.hadvr h a j) s t ∧ (t.kore.hod j.toNat).rp = d.rp + BitVec.ofNat 32 n
      ∧ (t.kore.hod j.toNat).wp = d.wp ∧ (t.kore.hod j.toNat).ovf = decide (filled < n)
      ∧ (s.cx, s.me.bundles) ∈ (t.kore.hod j.toNat).pend ∧ ChangesHod j.toNat s t)

/-- HWAITF on an open COUNT hod issues when its count is 0, or is filled and everything the counts stand for has
performed; HWAITE the same for free slots; each is held while it is not, and neither changes a count (R316, R319, R346). On
a BYTES hod HWAITF closes a complete epoch: EPOCH goes up by one, XSET falls, and with CARRY the bytes beyond stay counted
(R317). -/
def Sys2Proof.Claims.HodWaits : Prop :=
  ∀ (s : State) (h : Hdr) (a j : BitVec 5), s.guardOn h = true → HodOpen s j →
    let d := s.kore.hod j.toNat
    let n := (s.me.s a.toNat).toNat
    let filled := (d.wp - d.rp).toNat
    (d.mode = false → n ≤ d.nslot.toNat → n = 0 ∨ (n ≤ filled ∧ s.kore.hodReady d = true) →
      ∃ t, Issues (.hwaitf h a j) s t ∧ t.kore.hod j.toNat = d ∧ ChangesHod j.toNat s t)
    ∧ (d.mode = false → n ≤ d.nslot.toNat → n ≠ 0 → ¬(n ≤ filled ∧ s.kore.hodReady d = true) →
      exec (.hwaitf h a j) s = .next (s.setIss { s.iss with out := .held 5, bound := s.lim }))
    ∧ (d.mode = false → n ≤ d.nslot.toNat → n = 0 ∨ (filled + n ≤ d.nslot.toNat ∧ s.kore.hodReady d = true) →
      ∃ t, Issues (.hwaite h a j) s t ∧ t.kore.hod j.toNat = d ∧ ChangesHod j.toNat s t)
    ∧ (d.mode = false → n ≤ d.nslot.toNat → n ≠ 0 → ¬(filled + n ≤ d.nslot.toNat ∧ s.kore.hodReady d = true) →
      exec (.hwaite h a j) s = .next (s.setIss { s.iss with out := .held 5, bound := s.lim }))
    ∧ (d.mode = true → d.xset = true → d.wp.toNat ≤ d.rp.toNat → (d.rp = d.wp ∨ d.carry = true) →
      s.kore.hodReady d = true →
      ∃ t, Issues (.hwaitf h a j) s t ∧ (t.kore.hod j.toNat).epoch = d.epoch + 1
        ∧ (t.kore.hod j.toNat).xset = false ∧ (t.kore.hod j.toNat).wp = 0
        ∧ (t.kore.hod j.toNat).rp = d.rp - d.wp ∧ ChangesHod j.toNat s t)

/-- HEXPECT issues on an open BYTES hod that expects nothing yet: EXP takes the count and XSET is set; a COUNT hod, one
already set, and a count of 2^32 or more raise OPERAND_FORMAT (R317, R346). -/
def Sys2Proof.Claims.HexpectSetsTheCount : Prop :=
  ∀ (s : State) (h : Hdr) (a j : BitVec 5), s.guardOn h = true → HodOpen s j →
    let d := s.kore.hod j.toNat
    let n := s.me.s a.toNat
    (d.mode = true → d.xset = false → n.toNat < 2 ^ 32 →
      ∃ t, Issues (.hexpect h a j) s t ∧ t.kore.hod j.toNat = { d with wp := n.setWidth 32, xset := true }
        ∧ ChangesHod j.toNat s t)
    ∧ (d.mode = false ∨ d.xset = true ∨ 2 ^ 32 ≤ n.toNat →
      ∃ t, exec (.hexpect h a j) s = .next t ∧ t.iss.out = .trapped 6 6 7 0)

/-- FENCE issues and from then on holds the later bundles of its context whose operations its mask names; it changes no
register and no memory (R260, R261). -/
def Sys2Proof.Claims.FenceStartsAHold : Prop :=
  ∀ (s : State) (h : Hdr) (sc : BitVec 3) (m : BitVec 5), s.guardOn h = true →
    ∃ t, Issues (.fence h sc m) s t ∧ t.me.fences = s.me.fences ++ [(sc, m, s.me.bundles)]
      ∧ ChangesOnly (fun x y => { y with fences := x.fences }) s t

/-- BAR issues in CB0 and CB1 at any level of the gang: the context arrives at its next epoch and then waits; it changes no
register and no memory, and of the other parts of a fabric gang only what their devices are told. In SVC it is an illegal instruction, and a level that the gang lacks raises PERM with the level
(R71, R132). -/
def Sys2Proof.Claims.BarArrivesAndWaits : Prop :=
  ∀ (s : State) (h : Hdr) (v : BitVec 3),
    (s.cx ≠ .svc → s.guardOn h = true → v.toNat < s.me.nlev →
      ∃ t, Issues (.bar h v) s t ∧ t.me.barWait = some v.toNat
        ∧ Tbl.get (0, 0) t.me.arrive v.toNat = ((Tbl.get (0, 0) s.me.arrive v.toNat).1 + 1, s.me.bundles)
        ∧ ChangesOnly (fun x y => { y with barWait := x.barWait, arrive := x.arrive }) s { t with ports := s.ports }
        ∧ (isFabric (s.gang s.me.gang).levels = false → t.ports = s.ports)
        ∧ (∀ q, isFabric (s.gang s.me.gang).levels = true → q < 16 → (Tbl.get ({} : Port) s.ports q).up = true →
            (∀ r, r < q → (Tbl.get ({} : Port) s.ports r).up = false) →
            t.ports = Tbl.set {} s.ports q ((Tbl.get {} s.ports q).send (.arrive (s.gang s.me.gang).ten
              (s.gang s.me.gang).recVa.toNat (s.gang s.me.gang).nth s.me.sidx.toNat v.toNat
              ((Tbl.get (0, 0) s.me.arrive v.toNat).1 + 1)))))
    ∧ (s.cx ≠ .svc → s.guardOn h = true → s.me.nlev ≤ v.toNat →
      ∃ t, exec (.bar h v) s = .next t ∧ t.iss.out = .trapped 4 6 5 (BitVec.ofNat 64 v.toNat))
    ∧ (s.cx = .svc → ∃ t, exec (.bar h v) s = .next t ∧ t.iss.out = .trapped 1 6 1 (s.slotWord 6))

/-- SIGNAL issues on an aligned address of a tile of the gang: a release store of its register's 8 bytes, at its scope,
goes on record, and no memory changes before it performs (R348). -/
def Sys2Proof.Claims.SignalIsAReleaseStore : Prop :=
  ∀ (s : State) (h : Hdr) (a b : BitVec 5) (sc : BitVec 3) (c o : Nat), s.guardOn h = true →
    let e := (s.me.s a.toNat).toNat
    e % 8 = 0 → s.remote s.strand.gang e 8 = some (c, o) → s.watch 61 2 [(e, 8)] = none →
    (∀ q ∈ s.kore.accs, q.id < s.kore.nextId) →
    ∃ (t : State) (r : Access), Issues (.signal h a b sc) s t ∧ t.kore.accs = s.kore.accs ++ [r]
      ∧ r.op = .store ∧ r.size = 8 ∧ r.val = (s.me.s b.toNat).toNat ∧ r.pieces = [⟨.tess c o, 0, 8⟩]
      ∧ r.scope = some sc.toNat ∧ r.signal = true ∧ IssuesAccess s t

/-- XLAT issues on an address below 2^48 while no walk is in flight: XR names its slot with nothing found yet and the walk
starts; a second XLAT is held meanwhile, and a higher address raises UNMAPPED (R236, R238, R262). -/
def Sys2Proof.Claims.XlatStartsAWalk : Prop :=
  ∀ (s : State) (h : Hdr) (a : BitVec 5) (sl : BitVec 6), s.guardOn h = true →
    let v := s.me.s a.toNat
    (s.me.walk = none → v.toNat < 2 ^ 48 →
      ∃ t, Issues (.xlat h a sl) s t ∧ t.me.walk = some { va := v, slot := sl.toNat }
        ∧ t.me.xr = { w3 := BitVec.ofNat 64 (16 * sl.toNat) }
        ∧ ChangesOnly (fun x y => { y with xr := x.xr, walk := x.walk }) s t)
    ∧ (s.me.walk ≠ none → exec (.xlat h a sl) s = .next (s.setIss { s.iss with out := .held 3 }))
    ∧ (s.me.walk = none → 2 ^ 48 ≤ v.toNat →
      ∃ t, exec (.xlat h a sl) s = .next t ∧ t.iss.out = .trapped 6 6 4 v)

/-- PAIRSET issues on operands that R264 allows and that overlap no other region: its region is declared with its base,
half size and REF, both halves clean, or with CLR set is gone, and no register and no byte of memory changes (R264,
R265). -/
def Sys2Proof.Claims.PairsetDeclaresARegion : Prop :=
  ∀ (s : State) (h : Hdr) (a b : BitVec 5) (r : BitVec 3) (base half : Nat) (ref : Bool), s.guardOn h = true →
    ((s.me.s a.toNat).toNat = base → (s.me.s b.toNat).toNat = half + ref.toNat * 2 ^ 32 →
      base % 64 = 0 → half % 64 = 0 → 64 ≤ half → half ≤ 0x60000 → base + 2 * half ≤ Config.tessSize →
      (∀ e ∈ s.strand.pairs, e.1 ≠ r.toNat → e.2.en = true →
        e.2.base + 2 * e.2.half ≤ base ∨ base + 2 * half ≤ e.2.base) →
      ∃ t, Issues (.pairset h a b r) s t
        ∧ (Tbl.get {} t.strand.pairs r.toNat).en = true ∧ (Tbl.get {} t.strand.pairs r.toNat).base = base
        ∧ (Tbl.get {} t.strand.pairs r.toNat).half = half ∧ (Tbl.get {} t.strand.pairs r.toNat).ref = ref
        ∧ (Tbl.get {} t.strand.pairs r.toNat).sel = false ∧ (Tbl.get {} t.strand.pairs r.toNat).dirty0 = false
        ∧ (Tbl.get {} t.strand.pairs r.toNat).dirty1 = false
        ∧ (∀ i, i ≠ r.toNat → Tbl.get {} t.strand.pairs i = Tbl.get {} s.strand.pairs i)
        ∧ KeepsPart s t ∧ KeepsMemory s t ∧ { t.strand with pairs := s.strand.pairs } = s.strand
        ∧ { t.kore.setCtx s.strandId s.strand with nextId := s.kore.nextId } = s.kore)
    ∧ (s.me.s a.toNat = 0 → (s.me.s b.toNat).toNat = 2 ^ 33 →
      ∃ t, Issues (.pairset h a b r) s t ∧ (Tbl.get {} t.strand.pairs r.toNat).en = false
        ∧ (∀ i, i ≠ r.toNat → Tbl.get {} t.strand.pairs i = Tbl.get {} s.strand.pairs i)
        ∧ KeepsPart s t ∧ KeepsMemory s t ∧ { t.strand with pairs := s.strand.pairs } = s.strand)
    ∧ ((s.me.s a.toNat).toNat % 64 ≠ 0 → ∃ t, exec (.pairset h a b r) s = .next t ∧ t.iss.out = .trapped 6 6 7 0)

/-- IINV issues and then waits for the cores of its gang within its scope, its own among them; SEGB opens a segment with
count and signature zero; neither changes a register or a byte of memory (R387, R399, R400). -/
def Sys2Proof.Claims.InvalidateAndSegmentBegin : Prop :=
  ∀ (s : State) (h : Hdr) (sc : BitVec 3), s.guardOn h = true →
    (∃ t, Issues (.iinv h sc) s t ∧ s.focus ∈ t.me.iinv
      ∧ (∀ g c, Tbl.get none (s.gang s.strand.gang).place g = some c →
          inScope sc.toNat s.strand.gang s.strand.gtile s.strand.gang g = true → c ∈ t.me.iinv)
      ∧ ChangesOnly (fun x y => { y with iinv := x.iinv }) s t)
    ∧ (∃ t, Issues (.segb h) s t ∧ t.me.sega = true ∧ t.me.segCnt = 0 ∧ t.me.segSig = 0 ∧ t.iss.seg = true
      ∧ ChangesOnly (fun x y => { y with sega := x.sega, segCnt := x.segCnt, segSig := x.segSig }) s t)

/-- SEGE closes the segment when its two registers hold the count and the signature, and otherwise raises CHECK_FAIL with
the count above the signature; outside a segment both are compared with zero (R387, R400). -/
def Sys2Proof.Claims.SegmentEndCompares : Prop :=
  ∀ (s : State) (h : Hdr) (a b : BitVec 5), s.guardOn h = true →
    let n : BitVec 32 := if s.me.sega then s.me.segCnt else 0
    let g : BitVec 32 := if s.me.sega then s.me.segSig else 0
    let equal := (s.me.s a.toNat).toNat % 2 ^ 32 = n.toNat ∧ (s.me.s b.toNat).toNat % 2 ^ 32 = g.toNat
    (equal → ∃ t, Issues (.sege h a b) s t ∧ t.me.sega = false ∧ t.iss.seg = true
      ∧ ChangesOnly (fun x y => { y with sega := x.sega }) s t)
    ∧ (¬equal → ∃ t, exec (.sege h a b) s = .next t ∧ t.iss.out = .trapped 6 6 14 (n ++ g))

namespace Sys2Proof.Claims

/-! ### Child operations -/

/-- What an operation is queued as: header, token register, DET, channel, kind, priority, predecessor and packet. -/
structure OpRes where
  h    : Hdr
  kd   : BitVec 4
  det  : BitVec 1
  ch   : Nat
  kind : OpKind
  pri  : BitVec 2
  pred : Word64 := 0
  pk   : List Byte := []

/-- An operation with a packet at its register's offset: the packet is read as an LDS reads (R326); none where the read
traps, waits or is to be repaired. -/
def packetOp (s : State) (kind : OpKind) (h : Hdr) (k : BitVec 4) (a : BitVec 5) (p : BitVec 2) (d : BitVec 1)
    (q : BitVec 4) (c : BitVec 1) (ch : List Byte → Nat) (exts : List Byte → Nat) : Option OpRes :=
  match s.readPacket (s.me.s a.toNat) exts with
  | .error _ => none
  | .ok pk =>
    if MayReadOwn s (s.me.packetLines (s.me.s a.toNat).toNat pk.length) then
      some { h := h, kd := k, det := d, ch := ch pk, kind := kind, pri := p, pk := pk,
             pred := if c = 1 then s.me.k q.toNat else 0 }
    else none

/-- The operation that an instruction queues; none where it traps or is held: a packet that cannot be read, a walk in
flight that a COPY may need, formats that give no conversion, a routine that is not valid, a KJOIN operand out of range (R186, R298, R324 to
R341). -/
def childOf (s : State) : Instr → Option OpRes
  | .copy _ h k a p d q c =>
    (packetOp s .copy h k a p d q c (fun pk => if leAt pk 1 1 < 4 then leAt pk 1 1 else 0) extCount).bind fun r =>
      let fr := leAt r.pk 4 1 % 16
      let dst := leAt r.pk 4 1 / 16
      if (s.me.walk = none ∨ (leAt r.pk 2 1 % 8 ≠ 0 ∧ leAt r.pk 2 1 / 16 % 8 ≠ 0))
          ∧ (leAt r.pk 0 1 ≠ 1 ∨ leAt r.pk 5 1 % 2 = 0
            ∨ (s.fmt4 fr < 14 ∧ s.fmt4 dst < 14 ∧ s.fmt4 fr ≠ s.fmt4 dst)) then some r else none
  | .coll _ h k a p d q c => packetOp s .coll h k a p d q c (fun _ => 5) (fun _ => 0)
  | .rstrp _ h k a p d q c => packetOp s .rstrp h k a p d q c (fun _ => 6) (fun _ => 0)
  | .cryp _ h k a p d q c =>
    if 768 ≤ s.focus then packetOp s .cryp h k a p d q c (fun _ => 7) (fun _ => 0) else none
  | .kjoin _ h k a p d q c =>
    let v := (s.me.s a.toNat).toNat
    if v < 2 ^ 11 ∧ v % 256 ≠ 0 ∧ (v / 256 % 8 = 7 → 768 ≤ s.focus) then
      some { h := h, kd := k, det := d, ch := v / 256 % 8, kind := .kjoin, pri := p,
             pred := if c = 1 then s.me.k q.toNat else 0 }
    else none
  | .mcall h k i p d =>
    if (Tbl.get 0 s.kore.store (i.toNat / 4)).toNat / 2 ^ (16 * (i.toNat % 4)) % 65536 / 32768 = 1 then
      some { h := h, kd := k, det := d, ch := 4, kind := .mcall, pri := p }
    else none
  | _ => none

/-- The number that a channel gives its next operation (R301). -/
def nextNumber (q : BitVec 32) : Nat := if q = 0xFFFFFFFF then 1 else q.toNat + 1

/-- The token of an operation of the context in focus (R300). -/
def tokenOf (s : State) (ch seq : Nat) : Word64 :=
  BitVec.ofNat 64 (s.tokenTile s.focus / 96 * 2 ^ 49 + s.tokenTile s.focus % 96 * 2 ^ 42 + bankOf s.cx * 2 ^ 40
    + ch * 2 ^ 32 + seq)

/-- The frame of an instruction that queues an operation: of the context, the token register, the queue, the channel
numbers and what it knows of writes that it has read; of the core, the operations, the counters, and the banks claimed with
the accesses that they put off (R47); no byte of any memory. -/
structure QueuesOp (key : Nat) (s t : State) : Prop extends KeepsPart s t where
  memory  : KeepsMemory s t
  core    : { t.kore.setCtx s.cx s.me with
              ops := s.kore.ops, opOrder := s.kore.opOrder, pmc := s.kore.pmc,
              claims := s.kore.claims, claimAt := s.kore.claimAt, delayed := s.kore.delayed } = s.kore
  regs    : ∀ k, k ≠ key → t.me.two k = s.me.two k
  context : { t.me with regs := s.me.regs, pwq := s.me.pwq, dw := s.me.dw, ready := s.me.ready, seqs := s.me.seqs,
                        colls := s.me.colls, notes := s.me.notes, heard := s.me.heard } = s.me

/-! ### System registers -/

/-- The bits that a write by any context of a tile core gives a register it may write, and that a read then shows (R53,
R56, R64, R183, R388, R448, R452, R454). -/
def anyMask (i : Nat) : Option Word64 :=
  if i = 0x000 then some 0x3
  else if i = 0x003 then some 0xFF07
  else if i = 0x058 then some 0xFFFFFFFFFFFFFFFF
  else if i = 0x060 then some 0x3
  else if i = 0x061 then some 0xFFFF00FF
  else if i = 0x0B1 then some 0x0000FFFF00000F1F
  else if i = 0x0B2 then some 0x0000FFFFFFFFFFC0
  else if 0x0B5 ≤ i ∧ i ≤ 0x0B8 then some 0x0000FFFFFFFFFFFF
  else if i = 0x0BA ∨ i = 0x0BC then some 0xE000FFFFFFFFFFFF
  else if i = 0x0BB ∨ i = 0x0BD then some 0xF0000000FFFFFFFF
  else none

/-- The same for the registers that only SVC writes (R321, R373, R388, R392). -/
def svcMask (i : Nat) : Option Word64 :=
  if i = 0x063 then some 0xFFFFFFFF
  else if i = 0x0A0 then some 0x0000FFFFFFFFE000
  else if i = 0x0A5 then some 0xFFFF
  else none

/-- No two-faced register and no other field that a running program depends on changes: the frame of a register write. -/
structure KeepsProgram (s t : State) : Prop where
  memory : KeepsMemory s t
  regs   : ∀ c cx, ((t.core c).ctx cx).regs = ((s.core c).ctx cx).regs
  queue  : ∀ c cx, ((t.core c).ctx cx).pwq = ((s.core c).ctx cx).pwq
  link   : ∀ c cx, ((t.core c).ctx cx).lr = ((s.core c).ctx cx).lr
  pc     : ∀ c cx, ((t.core c).ctx cx).pc = ((s.core c).ctx cx).pc
  cores  : ∀ c, c ≠ s.focus → t.core c = s.core c

end Sys2Proof.Claims

/-- COPY, COLL, RSTRP, CRYP (on a control core), KJOIN and MCALL issue while their channel has room: the operation joins
the end of its channel's queue in state QUEUED, with its priority, predecessor, ownership bits and packet, whatever the
packet says; the channel's number goes up and the token register takes its token; no other register and no byte of memory
changes (R186, R298 to R302, R324 to R341). -/
def Sys2Proof.Claims.OperationsAreQueued : Prop :=
  ∀ (i : Instr) (s : State) (r : OpRes),
    childOf s i = some r → s.guardOn r.h = true → s.kore.depth r.ch < chDepth r.ch →
    Room s (keyK r.kd.toNat) (decide (0 < r.h.land.toNat)) r.h.land.toNat →
    ∃ (t : State) (o : ChildOp), Issues i s t ∧ t.kore.ops = s.kore.ops ++ [o]
      ∧ o.kind = r.kind ∧ o.ch = r.ch ∧ o.state = 1 ∧ o.cx = s.cx ∧ o.pri = r.pri.toNat ∧ o.det = (r.det == 1)
      ∧ o.pred = r.pred ∧ o.packet = r.pk ∧ o.owner = 0 ∧ o.ownerSidx = s.strand.sidx.toNat ∧ o.gang = s.strand.gang
      ∧ o.order = s.kore.opOrder + 1 ∧ t.kore.opOrder = s.kore.opOrder + 1
      ∧ o.token = tokenOf s r.ch (nextNumber (Tbl.get 0 s.me.seqs r.ch))
      ∧ (Tbl.get 0 t.me.seqs r.ch).toNat = nextNumber (Tbl.get 0 s.me.seqs r.ch)
      ∧ (∀ c, c ≠ r.ch → Tbl.get 0 t.me.seqs c = Tbl.get 0 s.me.seqs c)
      ∧ (t.me.two (keyK r.kd.toNat)).vis = (s.me.two (keyK r.kd.toNat)).vis
      ∧ (r.h.land = 0 → s.me.overtaken (keyK r.kd.toNat) s.me.stamp = false →
          (t.me.two (keyK r.kd.toNat)).hid = o.token.setWidth 4096 ∧ (t.me.two (keyK r.kd.toNat)).w = true)
      ∧ (r.h.land ≠ 0 → ∃ e, t.me.pwq = s.me.pwq ++ [e] ∧ e.reg = keyK r.kd.toNat ∧ e.rem = r.h.land.toNat
          ∧ e.val = some (o.token.setWidth 4096))
      ∧ QueuesOp (keyK r.kd.toNat) s t

/-- While its channel is full an instruction that queues an operation is held, and queues nothing: it has only read its
packet (R298, R324). -/
def Sys2Proof.Claims.FullChannelsHold : Prop :=
  ∀ (i : Instr) (s : State) (r : OpRes),
    childOf s i = some r → s.guardOn r.h = true → chDepth r.ch ≤ s.kore.depth r.ch →
    ∃ t, exec i s = .next t ∧ t.iss.out = .held 7 ∧ OnlyReads s t

/-- A packet whose address is no multiple of 64 raises MISALIGNED with the address; MCALL of a routine whose directory
entry is not valid raises OPERAND_FORMAT; CRYP outside the control cores is an illegal instruction (R69, R186, R326). -/
def Sys2Proof.Claims.OperationTraps : Prop :=
  ∀ (s : State) (un : CUnit) (h : Hdr) (k q : BitVec 4) (a : BitVec 5) (p : BitVec 2) (d c : BitVec 1) (i : BitVec 10),
    (s.guardOn h = true → Room s (keyK k.toNat) (decide (0 < h.land.toNat)) h.land.toNat → MayReadOwn s [] →
      (s.me.s a.toNat).toNat % 64 ≠ 0 →
      ∀ j, j = .copy un h k a p d q c ∨ j = .coll un h k a p d q c ∨ j = .rstrp un h k a p d q c →
        ∃ t, exec j s = .next t ∧ t.iss.out = .trapped 6 (cnum un) 6 (s.me.s a.toNat)
          ∧ (s.cx ≠ .svc → t.kore.ops = s.kore.ops))
    ∧ (s.guardOn h = true →
        (Tbl.get 0 s.kore.store (i.toNat / 4)).toNat / 2 ^ (16 * (i.toNat % 4)) % 65536 / 32768 ≠ 1 →
        ∃ t, exec (.mcall h k i p d) s = .next t ∧ t.iss.out = .trapped 3 3 7 0)
    ∧ (s.focus < 768 → ∃ t, exec (.cryp un h k a p d q c) s = .next t
        ∧ t.iss.out = .trapped 1 (cnum un) 1 (s.slotWord (cnum un)))

/-- SWR by any context of a tile core gives the registers that any context writes the bits R388 lets it write, and a read
then shows them; every other register of R388 keeps its value but TRST, which a write of TRRB clears; no two-faced
register, queue, PC or byte of memory changes (R389, R448). A write of MXCFG is held while the matrix channel is busy
(R183), judged on the state before its bundle (R41). -/
def Sys2Proof.Claims.SwrWritesItsRegister : Prop :=
  ∀ (s : State) (h : Hdr) (d : BitVec 5) (i : BitVec 10) (m : Word64),
    s.guardOn h = true → anyMask i.toNat = some m → s.focus < 768 → s.kore.servedId ≠ .svc →
    (i = 0x060 → s.kore.matrixBusy = true → s.iss.judged = false →
      exec (.swr h d i) s = .next (s.setIss { s.iss with out := .held 8 }))
    ∧ ((i = 0x060 → s.kore.matrixBusy = false ∨ s.iss.judged = true) →
      ∃ t, Issues (.swr h d i) s t ∧ t.iss.esc = true
        ∧ t.sysReg i.toNat = some (s.me.s d.toNat &&& m)
        ∧ (∀ j, j ≠ i.toNat → ¬ (i = 0x0B2 ∧ j = 0x0B3) → t.sysReg j = s.sysReg j)
        ∧ KeepsProgram s t)

/-- SWR in SVC gives WDT, HVB and INTM the bits that R388 lets it write, clears the bits of INTP that are ones in its
value, and sets STRM's SECBND, a bound of 1 to 15 reading as 16, and its PRIM from the next cycle on (R48, R49, R321,
R373, R388, R392). -/
def Sys2Proof.Claims.SvcWritesItsRegisters : Prop :=
  ∀ (s : State) (h : Hdr) (d : BitVec 5) (i : BitVec 10),
    s.cx = .svc → s.guardOn h = true → s.focus < 768 →
    let v := s.me.s d.toNat
    (∀ m, svcMask i.toNat = some m → ∃ t, Issues (.swr h d i) s t ∧ t.sysReg i.toNat = some (v &&& m) ∧ KeepsProgram s t)
    ∧ (∃ t, Issues (.swr h d 0x0A4) s t ∧ t.kore.intp = s.kore.intp &&& ~~~ (v.setWidth 16) ∧ KeepsProgram s t)
    ∧ (∃ t, Issues (.swr h d 0x008) s t ∧ t.kore.prim = s.kore.prim ∧ t.kore.settlePrim.prim = v.getLsbD 0
        ∧ t.kore.primSet = some (v.getLsbD 0, s.me.clock)
        ∧ t.kore.secbnd.toNat = (let b := v.toNat / 2 ^ 16 % 2 ^ 16; if 1 ≤ b ∧ b ≤ 15 then 16 else b)
        ∧ KeepsProgram s t)

/-- SWR outside SVC leaves the registers that only SVC writes, and SWR on a tile core the device registers of the control
cores, as they are: a write to a register that its writer may not write has no effect (R9, R388, R389). -/
def Sys2Proof.Claims.SwrKeepsForeignRegisters : Prop :=
  ∀ (s t : State) (h : Hdr) (d : BitVec 5) (i : BitVec 10), exec (.swr h d i) s = .next t → t.iss.out = .issued →
    (s.cx ≠ .svc → t.kore.prim = s.kore.prim ∧ t.kore.primSet = s.kore.primSet ∧ t.kore.secbnd = s.kore.secbnd ∧ t.kore.hvb = s.kore.hvb
      ∧ t.kore.intp = s.kore.intp ∧ t.kore.intm = s.kore.intm ∧ t.me.wdt = s.me.wdt ∧ t.me.rcnt = s.me.rcnt)
    ∧ (s.focus < 768 → t.geot = s.geot ∧ t.dtq = s.dtq ∧ t.dtc = s.dtc ∧ t.rcls = s.rcls ∧ t.scrbPer = s.scrbPer
      ∧ t.scrbEn = s.scrbEn ∧ t.plim = s.plim ∧ t.tlim = s.tlim ∧ t.dies = s.dies)
    ∧ (t.me.phn = s.me.phn ∧ t.me.clock = s.me.clock ∧ t.me.tfb = s.me.tfb ∧ t.me.lidx = s.me.lidx
      ∧ t.me.sidx = s.me.sidx ∧ t.me.gloc = s.me.gloc ∧ t.me.taddr = s.me.taddr ∧ t.me.tvec = s.me.tvec)

/-- SRD and SWR of an index that is not assigned on their core and context raise ILLEGAL_INSTR with the slot's word,
whatever the guard (R38, R389). -/
def Sys2Proof.Claims.UnassignedRegistersTrap : Prop :=
  ∀ (s : State) (h : Hdr) (d : BitVec 5) (i : BitVec 10), s.sysReg i.toNat = none →
    (∃ t, exec (.srd h d i) s = .next t ∧ t.iss.out = .trapped 1 6 1 (s.slotWord 6))
    ∧ (∃ t, exec (.swr h d i) s = .next t ∧ t.iss.out = .trapped 1 6 1 (s.slotWord 6))

/-- MLDR with a grant and good operands begins to copy once the matrix channel is empty, holding its bundle; when its
words have come and every valid entry of the store then passes verification it issues: the store's words from its first
take the tessera's, every other word stays, and nothing else changes but the hold's record, the errors of the words written
over, and the banks claimed (R47, R190, R191). Without the grant
it raises PERM with its operand; with no words, or past the store's end, OPERAND_FORMAT. Where its clauses rest on choices or inferences of the model, these are log entries 43, 46 and 111. -/
def Obligations.MldrLoadsTheStore : Prop :=
  ∀ (s : State) (h : Hdr) (d a b : BitVec 5), s.guardOn h = true →
    let n := (s.me.s d.toNat).toNat
    let o := (s.me.s a.toNat).toNat
    let w := (s.me.s b.toNat).toNat
    (s.strand.mlgr = false → ∃ t, exec (.mldr h d a b) s = .next t ∧ t.iss.out = .trapped 4 3 5 (s.me.s a.toNat))
    ∧ (s.strand.mlgr = true → o % 8 = 0 → o + 8 * n ≤ Config.tessSize → s.me.ownOk o (8 * n) = true →
      (n = 0 ∨ 16384 < w + n → ∃ t, exec (.mldr h d a b) s = .next t ∧ t.iss.out = .trapped 6 3 7 0)
      ∧ (n ≠ 0 → w + n ≤ 16384 → MayReadOwn s (s.me.physLines false [⟨o, 0, 8 * n⟩]) →
        (s.kore.mldrAt = none → s.kore.depth 4 = 0 →
          ∃ t, exec (.mldr h d a b) s = .next t ∧ t.iss.out = .held 8
            ∧ t.iss.mldr = some (s.me.clock + (n + 7) / 8 + 1) ∧ OnlyReads s t)
        ∧ (∀ c, s.kore.mldrAt = some (s.cx, c) → c ≤ s.me.clock → storeOk (s.kore.loaded s.me o w n) = true →
          ∃ t, Issues (.mldr h d a b) s t ∧ t.kore.mldrAt = none
            ∧ (∀ j, j < n → Tbl.get 0 t.kore.store (w + j) = BitVec.ofNat 64 (s.kore.loadOwn s.me (o + 8 * j) 8))
            ∧ (∀ j, j < w ∨ w + n ≤ j → Tbl.get 0 t.kore.store j = Tbl.get 0 s.kore.store j)
            ∧ KeepsPart s t ∧ KeepsMemory s t
            ∧ (∀ j, j < w ∨ w + n ≤ j → (j ∈ t.kore.badStore ↔ j ∈ s.kore.badStore))
            ∧ { t.kore with
                store := s.kore.store, mldrAt := s.kore.mldrAt, badStore := s.kore.badStore, soft := s.kore.soft,
                ce := s.kore.ce, claims := s.kore.claims, claimAt := s.kore.claimAt,
                delayed := s.kore.delayed } = s.kore)))

/-- HWIN with the number of the oldest ingress record removes it and stores its bytes at the record's offset as an STS
would, in its issue cycle; it is held while there is none, and while an access of its context waits; another number raises
OPERAND_FORMAT; no register changes (R292, R398). -/
def Sys2Proof.Claims.HwinStoresARecord : Prop :=
  ∀ (s : State) (h : Hdr) (a : BitVec 5), s.guardOn h = true →
    (s.kore.ingress = [] → exec (.hwin h a) s = .next (s.setIss { s.iss with out := .held 5, bound := s.lim }))
    ∧ (∀ r rest, s.kore.ingress = r :: rest →
      let phys := fun i => ownPhys s false true (r.ofs + i)
      ((s.me.s a.toNat).toNat % 2 ^ 32 ≠ r.seq.toNat →
        ∃ t, exec (.hwin h a) s = .next t ∧ t.iss.out = .trapped 6 6 7 0)
      ∧ ((s.me.s a.toNat).toNat % 2 ^ 32 = r.seq.toNat →
        (∀ i, i < r.data.length → (s.me.mapOwn true (r.ofs + i)).isSome = true) →
        ((∃ d ∈ s.kore.delayed, d.cx = s.cx) → exec (.hwin h a) s = .next (s.setIss { s.iss with out := .held 10 }))
        ∧ ((∀ d ∈ s.kore.delayed, d.cx ≠ s.cx) → AtOnce s false true (offsFrom r.ofs r.data.length) →
          ∃ t, Issues (.hwin h a) s t ∧ t.iss.esc = true ∧ t.kore.ingress = rest
            ∧ (∀ i, i < r.data.length → (∀ j, i < j → j < r.data.length → phys j ≠ phys i) →
                ownByte t false (phys i) = r.data.getD i 0)
            ∧ (∀ p, (∀ i, i < r.data.length → phys i ≠ p) → ownByte t false p = ownByte s false p)
            ∧ t.kore.acm = s.kore.acm
            ∧ StoresOwn s (t.setKore { t.kore with ingress := s.kore.ingress }))))

/-- TRAP issues with its bundle and names its service code; once the bundle has issued, SVCALL is raised with that code
and slot 7, its frame's PC the next bundle's. BKPT raises DEBUG with its code before any effect of its bundle, its frame's
PC the bundle's own, and its phase escapes (R368, R369, R381, R394). -/
def Sys2Proof.Claims.TrapAndBreakpoint : Prop :=
  ∀ (s : State) (h : Hdr) (i : BitVec 13), s.guardOn h = true →
    (∃ t, Issues (.trap h i) s t ∧ t.iss.svc = some (BitVec.ofNat 64 (s.immU 6 i)) ∧ t.iss.esc = true ∧ OnlyLatch s t)
    ∧ (∀ (u : State) (b : Ctx) (code : Word64), u.iss.svc = some code → u.cx ≠ .svc →
        let v := ({ u with iss := { u.iss with svc := none } } : State).commit b
        (u.commit b).kore = v.kore.takeTrap u.cx 17 7 code v.me.pc false false)
    ∧ (∃ t, exec (.bkpt h i) s = .next t ∧ t.iss.out = .trapped 8 7 16 (BitVec.ofNat 64 (s.immU 6 i))
        ∧ (s.cx ≠ .svc →
            t.kore = (s.kore.setCtx s.cx { s.me with esc := true }).takeTrap s.cx 16 7 (BitVec.ofNat 64 (s.immU 6 i))
              s.me.pc false true))

/-- The context with the values of its queue that are due and good in their registers (R24, R28). -/
def Sys2Proof.Claims.dueLanded (x : Ctx) : Ctx :=
  (x.pwq.filter (fun (e : Pwq) => e.rem == 0 && e.val.isSome && !e.poison)).foldl Ctx.landEntry x

/-- HALT outside SVC ends its strand when none of the strand's attached operations is unsettled or faulted: values that are
due land, reads and entries still pending are dropped, and the gang has one strand fewer, or is done with its last; with an operation
unsettled it is held, and a faulted one raises CHILD_FAULT with its token (R310, R311, R357, R401). -/
def Sys2Proof.Claims.HaltEndsTheStrand : Prop :=
  ∀ (s : State) (h : Hdr), s.guardOn h = true → s.cx ≠ .svc →
    ((∀ o ∈ s.attached, 4 ≤ o.state ∧ o.state ≠ 6) →
      ∃ t, Issues (.halt h) s t ∧ t.me.halted = true ∧ t.me.pwq = []
        ∧ (∀ a ∈ t.kore.accs, a.cx = s.cx → a.op.isRead = false)
        ∧ (∀ d ∈ t.kore.delayed, d.cx = s.cx → d.store = true)
        ∧ (∀ key, t.me.two key = (dueLanded s.me).two key)
        ∧ ((∀ e ∈ s.me.pwq, e.rem ≠ 0) → ∀ key, t.me.two key = s.me.two key)
        ∧ (s.me.gang ≠ 0 → (t.gang s.me.gang).unhalted = (s.gang s.me.gang).unhalted - 1
            ∧ ((s.gang s.me.gang).unhalted ≤ 1 → (t.gang s.me.gang).state = 7)))
    ∧ ((∃ o ∈ s.attached, o.state < 4) → exec (.halt h) s = .next (s.setIss { s.iss with out := .held 13 }))
    ∧ (∀ o, (∀ p ∈ s.attached, 4 ≤ p.state) → s.attached.find? (fun p => p.state == 6) = some o →
      ∃ t, exec (.halt h) s = .next t ∧ t.iss.out = .trapped 6 6 15 o.token)

/-- RETT, XREG, SAVEPH and LOADPH outside SVC are illegal instructions (R71). -/
def Sys2Proof.Claims.SvcOnlyInstructionsTrap : Prop :=
  ∀ (s : State) (h : Hdr) (d a : BitVec 5) (f c : BitVec 1) (k : BitVec 3) (i : Instr), s.cx ≠ .svc →
    i = .rett h ∨ i = .xregRd h d a f c k ∨ i = .xregWr h d a f c k ∨ i = .saveph h a c ∨ i = .loadph h a c →
    ∃ t, exec i s = .next t ∧ t.iss.out = .trapped 1 6 1 (s.slotWord 6)
      ∧ t.kore = s.kore.takeTrap s.cx 1 6 (s.slotWord 6) s.me.pc false true

/-- XREG form 1 in SVC, on a context it may reach, replaces the named face of the named register and nothing else of it:
its other face, W, selector and stamp stay, and so does every other register; the target's phase escapes. A predicate's
halves are written one at a time, and s0 not at all (R381, R396). -/
def Sys2Proof.Claims.XregWritesAFace : Prop :=
  ∀ (s : State) (h : Hdr) (d a : BitVec 5) (f c : BitVec 1) (k : BitVec 3),
    s.cx = .svc → s.guardOn h = true → s.reachable (ctxBit c) = true →
    let key := xregKey k a
    let x := s.kore.ctx (ctxBit c)
    let v := (s.me.s d.toNat).toNat
    let old := ((x.two key).face (f == 1)).toNat
    ∃ t, Issues (.xregWr h d a f c k) s t
      ∧ (let y := t.kore.ctx (ctxBit c)
        (key = 0 → y.regs = x.regs)
        ∧ (key ≠ 0 → (y.two key).face (f == 1) = BitVec.ofNat 4096
            (if k = 1 then old / 2 ^ 64 * 2 ^ 64 + v else if k = 2 then old % 2 ^ 64 + v * 2 ^ 64
              else if k = 5 then v % 2 ^ 32 else v))
        ∧ (y.two key).face (!(f == 1)) = (x.two key).face (!(f == 1))
        ∧ (y.two key).w = (x.two key).w ∧ (y.two key).sel = (x.two key).sel ∧ (y.two key).stamp = (x.two key).stamp
        ∧ (∀ q, q ≠ key → y.two q = x.two q)
        ∧ y.esc = true ∧ { y with regs := x.regs, esc := x.esc } = x)
      ∧ t.kore.setCtx (ctxBit c) x = s.kore ∧ KeepsPart s t ∧ KeepsMemory s t

/-- The lines of `n` bytes from offset `b` on. -/
def Sys2Proof.Claims.linesOf (b n : Nat) : List Nat := (List.range ((n + 63) / 64)).map (b / 64 + ·)

/-- SAVEPH in SVC, on a context it may reach with nothing in flight, stores the context's image at its address once it need
not wait: it begins with FORMAT 1 and its length, and changes no other byte and no register (R43, R47, R397). While
something of the target is in flight it is held. -/
def Sys2Proof.Claims.SavephStoresTheImage : Prop :=
  ∀ (s : State) (h : Hdr) (a : BitVec 5) (c : BitVec 1),
    s.cx = .svc → s.guardOn h = true →
    let b := (s.me.s a.toNat).toNat
    let img := (s.kore.ctx (ctxBit c)).image
    (s.kore.inFlight (ctxBit c) = true → exec (.saveph h a c) s = .next (s.setIss { s.iss with out := .held 15 }))
    ∧ (s.kore.inFlight (ctxBit c) = false → s.reachable (ctxBit c) = true → b % 64 = 0 → b + img.length ≤ Config.tessSize →
      AtOnce s false false [] → (s.kore.isPrimary s.cx = true ∨ s.kore.claimAt ≠ s.me.clock
        ∨ ∀ l ∈ linesOf b img.length, l % 96 ∉ s.kore.claims) →
      ∃ t, Issues (.saveph h a c) s t ∧ Mem.bytes t.kore.tess b img.length = img ∧ img.length % 64 = 0
        ∧ Mem.read t.kore.tess b 8 = 1 ∧ Mem.read t.kore.tess (b + 8) 4 = img.length
        ∧ (∀ p, p < b ∨ b + img.length ≤ p → Mem.byte t.kore.tess p = Mem.byte s.kore.tess p)
        ∧ { t.kore with tess := s.kore.tess, claims := s.kore.claims, claimAt := s.kore.claimAt,
                        delayed := s.kore.delayed } = s.kore ∧ KeepsPart s t)

/-- LOADPH in SVC, on a context it may reach with nothing in flight, and with a valid image at its address, gives that
context the image's LR, XR, PHN, FMTT, WDT and both faces of every scalar register, and its phase escapes; its PC, stamp and
identity stay, and so does every byte of memory (R381, R397). -/
def Sys2Proof.Claims.LoadphRestoresTheImage : Prop :=
  ∀ (s : State) (h : Hdr) (a : BitVec 5) (c : BitVec 1),
    s.cx = .svc → s.guardOn h = true → s.reachable (ctxBit c) = true → s.kore.inFlight (ctxBit c) = false →
    let b := (s.me.s a.toNat).toNat
    let m := s.kore.tess
    let x := s.kore.ctx (ctxBit c)
    let len := max 0xA000 (Mem.read m (b + 8) 4)
    b % 64 = 0 → b + len ≤ Config.tessSize → imageOk m b = true → MayReadOwn s (linesOf b len) →
    ∃ t, Issues (.loadph h a c) s t
      ∧ (let y := t.kore.ctx (ctxBit c)
        y.lr = BitVec.ofNat 64 (Mem.read m (b + 0x40) 8)
        ∧ y.xr = ⟨BitVec.ofNat 64 (Mem.read m (b + 0x48) 8), BitVec.ofNat 64 (Mem.read m (b + 0x50) 8),
                  BitVec.ofNat 64 (Mem.read m (b + 0x58) 8), BitVec.ofNat 64 (Mem.read m (b + 0x60) 8)⟩
        ∧ y.phn = BitVec.ofNat 64 (Mem.read m (b + 0x78) 8) ∧ y.fmtt = BitVec.ofNat 64 (Mem.read m (b + 0x98) 8)
        ∧ y.wdt = BitVec.ofNat 32 (Mem.read m (b + 0xA0) 8)
        ∧ (∀ n, 0 < n → n < 32 → (y.two (keyS n)).f0 = BitVec.ofNat 4096 (Mem.read m (b + 0x180 + 16 * n) 8)
            ∧ (y.two (keyS n)).f1 = BitVec.ofNat 4096 (Mem.read m (b + 0x188 + 16 * n) 8))
        ∧ y.esc = true ∧ y.pc = x.pc ∧ y.stamp = x.stamp ∧ y.gang = x.gang ∧ y.sidx = x.sidx ∧ y.tfb = x.tfb)
      ∧ { t.kore.setCtx (ctxBit c) x with
          nextId := s.kore.nextId, claims := s.kore.claims, claimAt := s.kore.claimAt,
          delayed := s.kore.delayed } = s.kore ∧ KeepsPart s t ∧ KeepsMemory s t

/-- A trap that is entered writes its frame at the context's frame base: TINFO with CODE, SLOT, the bank and the
asynchronous bit, the PC, INFO, the issue stamp and PHN; SVC goes on at HVB plus 256 times the code, and serves the
context, which stops with every register face as it was; no byte of the tessera outside the frame changes (R367, R372 to
R374). -/
def Sys2Proof.Claims.TrapEntryWritesTheFrame : Prop :=
  ∀ (k : Core) (cx : CtxId) (code slot : Nat) (info pc : Word64) (async : Bool),
    cx ≠ .svc → code < 256 → slot < 8 → ¬ (code = 16 ∧ (k.ctx cx).claimed = true) →
    (k.ctx cx).pwq.length ≤ 48 → ((k.ctx cx).pwq.filter (fun e => e.val.isNone)).length ≤ 16 →
    let b := (k.ctx cx).tfb.toNat
    let u := k.enter cx code slot info pc async
    Mem.read u.tess b 8 % 256 = code ∧ Mem.read u.tess b 8 / 256 % 8 = slot
    ∧ Mem.read u.tess b 8 / 2048 % 4 = bankOf cx ∧ Mem.read u.tess b 8 / 8192 % 2 = async.toNat
    ∧ Mem.read u.tess (b + 8) 8 = pc.toNat ∧ Mem.read u.tess (b + 16) 8 = info.toNat
    ∧ Mem.read u.tess (b + 24) 8 = (k.ctx cx).stamp.toNat ∧ Mem.read u.tess (b + 32) 8 = (k.ctx cx).phn.toNat
    ∧ (∀ p, p < b ∨ b + 0x880 ≤ p → Mem.byte u.tess p = Mem.byte k.tess p)
    ∧ u.serving = some (cx, code)
    ∧ u.svc.pc = BitVec.ofNat 64 (k.hvb.toNat / 8192 * 8192 + 256 * code) ∧ u.svc.trapped = false
    ∧ (u.ctx cx).trapped = true ∧ (∀ key, (u.ctx cx).two key = (k.ctx cx).two key)
    ∧ u.ctx (otherCtx cx) = k.ctx (otherCtx cx) ∧ u.acm = k.acm ∧ u.lintel = k.lintel

/-- A trap raised while SVC is free, no trap of the other context is being taken and nothing of its context is awaited is
entered at once: raising leads to entry, with the bundle's PC, and no slot of its bundle takes effect (R42, R368, R372). -/
def Sys2Proof.Claims.RaisedTrapsAreEntered : Prop :=
  ∀ (k : Core) (cx : CtxId) (code slot : Nat) (info pc : Word64),
    cx ≠ .svc → k.serving = none → (k.ctx (otherCtx cx)).dueTrap = none → k.entryReady cx = true →
    ¬ (code = 16 ∧ (k.ctx cx).claimed = true) →
    let u := k.takeTrap cx code slot info pc false true
    u.serving = some (cx, code) ∧ u.svc.pc = BitVec.ofNat 64 (k.hvb.toNat / 8192 * 8192 + 256 * code)
    ∧ (u.ctx cx).trapped = true ∧ (u.ctx cx).dueTrap = none ∧ (∀ key, (u.ctx cx).two key = (k.ctx cx).two key)

/-- RETT in SVC, with no entry of its own pending, and with a valid frame, as it stood before the bundle, that names no load
and whose lines it may read, gives the served context back the
frame's PC, as a bundle address, and its stamp, and frees SVC; with no entry in the frame and nothing owed, every register face is as the handler
left it (R376, R395). -/
def Sys2Proof.Claims.TrapReturn : Prop :=
  ∀ (s : State) (h : Hdr) (cx : CtxId) (code : Nat),
    s.cx = .svc → s.guardOn h = true → s.me.pwq = [] → s.kore.serving = some (cx, code) → cx ≠ .svc →
    (s.kore.ctx (otherCtx cx)).dueTrap = none →
    let m := s.iss.before.getD s.kore.tess
    let x := s.kore.ctx cx
    let b := x.tfb.toNat
    MayReadOwn s (frameLines b) → frameOk m b = true → Mem.read m b 8 / 2 ^ 27 % 32 = 0 →
    ∃ t, Issues (.rett h) s t
      ∧ t.kore.serving = none ∧ t.kore.svc.trapped = true
      ∧ (t.kore.ctx cx).pc = BitVec.ofNat 64 (Mem.read m (b + 8) 8 / 32 * 32)
      ∧ (t.kore.ctx cx).stamp = BitVec.ofNat 32 (Mem.read m (b + 24) 8)
      ∧ (t.kore.ctx cx).trapped = false
      ∧ (Mem.read m b 8 / 2 ^ 21 % 64 = 0 → Mem.read m b 8 / 2 ^ 14 % 2 = 0 →
          (t.kore.ctx cx).pwq = [] ∧ ∀ key, (t.kore.ctx cx).two key = (x.two key))
      ∧ KeepsMemory s t

/-- RETT in SVC with a frame that it may read and that breaks its layout is an SVC fault: no context goes on, and the gang, which must hold one,
is marked as escalated and, while it runs, pre-empted (R368, R376, R377). -/
def Sys2Proof.Claims.BrokenFrameStopsTheGang : Prop :=
  ∀ (s : State) (h : Hdr) (cx : CtxId) (code : Nat),
    s.cx = .svc → s.guardOn h = true → s.me.pwq = [] → s.kore.serving = some (cx, code) →
    MayReadOwn s (frameLines (s.kore.ctx cx).tfb.toNat) →
    frameOk (s.iss.before.getD s.kore.tess) (s.kore.ctx cx).tfb.toNat = false → (s.kore.ctx cx).gang ≠ 0 →
    ∃ t, exec (.rett h) s = .next t ∧ t.kore.svc.trapped = true ∧ t.iss.out ≠ .issued
      ∧ (t.gang (s.kore.ctx cx).gang).escal = true
      ∧ ((s.gang (s.kore.ctx cx).gang).state = 3 → (t.gang (s.kore.ctx cx).gang).state = 4
          ∧ ∀ g c, (g, some c) ∈ (s.gang (s.kore.ctx cx).gang).place → ∀ x, x ≠ .svc →
              ((s.core c).ctx x).gang = (s.kore.ctx cx).gang → ((s.core c).ctx x).halted = false →
              ((t.core c).ctx x).preempt = true)

namespace Sys2Proof.Claims

/-! ### The matrix array -/

/-- A routine runs on the core in focus for the operation `o`, and its end does not wait for the row latch. -/
def Running (s : State) (o : ChildOp) (r : Routine) : Prop := s.mxRun = some (o, r) ∧ r.ending = none

/-- The routine goes on at its next word. -/
def onward (r : Routine) : Routine := { r with word := r.word + 1, waited := 0, drained := 0 }

/-- Only the routine of the core in focus changes, to `r`. -/
def RoutineIs (r : Routine) (s t : State) : Prop :=
  t.kore.mx = r ∧ { t.kore with mx := s.kore.mx } = s.kore ∧ KeepsPart s t

/-- A format field of FMTS: code 15 takes the format that the operation read from FMTT at lc0 (R186, R194). -/
def fmtsCode (o : ChildOp) (c : BitVec 4) : Nat := if c = 15 then o.fmtt.toNat / 16 ^ o.lc0 % 16 else c.toNat

/-- A combination of MODE, A format and B format that R194 allows. -/
def fmtsLegal (mode a b : Nat) : Prop :=
  (mode = 0 ∧ (a = 12 ∨ a = 13) ∧ (b = 12 ∨ b = 13)) ∨ (mode = 1 ∧ (a = 12 ∨ a = 13) ∧ b = 14)
    ∨ (mode = 2 ∧ a = 9 ∧ b = 9) ∨ (mode = 3 ∧ a = 8 ∧ b = 8) ∨ (mode = 4 ∧ a = 10 ∧ b = 10) ∨ (mode = 5 ∧ a = 11 ∧ b = 11)

/-- The routine after a micro-operation that only sets its parameters (R194 to R196, R202); none where it faults. -/
def parameters (o : ChildOp) (r : Routine) : Instr → Option Routine
  | .fmts mode af bf =>
    if fmtsOk mode.toNat (fmtsCode o af) (fmtsCode o bf) then
      some { r with mode := some mode.toNat, afmt := fmtsCode o af, bfmt := fmtsCode o bf, w0 := [], w1 := [], part := [],
                    marks := [], kv := 0 }
    else none
  | .afet pa pitch ord swz =>
    some { r with abase := (r.q.getD pa.toNat 0).toNat, pitch := pitch.toNat, ord := ord == 1, swz := swz == 1 }
  | .bsel pb rofs srow ssrow =>
    some { r with bcur := r.q.getD pb.toNat 0 + BitVec.ofNat 64 rofs.toNat, srow := srow.toNat, ssrow := ssrow.toNat }
  | .padd pd src ps imm =>
    some { r with q := r.q.set pd.toNat (r.q.getD pd.toNat 0
      + (if src = 1 then r.q.getD ps.toNat 0 else imm.signExtend 64)) }
  | _ => none

/-- The operation `o` of the core in focus has ended in a state with a cause. -/
def Ended (s t : State) (o : ChildOp) (state cause : Nat) : Prop :=
  t.kore.mx = {} ∧ ∃ p ∈ t.kore.ops, p.token = o.token ∧ p.state = state ∧ p.cause = cause
    ∧ (state = 6 → p.addr = BitVec.ofNat 64 s.kore.mx.word)

/-- The A operands of row `m` of a row-step of `n` elements, when their bytes may be read (R182, R195). -/
def aOperands (s : State) (o : ChildOp) (r : Routine) (mode m n : Nat) : Option (List FVal) :=
  match r.aRow (s.moverOf s.focus o) (modeW mode) m n with
  | .error _ => none
  | .ok ps => if ps.any (fun e => e.any fun p => s.kore.badTess.contains (p / 64)) then none
    else some (ps.map fun e => (mxFmt r.afmt).val (numAt s.kore.tess e))

end Sys2Proof.Claims

/-- FMTS with a legal combination, AFET, BSEL and PADD of a running routine set their parameters, FMTS with both banks and
the partials cleared, and the routine goes on at the next word; nothing else changes (R194 to R196, R202). -/
def Sys2Proof.Claims.RoutineParameters : Prop :=
  ∀ (i : Instr) (s : State) (o : ChildOp) (r u : Routine), Running s o r → parameters o r i = some u →
    ∃ t, exec i s = .next t ∧ RoutineIs (onward u) s t

/-- FMTS with a combination that R194 does not allow ends its operation FAULTED with cause FORMAT at its store word. -/
def Sys2Proof.Claims.IllegalFormatsFault : Prop :=
  ∀ (s : State) (o : ChildOp) (r : Routine) (mode af bf : BitVec 4), Running s o r → s.kore.halfRow = none → o.newer < 64 →
    ¬ fmtsLegal mode.toNat (fmtsCode o af) (fmtsCode o bf) →
    ∃ t, exec (.fmts mode af bf) s = .next t ∧ Ended s t o 6 16

/-- ACCZ zeroes every element of its rows of its bank and no other element of either bank (R198). -/
def Sys2Proof.Claims.AcczZeroesItsRows : Prop :=
  ∀ (s : State) (o : ChildOp) (r : Routine) (nr frow : BitVec 6) (wb : BitVec 1), Running s o r →
    let w := wb == 1
    ∃ t u, exec (.accz nr frow wb) s = .next t ∧ RoutineIs (onward u) s t
      ∧ (∀ m j, frow.toNat ≤ m → m ≤ frow.toNat + nr.toNat → j < 64 → Tbl.get ({} : AccEl) (u.bank w) (64 * m + j) = {})
      ∧ (∀ e, e < 64 * frow.toNat ∨ 64 * (frow.toNat + nr.toNat + 1) ≤ e →
          Tbl.get {} (u.bank w) e = Tbl.get {} (r.bank w) e)
      ∧ u.bank (!w) = r.bank (!w)

/-- LOOPM goes back to its target while its level's counter is above zero, counting down, having taken its count on its
first pass (its field, or the low 14 bits of its q register, at least one), and otherwise goes on at the next word with the
level at rest (R201). -/
def Sys2Proof.Claims.LoopmCounts : Prop :=
  ∀ (s : State) (o : ChildOp) (r : Routine) (lvl : BitVec 2) (src : BitVec 1) (pr : BitVec 3) (cnt tgt : BitVec 14),
    Running s o r → r.lm.length = 4 → r.act.length = 4 →
    let count := if src = 1 then (r.q.getD pr.toNat 0).toNat % 2 ^ 14 else cnt.toNat
    let n := if r.act.getD lvl.toNat false then r.lm.getD lvl.toNat 0 else max count 1 - 1
    (0 < n → ∃ t u, exec (.loopm lvl src pr cnt tgt) s = .next t ∧ RoutineIs u s t
      ∧ u.word = tgt.toNat ∧ u.lm.getD lvl.toNat 0 = n - 1 ∧ u.act.getD lvl.toNat false = true)
    ∧ (n = 0 → ∃ t u, exec (.loopm lvl src pr cnt tgt) s = .next t ∧ RoutineIs u s t
      ∧ u.word = r.word + 1 ∧ u.act.getD lvl.toNat true = false)

/-- YLD goes on at the next word; with a cancel pending the operation ends ABORTED there, and with a pre-emption pending it
is suspended with the YLD's own word, at which it goes on (R203, R213, R302). END completes the operation, DONE; a half-filled latch entry becomes
pending first (R200, R205). -/
def Sys2Proof.Claims.YieldAndEnd : Prop :=
  ∀ (s : State) (o : ChildOp) (r : Routine), Running s o r → o.newer < 64 →
    (o.cancel = false → o.suspend = false → ∃ t, exec .yld s = .next t ∧ RoutineIs (onward r) s t)
    ∧ (o.cancel = true → s.kore.halfRow = none → ∃ t, exec .yld s = .next t ∧ Ended s t o 5 0)
    ∧ (o.cancel = false → o.suspend = true →
        ∃ t, exec .yld s = .next t ∧ t.kore.mx = { r with run := false }
          ∧ ∃ p ∈ t.kore.ops, p.token = o.token ∧ p.state = 3)
    ∧ (s.kore.halfRow = none → ∃ t, exec .endOp s = .next t ∧ Ended s t o 4 0 ∧ t.kore.latch = s.kore.latch)
    ∧ (∀ row, s.kore.halfRow = some row → s.kore.latch.length < 4 →
        ∃ t, exec .endOp s = .next t ∧ Ended s t o 4 0 ∧ t.kore.halfRow = none
          ∧ t.kore.latch = s.kore.latch ++ [row.setWidth 4096])

/-- MACS whose rows may be read: every element of its rows of its bank takes the products of its row-step, as its mode
accumulates them, from the A operands that AFET names and the row of B at BCUR; no other element of either bank changes;
with ADV KCUR goes up by the mode's K and BCUR by one; no byte changes, but where a corrected error is logged (R181, R182,
R195 to R197, R433). -/
def Sys2Proof.Claims.RowStepsAccumulate : Prop :=
  ∀ (s : State) (o : ChildOp) (r : Routine) (nr frow : BitVec 6) (wb adv : BitVec 1) (kv : BitVec 7) (mode : Nat)
    (as : Nat → List FVal),
    Running s o r → r.mode = some mode →
    let n := nr.toNat + 1
    let len := if kv = 0 then modeK mode else kv.toNat
    let w := wb == 1
    len ≤ modeK mode → (r.ord = true → frow.toNat * modeW mode % 64 = 0 ∧ n * modeW mode % 64 = 0) →
    s.kore.rowsOk { r with kv := len } mode len = .ok () →
    (∀ m, frow.toNat ≤ m → m < frow.toNat + n → aOperands s o r mode m len = some (as m)) →
    ∃ t, exec (.macs nr frow wb adv kv) s = .next t
      ∧ (∀ m j, frow.toNat ≤ m → m < frow.toNat + n → j < 64 →
          Tbl.get {} (t.kore.mx.bank w) (64 * m + j)
            = s.kore.colStep { r with kv := len } mode (Tbl.get {} (r.bank w) (64 * m + j)) (as m) j)
      ∧ (∀ e, e < 64 * frow.toNat ∨ 64 * (frow.toNat + n) ≤ e →
          Tbl.get {} (t.kore.mx.bank w) e = Tbl.get {} (r.bank w) e)
      ∧ t.kore.mx.bank (!w) = r.bank (!w)
      ∧ t.kore.mx.kcur = (if adv = 1 then r.kcur + modeK mode else r.kcur)
      ∧ t.kore.mx.bcur = (if adv = 1 then r.bcur + 1 else r.bcur)
      ∧ t.kore.mx.word = r.word + 1
      ∧ (s.kore.softTess = [] → s.kore.soft = [] → s.kore.ce = [] → KeepsMemory s t)

/-- A column of a row-step in FP8 mode adds its products exactly: with finite operands the sum, in units of 2^-32, grows by
that of every product (R176). -/
def Sys2Proof.Claims.ExactColumnsAddProducts : Prop :=
  ∀ (k : Core) (r : Routine) (e : AccEl) (as : List FVal) (j : Nat),
    (∀ t, t < as.length → ∃ n m x, (as.getD t .nan).mul (k.bElem r 0 r.bcur.toNat j t) = .fin n m x) →
    k.colStep r 0 e as j = { e with v := e.v + ((List.range as.length).map fun t =>
      match (as.getD t .nan).mul (k.bElem r 0 r.bcur.toNat j t) with
      | .fin n m x => scaled n m x (-32)
      | _ => 0).sum }

/-- ACCL with rows that may be read gives every element of its rows of its bank the record that the accumulator memory
holds for it, exact in FP8 mode and the mode's float otherwise, and changes no other element and no byte (R198). -/
def Sys2Proof.Claims.AcclLoadsItsRows : Prop :=
  ∀ (s : State) (o : ChildOp) (r : Routine) (nr frow : BitVec 6) (wb : BitVec 1) (pa : BitVec 3) (fx : BitVec 1)
    (mode : Nat), Running s o r → r.mode = some mode → (fx = 1 ↔ mode = 0) →
    let n := nr.toNat + 1
    let z := if mode = 0 then 1024 else if mode = 5 then 512 else 256
    let b := (r.q.getD pa.toNat 0).toNat
    let el := fun m j => Mem.read s.kore.acm (b + (m - frow.toNat) * z + j * (z / 64)) (z / 64)
    let w := wb == 1
    b % 64 = 0 → b + n * z ≤ Config.acmSize → (∀ l ∈ s.kore.badAcm, 64 * l < b ∨ b + n * z ≤ 64 * l) →
    (∀ l, b ≤ 64 * l → 64 * l < b + n * z → (1, l) ∉ s.kore.soft ∧ (1, l) ∉ s.kore.ce) →
    (mode = 0 → ∀ m j, frow.toNat ≤ m → m < frow.toNat + n → j < 64 → el m j / 2 ^ 80 < 32) →
    ∃ t u, exec (.accl nr frow wb pa fx) s = .next t ∧ RoutineIs (onward u) s t
      ∧ (∀ m j, frow.toNat ≤ m → m < frow.toNat + n → j < 64 →
          Tbl.get ({} : AccEl) (u.bank w) (64 * m + j)
            = if mode = 0 then { v := asInt 80 (el m j % 2 ^ 80), nan := (el m j / 2 ^ 80).testBit 0,
                                 pinf := (el m j / 2 ^ 80).testBit 1, ninf := (el m j / 2 ^ 80).testBit 2,
                                 ovp := (el m j / 2 ^ 80).testBit 3, ovn := (el m j / 2 ^ 80).testBit 4 }
              else { v := el m j })
      ∧ (∀ e, e < 64 * frow.toNat ∨ 64 * (frow.toNat + n) ≤ e →
          Tbl.get {} (u.bank w) e = Tbl.get {} (r.bank w) e)

/-- DRN to the accumulator memory stores every element of its rows at its place, as an exact record or rounded to nearest,
and changes no other byte of it; the drained rows join the record's LINES, and with CLR they are zero (R177, R199, R305).
DRN to the latch drains rows only while the latch has room, each two rows an entry (R200). -/
def Sys2Proof.Claims.DrnStoresItsRows : Prop :=
  ∀ (s : State) (o : ChildOp) (r : Routine) (nr frow : BitVec 6) (wb : BitVec 1) (dst : BitVec 2) (pa : BitVec 3)
    (clr : BitVec 1) (mode : Nat), Running s o r → r.mode = some mode →
    let n := nr.toNat + 1
    let z := if dst = 1 then 1024 else if mode = 5 then 512 else 256
    let b := (r.q.getD pa.toNat 0).toNat
    let w := wb == 1
    let el := fun m j => Tbl.get ({} : AccEl) (r.bank w) (64 * m + j)
    (dst ≠ 2 → (dst = 1 → mode = 0) → b % 64 = 0 → b + n * z ≤ Config.acmSize →
      ∃ t, exec (.drn nr frow wb dst pa clr) s = .next t
        ∧ (∀ i j, i < n → j < 64 → Mem.read t.kore.acm (b + i * z + j * (z / 64)) (z / 64)
            = (if dst = 1 then (el (frow.toNat + i) j).seen.record
                else if mode = 0 then fp32.round rne (el (frow.toNat + i) j).seen.val
                else (el (frow.toNat + i) j).v.toNat) % 256 ^ (z / 64))
        ∧ (∀ p, p < b ∨ b + n * z ≤ p → Mem.byte t.kore.acm p = Mem.byte s.kore.acm p)
        ∧ (clr = 1 → ∀ i j, i < n → j < 64 → Tbl.get ({} : AccEl) (t.kore.mx.bank w) (64 * (frow.toNat + i) + j) = {})
        ∧ (∃ p ∈ t.kore.ops, p.token = o.token ∧ p.lines = o.lines + n)
        ∧ t.kore.mx.word = r.word + 1 ∧ t.kore.tess = s.kore.tess ∧ t.kore.lintel = s.kore.lintel)
    ∧ (dst = 2 → mode ≠ 5 → 4 ≤ s.kore.latch.length → r.drained < n →
      ∃ t, exec (.drn nr frow wb dst pa clr) s = .next t ∧ t.kore.mx = r ∧ t.kore.latch = s.kore.latch)
    ∧ (dst = 2 → mode ≠ 5 → s.kore.latch.length < 4 → r.drained + 1 = n →
      let row : BitVec 2048 := BitVec.ofNat 2048 ((r.rowValues mode w (frow.toNat + r.drained)).foldr
        (fun v a => v + 2 ^ 32 * a) 0)
      ∃ t, exec (.drn nr frow wb dst pa clr) s = .next t ∧ t.kore.mx.word = r.word + 1
        ∧ (s.kore.halfRow = none → t.kore.halfRow = some row ∧ t.kore.latch = s.kore.latch)
        ∧ (∀ low, s.kore.halfRow = some low → t.kore.halfRow = none ∧ t.kore.latch = s.kore.latch ++ [row ++ low]))

/-- ADPT in FP8 mode with a bay does its rows in rounds. A row without adapter is passed over; a row whose entry is in the
bay takes its term with the rank and exponent that its directory entry holds now, DOWN into its partials, UP into its bank
row, the entry becoming the last used; at a row whose entry is missing its fetch begins, the row staying marked and the
round's entries pinned (R206 to R209). No line of a memory reads wrong here. -/
def Sys2Proof.Claims.AdapterRows : Prop :=
  ∀ (s : State) (o : ChildOp) (r : Routine) (up : Bool) (nr frow : BitVec 6) (wb : BitVec 1) (pi pt pd : BitVec 3),
    Running s o r → r.mode = some 0 → s.kore.mxcfg ≠ 0 → r.fetch = none → s.kore.softTess = [] →
    s.kore.soft = [] → s.kore.ce = [] → r.pins = [] →
    let t := (r.q.getD pt.toNat 0).toNat
    let w : Adpt := { up := up, mv := s.moverOf s.focus o, wb := wb == 1, pi := pi, dir := (r.q.getD pd.toNat 0).toNat,
                      index := if up then t / 65536 % 65536 else t % 65536 + r.kcur / 64 }
    let rows := (List.range (nr.toNat + 1)).map (· + frow.toNat)
    let i : Instr := if up then .adptUp nr frow wb pi pt pd else .adptDown nr frow wb pi pt pd
    let m := frow.toNat
    ((∀ m ∈ rows, m ∉ r.marks → ∃ ls, s.adapterId w.mv r pi m = .ok (0, ls)) →
        ∃ u, exec i s = .next u ∧ RoutineIs (onward { r with marks := [], round := [] }) s u)
    ∧ (∀ id ls k e v dva uva rank exp, nr = 0 → r.marks = [] → s.adapterId w.mv r pi m = .ok (id, ls) → id ≠ 0 →
        s.kore.bayUse up id w.index = some (k, e) →
        (s.setKore k).adapterDir w.mv w.dir id = (v, .ok (dva, uva, rank, exp)) → v.kore.badRow e.row = false →
        (up = true → ∃ u, exec i s = .next u
          ∧ u.kore.mx = onward { (v.upTerm r e.row rank exp (wb == 1) m) with marks := [], round := [] }
          ∧ u.kore.bay = s.kore.bay.filter (fun x => x.row != e.row) ++ [e])
        ∧ (∀ q js, up = false → v.downTerm w.mv r e.row rank m = .ok (q, js) → ∃ u, exec i s = .next u
          ∧ u.kore.mx = onward { q with marks := [], round := [] }
          ∧ u.kore.bay = s.kore.bay.filter (fun x => x.row != e.row) ++ [e]))
    ∧ (∀ id ls, nr = 0 → r.marks = [] → s.adapterId w.mv r pi m = .ok (id, ls) → id ≠ 0 →
        s.kore.bayUse up id w.index = none →
        ∃ u, exec i s = .next u ∧ RoutineIs { r with round := [(m, id)], pins := [(id, w.index)],
                                                     fetch := some (up, id, w.index, w.dir) } s u)

/-- ABFT ARM keeps what the span may have to return to and the row sums of its rows. ABFT CHECK goes on where every
unflagged row of the span agrees with its check value; where one does not, the span runs a second time from after its ARM,
with MXST.REPL one up, and a second failure ends the operation FAULTED with cause CHKFAIL; every CHECK adds its flagged
rows to MXST.UNCHK (R211, R212). Where its clauses rest on a choice or an inference of the model, that is log entry 89. -/
def Obligations.AbftSpans : Prop :=
  ∀ (s : State) (o : ChildOp) (r : Routine) (nr frow : BitVec 6) (wb : BitVec 1) (mode : Nat),
    Running s o r → r.mode = some mode → mode ≤ 1 →
    (∃ t u, exec (.abftArm nr frow wb) s = .next t ∧ RoutineIs (onward u) s t
      ∧ u.arm = some (frow.toNat, nr.toNat + 1, wb == 1) ∧ u.armWord = r.word + 1 ∧ u.second = false
      ∧ u.snapW0 = r.w0 ∧ u.snapW1 = r.w1 ∧ u.snapKcur = r.kcur ∧ u.snapBcur = r.bcur ∧ u.snapQ = r.q
      ∧ u.w0 = r.w0 ∧ u.w1 = r.w1
      ∧ (mode = 0 → ∀ m, frow.toNat ≤ m → m ≤ frow.toNat + nr.toNat →
          Tbl.get {} u.ckA m = r.rowSum (wb == 1) m))
    ∧ (∀ f n, r.arm = some (f, n, wb == 1) →
      let actual := fun m => if mode = 0 then r.rowSum (wb == 1) m else Tbl.get {} r.ckB m
      let agrees := ∀ m, frow.toNat ≤ m → m ≤ frow.toNat + nr.toNat → f ≤ m → m < f + n → (actual m).flagged = false →
        (actual m).v = (Tbl.get {} r.ckA m).v
      let unchk := min 0xFFFF (s.kore.mxUnchk.toNat + (((List.range (nr.toNat + 1)).map (· + frow.toNat)).filter fun m =>
        decide (f ≤ m) && decide (m < f + n) && (actual m).flagged).length)
      (agrees → ∃ t, exec (.abftCheck nr frow wb) s = .next t
        ∧ t.kore.mx = onward { r with arm := none, ckA := [], ckB := [], second := false }
        ∧ t.kore.mxRepl = s.kore.mxRepl ∧ t.kore.mxUnchk.toNat = unchk)
      ∧ (¬agrees → r.second = false → ∃ t, exec (.abftCheck nr frow wb) s = .next t
        ∧ t.kore.mx.word = r.armWord ∧ t.kore.mx.second = true ∧ t.kore.mx.w0 = r.snapW0 ∧ t.kore.mx.w1 = r.snapW1
        ∧ t.kore.mx.kcur = r.snapKcur ∧ t.kore.mx.bcur = r.snapBcur ∧ t.kore.mx.q = r.snapQ
        ∧ t.kore.mxRepl.toNat = min 255 (s.kore.mxRepl.toNat + 1) ∧ t.kore.mxUnchk.toNat = unchk)
      ∧ (¬agrees → r.second = true → s.kore.halfRow = none → o.newer < 64 →
        ∃ t, exec (.abftCheck nr frow wb) s = .next t ∧ Ended s t o 6 22 ∧ t.kore.mxUnchk.toNat = unchk))

/-- HWT WAITF and WAITB on a hod that the routine may use go on once its slots are filled, or its epoch is complete and in
order, which WAITB then closes; HWT ADVR frees slots; on a hod that it may not use the operation ends FAULTED with cause HOD;
a wait that lasts beyond the operation's watchdog ends it with cause TIMEOUT (R204, R316, R317). -/
def Sys2Proof.Claims.RoutineHods : Prop :=
  ∀ (s : State) (o : ChildOp) (r : Routine) (j : BitVec 5) (n : BitVec 8), Running s o r →
    let d := s.kore.hod j.toNat
    let usable := d.en = true ∧ (d.priv = true → d.own = bankOf o.cx) ∧ d.ovf = false
    let filled := (d.wp - d.rp).toNat
    (usable → d.mode = false → n.toNat ≤ filled → s.kore.hodReady d = true →
      ∃ t, exec (.hwtWaitf j n) s = .next t ∧ t.kore.mx = onward r ∧ t.kore.hod j.toNat = d)
    ∧ (usable → d.mode = false → ¬ (n.toNat ≤ filled ∧ s.kore.hodReady d = true) → o.cancel = false → o.suspend = false →
      (o.wdog = 0 ∨ r.waited < o.wdog) →
      ∃ t, exec (.hwtWaitf j n) s = .next t ∧ RoutineIs { r with waited := r.waited + 1 } s t)
    ∧ (usable → d.mode = false → ¬ (n.toNat ≤ filled ∧ s.kore.hodReady d = true) → o.cancel = false → o.suspend = false →
      o.wdog ≠ 0 → o.wdog ≤ r.waited → s.kore.halfRow = none → o.newer < 64 →
      ∃ t, exec (.hwtWaitf j n) s = .next t ∧ Ended s t o 6 21)
    ∧ (usable → d.mode = false →
      ∃ t, exec (.hwtAdvr j n) s = .next t ∧ t.kore.mx = onward r
        ∧ (t.kore.hod j.toNat).rp = d.rp + BitVec.ofNat 32 n.toNat
        ∧ (t.kore.hod j.toNat).ovf = decide (filled < n.toNat))
    ∧ (usable → d.mode = true → d.xset = true → d.wp.toNat ≤ d.rp.toNat → (d.rp = d.wp ∨ d.carry = true) →
      s.kore.hodReady d = true →
      ∃ t, exec (.hwtWaitb j) s = .next t ∧ t.kore.mx = onward r
        ∧ (t.kore.hod j.toNat).epoch = d.epoch + 1 ∧ (t.kore.hod j.toNat).xset = false
        ∧ (t.kore.hod j.toNat).rp = d.rp - d.wp)
    ∧ (d.en = false ∨ d.ovf = true → s.kore.halfRow = none → o.newer < 64 →
      ∃ t, exec (.hwtAdvr j n) s = .next t ∧ Ended s t o 6 20)

namespace Sys2Proof.Claims

/-! ### Events of a core -/

/-- No core but `c`, and nothing outside the cores, changes. -/
def OnlyCore (c : Nat) (s t : State) : Prop := (∀ d, d ≠ c → t.core d = s.core d) ∧ { t with cores := s.cores } = s

/-- An operation of core `c` stands, in `t`, in a state with a cause and an address, under the token of `o`. -/
def OpStands (t : State) (c : Nat) (o : ChildOp) (state cause : Nat) (addr : Word64) : Prop :=
  ∃ q ∈ (t.core c).ops, q.token = o.token ∧ q.order = o.order ∧ q.state = state ∧ q.cause = cause ∧ q.addr = addr

/-- The bytes of a tessera outside a range read as before, and so does every byte of the device's memory. -/
def OutsideTess (c lo n : Nat) (s t : State) : Prop :=
  (∀ p, p < lo ∨ lo + n ≤ p → Mem.byte (t.core c).tess p = Mem.byte (s.core c).tess p)
    ∧ (∀ d p, d ≠ c → Mem.byte (t.core d).tess p = Mem.byte (s.core d).tess p) ∧ (∀ p, Mem.byte t.mem p = Mem.byte s.mem p)

/-- The strands of the instance of level `l` that a context's strand belongs to (R132). -/
def instanceOf (s : State) (c : Nat) (cx : CtxId) (l : Nat) : List (Nat × CtxId) :=
  let x := s.ctxAt c cx
  let p := perInstance (s.gang x.gang).levels l
  (s.strandsOf x.gang).filter fun m => (s.ctxAt m.1 m.2).sidx.toNat / p == x.sidx.toNat / p

/-- A queued operation may start: it is the head of its channel, no KJOIN, its gang runs, its context's earlier stores and
atomics have performed, no STRL that is not yet to be seen holds it up, and its predecessor is complete or absent (R274, R288,
R289, R302, R313). -/
def MayStart (s : State) (c ch : Nat) (o : ChildOp) : Prop :=
  (s.core c).headOp ch = some o ∧ o.state = 1 ∧ o.kind ≠ .kjoin ∧ s.opsRun o = true ∧ (s.core c).startable o = true
    ∧ s.opVeiled c o = false ∧ (o.pred = 0 ∨ ∀ d, s.tokIssued c o.gang o.pred = some d → s.tokComplete d o.pred = true)

/-- The state in which the copy engine moves a granted line: the grant is counted (R308). -/
def grantedTo (s : State) (c ch : Nat) : State := s.setCore c ((s.core c).granted ch)

end Sys2Proof.Claims

/-- A held bundle's context is next to be tried; a wait whose cycles have passed its bound raises WAIT_TIMEOUT at the bundle's
PC, and before that goes on waiting; and a bubble costs the primary one cycle, held, and nothing else of it or of the
other context (R40, R48, R323). -/
def Sys2Proof.Claims.HoldsBubblesAndTimeouts : Prop :=
  ∀ (s : State) (c : Nat) (cx : CtxId),
    let x := s.ctxAt c cx
    (x.holding = true → exec (.heldBundleRelease c cx) s = .next { s with agenda := .core c :: s.agenda })
    ∧ (∀ b, x.bound = some b → x.holding = true → b < x.waited → x.trapped = false → cx ≠ .svc →
        ∃ t, exec (.waitTimeout c cx) s = .next t ∧ t.core c = (s.core c).takeTrap cx 9 7 0 x.pc false true ∧ OnlyCore c s t)
    ∧ (∀ b, x.bound = some b → x.waited ≤ b → exec (.waitTimeout c cx) s = .next s)
    ∧ ((s.core c).bubble = true → (s.core c).serving = none →
        let p := (s.core c).primary
        ∃ t, exec (.secbndBubble c) s = .next t ∧ (t.core c).bubble = false
          ∧ (t.ctxAt c p).clock = (s.ctxAt c p).clock + 1 ∧ (t.ctxAt c p).holding = true
          ∧ (t.ctxAt c p).pc = (s.ctxAt c p).pc ∧ (∀ key, (t.ctxAt c p).two key = (s.ctxAt c p).two key)
          ∧ t.ctxAt c (otherCtx p) = s.ctxAt c (otherCtx p) ∧ OnlyCore c s t)

/-- An owed flip whose due entries have all come, with no own access, no transient and no operation to wait for, of a
context that no trap has stopped, completes no earlier than one cycle after its bundle and at the phase's ready cycle: every
register with W set exchanges its faces, every entry comes one flip nearer, TAIL and RPOS move as LOOPF asked, PHN counts
it, and the new phase starts at the PC (R20, R22, R51, R372, R383). -/
def Sys2Proof.Claims.FlipsComplete : Prop :=
  ∀ (s : State) (c : Nat) (cx : CtxId) (o : Owed),
    let x := s.ctxAt c cx
    (s.core c).serves cx = false → x.owed = some o → x.dueTrap = none → Tbl.wf {} x.regs = true →
    x.transient = false → x.resid = false → (x.trapped = true → cx = .svc) →
    (∀ e ∈ x.pwq, e.rem = 0 → e.canLand x.clock = true) → (∀ d ∈ (s.core c).delayed, d.cx ≠ cx) →
    (s.core c).flipOps cx = [] → (s.core c).primWas = none →
    ∃ t, exec (.flipComplete c cx) s = .next t
      ∧ (let y := t.ctxAt c cx
        y.phn = x.phn + 1 ∧ y.owed = none ∧ y.clock = max x.clock (max (o.issued + 1) x.ready)
        ∧ y.pc = x.pc ∧ y.pstart = x.pc ∧ y.esc = false
        ∧ y.tail = (if o.ftl = true ∧ x.tail ≠ 0 then x.tail - 1 else x.tail) ∧ y.rpos = (if o.frot then x.rpos + 1 else x.rpos)
        ∧ (∀ key, let w := (x.settle x.clock).two key
            (y.two key).vis = (if w.w then w.hid else w.vis) ∧ (y.two key).hid = (if w.w then w.vis else w.hid))
        ∧ y.pwq = (x.pwq.filter (fun e => e.rem != 0)).map (fun e => { e with rem := e.rem - 1 }))
      ∧ OnlyCore c s t ∧ (t.core c).tess = (s.core c).tess

/-- An entry that is due with its value at hand lands in the hidden face of its register, unless a later value stands
there; it leaves the queue, and no visible face and no other register changes (R28, R32). -/
def Sys2Proof.Claims.QueueEntriesLand : Prop :=
  ∀ (s : State) (c : Nat) (cx : CtxId) (n : Nat) (e : Pwq),
    let x := s.ctxAt c cx
    x.pwq[n]? = some e → e.canLand x.clock = true →
    ∃ t, exec (.pwqLand c cx n) s = .next t
      ∧ (let y := t.ctxAt c cx
        y.pwq = x.pwq.eraseIdx n ∧ (y.two e.reg).vis = (x.two e.reg).vis
        ∧ (y.two e.reg).hid = (if x.overtaken e.reg e.stamp then (x.two e.reg).hid
            else mergeFor e.reg e.lanes (e.val.getD 0) (x.two e.reg).vis)
        ∧ (∀ key, key ≠ e.reg → y.two key = x.two key) ∧ { y with regs := x.regs, pwq := x.pwq } = x)
      ∧ OnlyCore c s t

/-- The first delayed access of a core performs once no earlier one of its context waits and no access of the primary can
meet it: a store writes its bytes and changes no other, where its context need bring no other write before it, and a load
gives the entry that waits for it the bytes that then stand there, but for those that its own bundle has stored (R41, R47,
R271). -/
def Sys2Proof.Claims.DelayedAccessesPerform : Prop :=
  ∀ (s : State) (c x off len : Nat) (d : Delayed) (rest : List Delayed),
    (s.core c).delayed = d :: rest → (∀ e ∈ rest, e.id ≠ d.id ∧ e.refetch = false ∧ (e.cx = d.cx → d.bundle ≤ e.bundle)) →
    d.refetch = false → d.hits = [] → d.snap = [] →
    (∀ n, s.primaryClock c = some n → d.since + 1 < n) → d.acm = false → d.pieces = [⟨.tess x off, 0, len⟩] →
    (s.ctxAt c d.cx).dueTrap = none → (s.ctxAt c d.cx).owed = none →
    ∃ t, exec (.secondaryAccessGrant c) s = .next t ∧ (∀ e ∈ (t.core c).delayed, e.id ≠ d.id)
      ∧ (d.store = true → Mem.read (t.core c).tess off len = d.val % 256 ^ len
          ∧ ((s.ctxAt c d.cx).must = [] → OutsideTess c off len s t))
      ∧ (d.store = false → d.reg ≠ 0 → d.land ≠ 0 →
          (∀ l ∈ d.lines, l ∉ (s.core c).badTess ∧ l ∉ (s.core c).softTess) →
          OutsideTess c 0 0 s t
          ∧ ∀ e ∈ (s.ctxAt c d.cx).pwq, e.acc = d.id → e.val = none → e.rem ≠ 0 →
              { e with val := some (loadValue d.sext (Mem.read (s.core c).tess off len)), ready := d.since + 1 + d.lat }
                ∈ (t.ctxAt c d.cx).pwq)

/-- The wait of a BAR ends, for every strand of its instance on this device that waits at its epoch or an earlier one, when
each has arrived at the epoch or halted, here or on another device, and what those here released has performed; while one here has not, or its die is lost,
nothing changes. No register and no memory changes (R132, R133, R409, R414). -/
def Sys2Proof.Claims.BarriersRelease : Prop :=
  ∀ (s : State) (c : Nat) (cx : CtxId) (l : Nat), (s.ctxAt c cx).barWait = some l →
    let x := s.ctxAt c cx
    let ms := instanceOf s c cx l
    let epoch := (Tbl.get (0, 0) x.arrive l).1
    let there := fun (m : Nat × CtxId) =>
      ((s.ctxAt m.1 m.2).halted = true ∨ epoch ≤ (Tbl.get (0, 0) (s.ctxAt m.1 m.2).arrive l).1)
        ∧ s.released m.1 m.2 l = true ∧ (s.die (dieOf m.1)).lost = false
    let p := perInstance (s.gang x.gang).levels l
    let far := if ms.length = p then 0
      else s.farArrived (s.gang x.gang) (p * (x.sidx.toNat / p)) p l epoch (ms.map fun m => (s.ctxAt m.1 m.2).sidx.toNat)
    (ms.length + far = p → (∀ m ∈ ms, there m) →
      ∃ t, exec (.barRelease c cx) s = .next t
        ∧ (∀ m ∈ ms, (s.ctxAt m.1 m.2).barWait = some l → (Tbl.get (0, 0) (s.ctxAt m.1 m.2).arrive l).1 ≤ epoch →
            (t.ctxAt m.1 m.2).barWait = none)
        ∧ (∀ m ∈ ms, epoch < (Tbl.get (0, 0) (s.ctxAt m.1 m.2).arrive l).1 →
            (t.ctxAt m.1 m.2).barWait = (s.ctxAt m.1 m.2).barWait)
        ∧ (∀ d cy key, (t.ctxAt d cy).two key = (s.ctxAt d cy).two key ∧ (t.ctxAt d cy).pc = (s.ctxAt d cy).pc)
        ∧ KeepsMemory s t)
    ∧ ((∃ m ∈ ms, ¬ there m) → exec (.barRelease c cx) s = .next s)

/-- A walk that finds a leaf ends: XR takes the physical address, permissions and placement, the page's base, and the found
bit with page size and slot, and a full context's dynamic slot takes the page. A walk of a full context that finds none is
parked when its record has gone into the fault queue, the other stream becoming the primary if it runs; with no fault
queue PAGE_FAULT becomes pending and the walk is abandoned (R238, R262, R378, R379). -/
def Sys2Proof.Claims.WalksEndOrPark : Prop :=
  ∀ (s : State) (c : Nat) (cx : CtxId) (w : Walk),
    (s.ctxAt c cx).walk = some w → w.parked = false → w.abandoned = false → cx ≠ .svc →
    let va := w.va.toNat
    (∀ base size pa perm plc, s.walkOf c cx va = .leaf base size pa perm plc →
      ∃ t, exec (.xlatWalkComplete c cx) s = .next t
        ∧ (let y := t.ctxAt c cx
          y.walk = none ∧ y.xr.w0 = BitVec.ofNat 64 (pa + (va - base)) ∧ y.xr.w1 = BitVec.ofNat 64 (perm * 2 ^ 32 + plc)
          ∧ y.xr.w2 = BitVec.ofNat 64 base ∧ y.xr.w3 = BitVec.ofNat 64 (16 * w.slot + 4 * (plc / 16 % 4) + 1)
          ∧ Tbl.get {} y.dyn w.slot = { v := true, base := base, size := size, pa := pa, perm := BitVec.ofNat 3 perm,
                                        plc := BitVec.ofNat 32 plc }
          ∧ (∀ j, j ≠ w.slot → Tbl.get {} y.dyn j = Tbl.get {} (s.ctxAt c cx).dyn j)
          ∧ (∀ key, y.two key = (s.ctxAt c cx).two key))
        ∧ OnlyCore c s t ∧ KeepsMemory s t)
    ∧ (s.walkOf c cx va = .missing →
      (exec (.xlatWalkComplete c cx) s = .next s)
      ∧ ((s.faultRecord c cx va).2 = true →
        let k := (s.faultRecord c cx va).1.core c
        let q := k.settlePrim
        ∃ t, exec (.pageWalkPark c cx) s = .next t
          ∧ (t.ctxAt c cx).walk.map (·.parked) = some true ∧ (t.ctxAt c cx).pageFault = (k.ctx cx).pageFault
          ∧ cx ∈ (t.core c).parked
          ∧ (t.core c).prim = (if q.primary = cx ∧ (k.ctx (otherCtx cx)).gang ≠ 0 ∧ (k.ctx (otherCtx cx)).halted = false
              then !q.prim else q.prim))
      ∧ ((s.tenant (s.gang (s.ctxAt c cx).gang).ten).fqb = 0 →
        ∃ t, exec (.pageWalkPark c cx) s = .next t
          ∧ (t.ctxAt c cx).walk.map (·.abandoned) = some true ∧ (t.ctxAt c cx).pageFault = some w.va
          ∧ OnlyCore c s t ∧ KeepsMemory s t))

/-- A trap that a context has due is entered when SVC is free and its waits are over. Otherwise its boundary, while SVC is
not busy with the other context, takes what is pending: DIE_LOST before UE_DATA before KFAULT, these before PREEMPT, PREEMPT
before INTERRUPT, INTERRUPT before PAGE_FAULT, and after all of these a trap of an issued bundle that SVC was too busy to
take; the one taken is pending no longer, with nothing pending nothing changes, and while SVC is busy the context stops and
everything stays pending (R371, R372). -/
def Sys2Proof.Claims.PendingTrapsAreTakenInOrder : Prop :=
  ∀ (s : State) (c : Nat) (cx : CtxId), cx ≠ .svc →
    let k := s.core c
    let x := s.ctxAt c cx
    let takes := fun (y : Ctx) (code : Nat) (info : Word64) => ∃ t, exec (.trapEntry c cx) s = .next t
      ∧ t.core c = (k.setCtx cx y).takeTrap cx code 7 info x.pc true false ∧ OnlyCore c s t
    let quiet := x.asyncs = [] ∧ x.preempt = false ∧ s.interruptOf c cx = none
    (∀ code slot info pc async, x.trapped = true → x.dueTrap = some (code, slot, info, pc, async) → k.serving = none →
      k.entryReady cx = true →
      ∃ t, exec (.trapEntry c cx) s = .next t ∧ t.core c = k.enter cx code slot info pc async ∧ OnlyCore c s t)
    ∧ (x.trapped = false → s.holds c cx = true → k.busy cx = true →
      (x.asyncs ≠ [] ∨ x.preempt = true ∨ x.pageFault ≠ none) →
      ∃ t, exec (.trapEntry c cx) s = .next t ∧ OnlyCore c s t ∧ (t.ctxAt c cx).trapped = true
        ∧ (t.ctxAt c cx).dueTrap = x.dueTrap ∧ (t.ctxAt c cx).asyncs = x.asyncs ∧ (t.ctxAt c cx).preempt = x.preempt
        ∧ (t.ctxAt c cx).pageFault = x.pageFault)
    ∧ (x.trapped = false → s.holds c cx = true → k.busy cx = false →
      (∀ a, x.asyncs.find? (·.code == 20) = some a → takes { x with asyncs := x.asyncs.erase a } 20 a.info)
      ∧ (∀ a, (∀ b ∈ x.asyncs, b.code ≠ 20) → x.asyncs.find? (·.code == 13) = some a →
          takes { x with asyncs := x.asyncs.erase a } 13 a.info)
      ∧ (∀ a, (∀ b ∈ x.asyncs, b.code ≠ 20 ∧ b.code ≠ 13) → x.asyncs.head? = some a → a.code ≠ 18 →
          takes { x with asyncs := x.asyncs.erase a } a.code a.info)
      ∧ (x.asyncs = [] → x.preempt = true → takes { x with preempt := false } 19 0)
      ∧ (∀ n, x.asyncs = [] → x.preempt = false → s.interruptOf c cx = some n →
          ∃ t, exec (.trapEntry c cx) s = .next t ∧ OnlyCore c s t ∧ (t.ctxAt c cx).trapped = true
            ∧ (k.entryReady cx = false →
              (t.ctxAt c cx).dueTrap = some (18, 7, BitVec.ofNat 64 n, x.pc, true)))
      ∧ (∀ va, quiet → x.pageFault = some va → takes { x with pageFault := none } 12 va)
      ∧ (∀ code slot info pc async, quiet → x.pageFault = none → x.kept = some (code, slot, info, pc, async) →
          ∃ t, exec (.trapEntry c cx) s = .next t ∧ OnlyCore c s t
            ∧ t.core c = (k.setCtx cx { x with kept := none }).takeTrap cx code slot info pc async false)
      ∧ (quiet → x.pageFault = none → x.kept = none → exec (.trapEntry c cx) s = .next s))

/-- A bad line under a read of a refetchable half is filled again from its fill record and the read is redone. A transient
error of a clean first pass sends the phase back to its start, with the registers, queue, LR, TAIL, RPOS and the numbers
issued of its checkpoint, an operation of an earlier phase that has completed since staying complete; of an escaped or replayed phase it raises UE_DATA (R380, R382, R383). -/
def Sys2Proof.Claims.BadReadsAreRefetchedOrReplayed : Prop :=
  (∀ (s u : State) (c l j lo v : Nat) (cx : CtxId) (d : Delayed) (p : Pair) (f : Fill),
    (s.core c).delayed.find? (fun d => d.cx == cx && d.refetch) = some d → d.store = false →
    d.lines.filter (fun l => (s.ctxAt c cx).refetchable l
      && ((s.core c).badTess.contains l || (s.core c).softTess.contains l)) = [l] →
    (s.ctxAt c cx).fillAt l = some (j, p, f, lo) → s.refill c cx f (p.base + (64 * l - lo)) = (u, some v) →
    (u.ctxAt c d.cx).dueTrap = none →
    ∃ t, exec (.refetchDone c cx) s = .next t ∧ Mem.read (t.core c).tess (64 * l) 64 = v % 256 ^ 64
      ∧ l ∉ (t.core c).badTess ∧ (∀ e ∈ (t.core c).delayed, e.id ≠ d.id))
  ∧ (∀ (s : State) (c : Nat) (cx : CtxId),
    let x := s.ctxAt c cx
    x.transient = true → x.resid = false →
    ((x.esc = false ∧ x.rpl = false) →
      ∃ t, exec (.phaseReplay c cx) s = .next t
        ∧ (let y := t.ctxAt c cx
          y.pc = x.pstart ∧ y.regs = x.check.regs ∧ y.pwq = x.check.pwq ∧ y.lr = x.check.lr ∧ y.tail = x.check.tail
          ∧ y.rpos = x.check.rpos ∧ y.seqs = x.check.seqs
          ∧ (∀ ch, ch < 8 → Tbl.get 0 y.dones ch
              = if olderStamp (Tbl.get 0 x.check.seqs ch) (Tbl.get 0 x.dones ch) then Tbl.get 0 x.check.seqs ch
                else Tbl.get 0 x.dones ch)
          ∧ y.rpl = true ∧ y.transient = false ∧ y.owed = none
          ∧ y.rcnt.toNat = min 255 (x.rcnt.toNat + 1))
        ∧ (∀ a ∈ (t.core c).accs, a.cx = cx → a.bundle < x.phase0)
        ∧ (cx ≠ .svc → t.ctxAt c (otherCtx cx) = s.ctxAt c (otherCtx cx)) ∧ (t.core c).acm = (s.core c).acm ∧ OnlyCore c s t)
    ∧ ((x.esc = true ∨ x.rpl = true) →
      ∃ t, exec (.phaseReplay c cx) s = .next t
        ∧ t.ctxAt c cx = { x with transient := false, asyncs := x.asyncs ++ [{ code := 13 }] } ∧ OnlyCore c s t))

/-- The head of a channel starts once it may: a fault recorded at issue ends it with that cause and address, and so does one
found at the start, before any byte moves; a matrix call gives the array its routine at its start word; a re-stripe of an
aligned page with another, valid geometry puts the page in work; a copy without a predecessor starts its checksum from 0;
and each is then running. Starting brings on its way the writes it comes after, and moves no other byte. One whose
predecessor is not complete does not start (R218, R288 to R290, R302, R244, R307, R318). -/
def Sys2Proof.Claims.OperationsStart : Prop :=
  ∀ (s : State) (c ch : Nat) (o : ChildOp),
    let b := s.bringAll (s.opDeps c o)
    (MayStart s c ch o →
      (o.bad ≠ 0 → ∃ t, exec (.opStart c ch) s = .next t ∧ OpStands t c o 6 o.bad o.badAddr)
      ∧ (∀ cause a, o.bad = 0 → b.startFault c o = some (cause, a) →
        ∃ t, exec (.opStart c ch) s = .next t ∧ OpStands t c o 6 cause a ∧ (∀ p, Mem.byte t.mem p = Mem.byte b.mem p))
      ∧ (o.bad = 0 → o.kind ≠ .rstrp → b.startFault c o = none →
        ∃ t, exec (.opStart c ch) s = .next t ∧ OpStands t c o 2 o.cause o.addr ∧ OnlyCore c b t ∧ KeepsMemory b t
          ∧ (o.kind = .mcall → (t.core c).mx = { run := true, q := o.q, word := o.start })
          ∧ (o.kind ≠ .mcall → (t.core c).mx = (s.core c).mx)
          ∧ (o.kind = .copy → o.pred = 0 → ∃ q ∈ (t.core c).ops, q.token = o.token ∧ q.state = 2 ∧ q.runck = 0))
      ∧ (∀ pa plc, o.bad = 0 → o.kind = .rstrp →
        let va := leAt o.packet 8 8
        let geo := leAt o.packet 1 1
        b.translate c o.cx va 2 = .ok (pa, plc) → va % pageBytes (plcPs plc) = 0 → (b.geotAt geo).getLsbD 32 = true →
        (∀ u ∈ b.stripes, u.page ≠ pa) →
        (b.geoAt (pa / 65536) = geo → o.newer < 64 → ∃ t, exec (.opStart c ch) s = .next t ∧ OpStands t c o 4 0 0)
        ∧ (b.geoAt (pa / 65536) ≠ geo → ∃ t, exec (.opStart c ch) s = .next t ∧ OpStands t c o 2 o.cause o.addr
            ∧ (∀ p, Mem.byte t.mem p = Mem.byte b.mem p)
            ∧ t.stripes = b.stripes ++ [{ page := pa, size := pageBytes (plcPs plc), geo := geo, done := 0,
                                          owner := o.gang, token := o.token }])))
    ∧ (∀ d, (s.core c).headOp ch = some o → o.bad = 0 → o.pred ≠ 0 → s.tokIssued c o.gang o.pred = some d →
        s.tokComplete d o.pred = false → exec (.opStart c ch) s = .next s)

/-- The copy engine grants a running head, and but for each sixteenth grant one of the highest priority. A granted copy
that is cancelled ends CANCELLED and a suspended one stops, both with no byte moved; one line of a copy inside the tessera
moves its 64 bytes and no other, and the last one ends it DONE, or FAULTED with cause CHECKSUM when the packet's checksum
disagrees; a line whose source is beyond the tessera ends it with cause UNMAPPED (R302, R305, R308, R309, R330, R335). -/
def Sys2Proof.Claims.CopyLinesMove : Prop :=
  (∀ (k : Core) (ch : Nat) (o : ChildOp), k.nextGrant = some (ch, o) →
    k.headOp ch = some o ∧ o.state = 2 ∧ o.kind ≠ .kjoin
    ∧ ((k.grants + 1) % 16 ≠ 0 → ∀ ch' o', ch' ∈ [0, 1, 2, 3, 6] → k.headOp ch' = some o' → o'.state = 2 → o'.kind ≠ .kjoin →
        o'.pri ≤ o.pri))
  ∧ (∀ (s : State) (c ch : Nat) (o : ChildOp), (s.core c).nextGrant = some (ch, o) → o.kind ≠ .rstrp → o.newer < 64 →
    s.opVeiled c o = false →
    (o.cancel = true → ∃ t, exec (.copyLineGrant c) s = .next t ∧ OpStands t c o 5 0 0)
    ∧ (o.cancel = false → o.suspend = true → ∃ t, exec (.copyLineGrant c) s = .next t ∧ OpStands t c o 3 o.cause o.addr
        ∧ OnlyCore c s t ∧ KeepsMemory s t)
    ∧ (o.cancel = false → o.suspend = false →
      let p := copyP o.packet o.fromF o.toF
      let sa := (p.line o.lines).1
      let da := (p.line o.lines).2.2.1
      let line := Mem.read (s.core c).tess sa 64
      let ck := ckLine p.ckm o.runck.toNat line
      p.ssp = 1 → p.dsp = 1 → p.cv = false → p.swz = false → p.mcast = false → p.hoden = false → o.halves = [] →
      sa % 64 = 0 → da % 64 = 0 →
      (sa + 64 ≤ Config.tessSize → da + 64 ≤ Config.tessSize → sa / 64 ∉ (s.core c).badTess → sa / 64 ∉ (s.core c).softTess →
        (s.ctxAt c o.cx).dueTrap = none →
        ∃ t, exec (.copyLineGrant c) s = .next t
          ∧ Mem.read (t.core c).tess da 64 = line ∧ OutsideTess c da 64 s t
          ∧ (o.lines + 1 < p.total → OpStands t c o 2 o.cause o.addr
              ∧ ∃ q ∈ (t.core c).ops, q.token = o.token ∧ q.lines = o.lines + 1 ∧ q.runck = BitVec.ofNat 32 ck)
          ∧ (p.total ≤ o.lines + 1 → (p.chk = false ∨ (BitVec.ofNat 32 ck).toNat = p.expck) → OpStands t c o 4 0 0)
          ∧ (p.total ≤ o.lines + 1 → p.chk = true → (BitVec.ofNat 32 ck).toNat ≠ p.expck →
              OpStands t c o 6 5 (BitVec.ofNat 64 p.dst)))
      ∧ (Config.tessSize < sa + 64 → ∃ t, exec (.copyLineGrant c) s = .next t ∧ OpStands t c o 6 2 (BitVec.ofNat 64 sa))))

/-- One line of a re-stripe moves: until the last, the page's count goes up by one; with the last, the page is out of work,
its frames have the new geometry, and the operation is DONE. No byte of the device's memory reads differently (R244). -/
def Sys2Proof.Claims.RestripesMoveLines : Prop :=
  ∀ (s : State) (c ch : Nat) (o : ChildOp) (u : Stripe),
    (s.core c).nextGrant = some (ch, o) → o.kind = .rstrp → o.suspend = false → o.newer < 64 →
    s.stripes.find? (fun t => t.owner == o.gang && t.token == o.token) = some u →
    ∃ t, exec (.restripeLineMove c) s = .next t ∧ (∀ p, Mem.byte t.mem p = Mem.byte s.mem p)
      ∧ (64 * (u.done + 1) < u.size →
          t.stripes = s.stripes.map (fun v => if v.page = u.page then { u with done := u.done + 1 } else v)
          ∧ t.frameGeo = s.frameGeo ∧ OpStands t c o 2 o.cause o.addr)
      ∧ (u.size ≤ 64 * (u.done + 1) →
          (∀ v ∈ t.stripes, v.page ≠ u.page)
          ∧ (∀ n, u.page / 65536 ≤ n → n < u.page / 65536 + u.size / 65536 → t.geoAt n = u.geo)
          ∧ (∀ n, n < u.page / 65536 ∨ u.page / 65536 + u.size / 65536 ≤ n → Tbl.get 0 t.frameGeo n = Tbl.get 0 s.frameGeo n)
          ∧ OpStands t c o 4 0 0)

/-- The packets of a collective's members that are known and sound (R336). -/
def Sys2Proof.Claims.packetsOf (ms : List Member) : List (List Byte) :=
  ms.filterMap fun m => match m with
    | .here _ q => if q.bad = 0 then some q.packet else none
    | .far f => if f.packet = [] then none else some f.packet
    | .missing => none

/-- A member's part has an end that faults the others: its strand has halted without issuing it, or it has faulted or is lost
with its die, another than `c`'s (R336, R409). -/
def Sys2Proof.Claims.PartGone (s : State) (c g sidx : Nat) : Member → Prop
  | .here d q => q.state = 6 ∨ q.state = 7 ∨ (dieOf d ≠ dieOf c ∧ (s.die (dieOf d)).lost = true)
  | .far f => f.ended = 6
  | .missing => s.strandHalted g sidx = true ∨ s.farHalted g sidx = true

/-- The parts are told apart: each is its core's record of its token, and two on one core are of different contexts. -/
def Sys2Proof.Claims.Apart (s : State) (found : List (Nat × ChildOp)) : Prop :=
  (∀ e ∈ found, (s.core e.1).opOf e.2.token = some e.2 ∧ e.2.newer < 64)
    ∧ found.Pairwise fun e f => e.1 = f.1 → e.2.cx ≠ f.2.cx ∧ e.2.order ≠ f.2.order ∧ e.2.token ≠ f.2.token

/-- A part moves inside its own tessera, which reads right: a packet that R338 allows, no region, no hod, line `l` next, and
no trap due that a landing would let in. -/
def Sys2Proof.Claims.PlainPart (s : State) (n l : Nat) (e : Nat × ChildOp) : Prop :=
  let pk := e.2.packet
  (∃ nlev, collBad pk nlev n = false) ∧ e.2.halves = [] ∧ leAt pk 6 1 = 0x11 ∧ leAt pk 7 1 = 0 ∧ e.2.lines = l
    ∧ leAt pk 8 8 + (if leAt pk 1 1 = 1 ∨ leAt pk 1 1 = 4 then n else 1) * leAt pk 24 4 * (tyWidth (leAt pk 3 1 % 8) / 8)
        ≤ Config.tessSize
    ∧ leAt pk 16 8 + 64 * collLines pk n ≤ Config.tessSize ∧ (s.core e.1).badTess = [] ∧ (s.core e.1).softTess = []
    ∧ (s.ctxAt e.1 e.2.cx).dueTrap = none

/-- A collective whose parts disagree ends FAULTED with cause PACKET, and one with a member halted, faulted or on another
die that is lost with cause PEER. A part that is cancelled ends every part here CANCELLED, and one that is to be suspended
takes every running part with it. Otherwise a step moves the next 64 lines of each member at most, every one the
combination of its source lines, and no other byte; the last step ends every part DONE (R313, R336 to R338). -/
def Sys2Proof.Claims.CollectivesStep : Prop :=
  ∀ (s : State) (c : Nat) (o : ChildOp),
    (s.core c).headOp 5 = some o → (s.core c).opOf o.token = some o → o.state = 2 → o.kind = .coll → o.newer < 64 →
    let ms := s.collMembers o
    let found := (hereParts ms).map (·.2)
    let agree := ∀ p ∈ packetsOf ms, collKey p = collKey o.packet
    let gone := ∃ e ∈ (s.members o.gang o).zip ms, PartGone s c o.gang e.1 e.2
    let stopped := (∃ e ∈ found, e.2.cancel = true ∨ e.2.state = 5) ∨ ∃ f, .far f ∈ ms ∧ f.ended = 5
    (.missing ∉ ms → ¬ agree → ∃ t, exec (.collStep c) s = .next t ∧ OpStands t c o 6 1 0)
    ∧ (agree → stopped → Apart s found →
      ∃ t, exec (.collStep c) s = .next t ∧ ∀ e ∈ found, settledCode e.2.state = false → OpStands t e.1 e.2 5 0 0)
    ∧ (agree → ¬ stopped → gone → ∃ t, exec (.collStep c) s = .next t ∧ OpStands t c o 6 9 0)
    ∧ (agree → ¬ stopped → ¬ gone → (∃ e ∈ found, e.2.state = 2 ∧ e.2.suspend = true) → Apart s found →
      ∃ t, exec (.collStep c) s = .next t ∧ KeepsMemory s t
        ∧ ∀ e ∈ found, e.2.state = 2 → OpStands t e.1 e.2 3 e.2.cause e.2.addr)
    ∧ (let n := ms.length
      let total := collLines o.packet n
      let stop := min (o.lines + 64) total
      let src := fun (i : Nat) => (found.getD i (0, o))
      agree → ¬ stopped → ¬ gone → found.length = n → Apart s found → s.unripe = [] → o.lines < total →
      (∀ e ∈ found, e.2.state = 2 ∧ e.2.suspend = false ∧ e.2.bad = 0 ∧ PlainPart s n o.lines e) →
      (∀ i j, i < n → j < n → (src i).1 = (src j).1 →
        let d := leAt (src i).2.packet 16 8
        let a := leAt (src j).2.packet 8 8
        let b := leAt (src j).2.packet 16 8
        (d + 64 * total ≤ a ∨ a + (if leAt o.packet 1 1 = 1 ∨ leAt o.packet 1 1 = 4 then n else 1) * leAt o.packet 24 4
            * (tyWidth (leAt o.packet 3 1 % 8) / 8) ≤ d ∨ (i = j ∧ d = a ∧ leAt o.packet 1 1 = 0)) ∧ (i ≠ j → d + 64 * total ≤ b ∨ b + 64 * total ≤ d)) →
      ∃ t, exec (.collStep c) s = .next t
        ∧ (∀ e ∈ found, (total ≤ o.lines + 64 → OpStands t e.1 e.2 4 0 0)
          ∧ (o.lines + 64 < total → OpStands t e.1 e.2 2 e.2.cause e.2.addr
              ∧ ∃ q ∈ (t.core e.1).ops, q.token = e.2.token ∧ q.lines = o.lines + 64))
        ∧ (∀ i l, i < n → o.lines ≤ l → l < stop →
            Mem.read (t.core (src i).1).tess (leAt (src i).2.packet 16 8 + 64 * l) 64
              = collLine o.packet ((collSources o.packet n i l).map fun q =>
                  Mem.read (s.core (src q.1).1).tess (leAt (src q.1).2.packet 8 8 + q.2) 64) % 256 ^ 64)
        ∧ (∀ d p, (∀ i, i < n → (src i).1 = d →
              p < leAt (src i).2.packet 16 8 + 64 * o.lines ∨ leAt (src i).2.packet 16 8 + 64 * stop ≤ p) →
            Mem.byte (t.core d).tess p = Mem.byte (s.core d).tess p)
        ∧ (∀ p, Mem.byte t.mem p = Mem.byte s.mem p))

/-- A hash reads its source whole, writes the SHA-256 of it as one line and ends DONE, or ends FAULTED with the cause and
address of the transfer that failed; a cancelled operation ends CANCELLED, and one whose key slot is empty faults. An XTS
operation of one line writes the line that AES-XTS gives under its key slot and its line's tweak (R340). -/
def Sys2Proof.Claims.CryptoOperationsRun : Prop :=
  ∀ (s : State) (c : Nat) (o : ChildOp),
    (s.core c).headOp 7 = some o → o.state = 2 → o.kind = .cryp → o.newer < 64 → s.opVeiled c o = false →
    let pk := o.packet
    let m := s.moverOf c o
    let len := leAt pk 4 4
    (o.cancel = true → ∃ t, exec (.cryptoOperation c) s = .next t ∧ OpStands t c o 5 0 0)
    ∧ (o.cancel = false → leAt pk 1 1 = 2 → o.lines = 0 →
      (∀ u cause a, s.readBytes m (leAt pk 3 1 % 8) (len / 64 + 2) (leAt pk 8 8 % 2 ^ 64) len = (u, .error (cause, a)) →
        ((u.spoil m (crypDst pk o.lines).1 [(crypDst pk o.lines).2]).core c).ops = (s.core c).ops →
        ∃ t, exec (.cryptoOperation c) s = .next t ∧ OpStands t c o 6 cause (BitVec.ofNat 64 a))
      ∧ (∀ u x, s.readBytes m (leAt pk 3 1 % 8) (len / 64 + 2) (leAt pk 8 8 % 2 ^ 64) len = (u, .ok x) →
        u.core c = s.core c →
        leAt pk 3 1 / 16 = 1 → o.halves = [] → leAt pk 16 8 + 64 ≤ Config.tessSize → (s.ctxAt c o.cx).dueTrap = none →
        ∃ t, exec (.cryptoOperation c) s = .next t ∧ OpStands t c o 4 0 0
          ∧ Mem.read (t.core c).tess (leAt pk 16 8) 64
              = Crypto.leNat (Crypto.sha256 (Crypto.leBytes len x.1)) % 256 ^ 64))
    ∧ (o.cancel = false → leAt pk 1 1 ≠ 2 → s.keySlot (leAt pk 2 1) = none →
      ∃ t, exec (.cryptoOperation c) s = .next t ∧ OpStands t c o 6 1 0)
    ∧ (o.cancel = false → leAt pk 1 1 ≠ 2 → s.keySlot (leAt pk 2 1) ≠ none → len = 64 → o.lines = 0 → leAt pk 3 1 = 0x11 → o.halves = [] →
      let sa := leAt pk 8 8
      let da := leAt pk 16 8
      sa % 64 = 0 → sa + 64 ≤ Config.tessSize → da + 64 ≤ Config.tessSize → sa / 64 ∉ (s.core c).badTess →
      sa / 64 ∉ (s.core c).softTess → (s.ctxAt c o.cx).dueTrap = none →
      ∃ t, exec (.cryptoOperation c) s = .next t ∧ OpStands t c o 4 0 0
        ∧ Mem.read (t.core c).tess da 64
            = Crypto.leNat (Crypto.xts (leAt pk 1 1 == 0) (s.keyBytes (leAt pk 2 1)) (leAt pk 24 8)
                (Crypto.leBytes 64 (Mem.read (s.core c).tess sa 64))) % 256 ^ 64
        ∧ OutsideTess c da 64 s t)

/-- A KJOIN at the head of its channel ends DONE once its predecessor and every earlier operation of its channels are
complete, and does nothing before; a fault recorded at issue ends it (R289, R341). -/
def Sys2Proof.Claims.JoinsComplete : Prop :=
  ∀ (s : State) (c ch : Nat) (o : ChildOp),
    (s.core c).headOp ch = some o → o.kind = .kjoin → o.state = 1 → s.opsRun o = true → o.newer < 64 →
    (o.bad ≠ 0 → ∃ t, exec (.kjoinComplete c ch) s = .next t ∧ OpStands t c o 6 o.bad 0)
    ∧ (o.bad = 0 → (o.pred = 0 ∨ ∀ d, s.tokIssued c o.gang o.pred = some d → s.tokComplete d o.pred = true) →
      let joined := fun (q : ChildOp) => q ∈ (s.core c).ops ∧ q.order < o.order ∧ o.mask.testBit q.ch = true
      ((∀ q, joined q → completeCode q.state = true) →
        ∃ t, exec (.kjoinComplete c ch) s = .next t ∧ OpStands t c o 4 0 0)
      ∧ ((∃ q, joined q ∧ completeCode q.state = false) → exec (.kjoinComplete c ch) s = .next s))

/-- The adapter row that an ADPT waits for is read by its directory entry: it goes into a row of the bay, entries of other
rows stay, the routine waits no longer, and its word runs again; an entry that cannot be read, or breaks the directory's
layout, ends the operation with that cause (R207, R209, R210). -/
def Sys2Proof.Claims.AdapterFetchesFill : Prop :=
  ∀ (s u v : State) (c id index dir : Nat) (up : Bool) (o : ChildOp) (r : Routine),
    ({ s with focus := c } : State).mxRun = some (o, r) → r.fetch = some (up, id, index, dir) →
    (∀ dva uva rank e row, ({ s with focus := c } : State).adapterDir (s.moverOf c o) dir id = (u, .ok (dva, uva, rank, e)) →
      u.readBytes (s.moverOf c o) 0 65 (((if up then uva else dva) + 4096 * index) % 2 ^ 64) 4096 = (v, .ok row) →
      ∃ t n, exec (.adapterFetchComplete c) s = .next t
        ∧ (t.core c).mx = { r with fetch := none } ∧ Mem.read (t.core c).lintel (4096 * n) 4096 = row.1 % 256 ^ 4096
        ∧ { row := n, up := up, id := id, index := index } ∈ (t.core c).bay
        ∧ (∀ e ∈ (v.core c).bay, e.row ≠ n → e ∈ (t.core c).bay)
        ∧ (∀ p, p < 4096 * n ∨ 4096 * n + 4096 ≤ p → Mem.byte (t.core c).lintel p = Mem.byte (v.core c).lintel p))
    ∧ (∀ cause p, ({ s with focus := c } : State).adapterDir (s.moverOf c o) dir id = (u, .error cause) →
      (u.core c).halfRow = none → (u.core c).mxOp = some p → p.newer < 64 →
      ∃ t, exec (.adapterFetchComplete c) s = .next t ∧ (t.core c).mx = {}
        ∧ ∃ q ∈ (t.core c).ops, q.token = p.token ∧ q.state = 6 ∧ q.cause = cause)

namespace Sys2Proof.Claims

/-! ### The distributor and the host -/

/-- The message that a host-message row carries. -/
def msgOf : Instr → Option HostMsg
  | .mwrite m => some m
  | .mread m => some m
  | .claim m => some m
  | .ingress m => some m
  | .deadlineRaise m => some m
  | .deadlineExpire m => some m
  | .fanswerMapped m => some m
  | .fanswerNone m => some m
  | .fmap m => some m
  | _ => none

/-- The device is booted, and the message names a provisioned tenant and has as many bytes as it says (R417, R436). -/
def Accepted (s : State) (m : HostMsg) : Prop :=
  s.booted = true ∧ m.ten.toNat < 16 ∧ m.data.length = m.len.toNat ∧ (s.tenant m.ten.toNat).on = true

/-- The device answers `m` with one message and does nothing else. -/
def OnlyAnswers (m : HostMsg) (type : Nat) (a0 : Word64) (s t : State) : Prop := t = s.answer m type a0 []

/-- `n` bytes at a physical address lie inside one line that its home serves to the tenant unencrypted. -/
def PlainAt (s : State) (ten : Nat) (pa n : Nat) (plc : BitVec 32) : Prop :=
  s.serves (some ten) (64 * (pa / 64)) plc = true ∧ plcEnc plc = false ∧ pa % 64 + n ≤ 64

/-- The bytes of the device's memory in a range are `v`, and every other byte is as before. -/
def Stores (pa n v : Nat) (s t : State) : Prop :=
  Mem.read t.mem pa n = v % 256 ^ n ∧ ∀ p, p < pa ∨ pa + n ≤ p → Mem.byte t.mem p = Mem.byte s.mem p

/-- A claim selected by the distributor: what the gang that comes of it holds, its record and its images among it (R123,
R124, R357). -/
def SelectedGang (ten claim pri : Nat) (g : Gang) : Prop :=
  g.ten = ten ∧ g.claim = claim
    ∧ (g.state = 10 ∨ (g.state = 1 ∧ g.bound = pri ∧ g.cls = leAt g.record 5 1 ∧ g.levels = recLevels g.record
        ∧ g.scnt = strandCount g.levels ∧ ∃ u, State.recordCode u ten g.record g.im = 0))

end Sys2Proof.Claims

/-- Writes of system registers with an event of their own, each of the core in focus or the device: a hod is created from
a valid value only while it does not exist, empty and owned by the writing bank, and is destroyed by a clear EN; MXCFG sets
the bay and empties it, but not while the matrix channel is busy; INTP's ones clear pending bits; TRRB clears the trace
status and names the ring from the next cycle on; DTQ is kept for the next selection, after which the distributor looks again; RCLS is taken unless a die would have
two classes (R183, R315, R354, R355, R392, R448). -/
def Sys2Proof.Claims.RegisterWritesTakeEffect : Prop :=
  ∀ (s : State) (hod : BitVec 5) (ten cls : BitVec 4) (v : Word64),
    (v.getLsbD 54 = true → (s.kore.hod hod.toNat).en = false → hcfgOk v.toNat = true →
      ∃ t, exec (.hcfgCreate hod v) s = .next t ∧ OnlyCore s.focus s t
        ∧ (∀ j, j ≠ hod.toNat → t.kore.hod j = s.kore.hod j) ∧ { t.kore with hods := s.kore.hods } = s.kore
        ∧ (let h := t.kore.hod hod.toNat
          h.en = true ∧ h.own = bankOf s.cx ∧ h.priv = v.getLsbD 55 ∧ h.carry = v.getLsbD 53 ∧ h.mode = v.getLsbD 52
          ∧ h.base.toNat = v.toNat % 2 ^ 20 ∧ h.ssz.toNat = v.toNat / 2 ^ 20 % 2 ^ 11
          ∧ h.nslot.toNat = v.toNat / 2 ^ 32 % 2 ^ 13 ∧ h.wp = 0 ∧ h.rp = 0 ∧ h.ovf = false ∧ h.xset = false))
    ∧ (v.getLsbD 54 = true → ((s.kore.hod hod.toNat).en = true ∨ hcfgOk v.toNat = false) →
      ∃ t, exec (.hcfgCreate hod v) s = .next t ∧ t.kore = s.kore ∧ OnlyCore s.focus s t)
    ∧ (v.getLsbD 54 = false →
      ∃ t, exec (.hcfgDestroy hod v) s = .next t ∧ OnlyCore s.focus s t
        ∧ t.kore.hod hod.toNat = { s.kore.hod hod.toNat with en := false }
        ∧ (∀ j, j ≠ hod.toNat → t.kore.hod j = s.kore.hod j) ∧ { t.kore with hods := s.kore.hods } = s.kore)
    ∧ (s.kore.matrixBusy = false →
      ∃ t, exec (.mxcfgWrite v) s = .next t ∧ t.kore = { s.kore with mxcfg := v.setWidth 2, bay := [] } ∧ OnlyCore s.focus s t)
    ∧ (s.kore.matrixBusy = true → exec (.mxcfgWrite v) s = .next s)
    ∧ (∃ t, exec (.intpWrite v) s = .next t ∧ OnlyCore s.focus s t
        ∧ (∀ n, n < 16 → t.kore.intp.getLsbD n = (s.kore.intp.getLsbD n && !v.getLsbD n))
        ∧ { t.kore with intp := s.kore.intp } = s.kore)
    ∧ (∃ t, exec (.trrbWrite v) s = .next t ∧ OnlyCore s.focus s t
        ∧ t.kore.trrb.toNat = v.toNat % 2 ^ 48 / 64 * 64 ∧ t.kore.trFault = false ∧ t.kore.trDrop = 0
        ∧ (s.kore.trWas = none → ∀ n, n ≤ s.me.clock → (t.kore.traceIn n).rb = s.kore.trrb)
        ∧ (∀ n, s.me.clock < n → (t.kore.traceIn n).rb = t.kore.trrb)
        ∧ { t.kore with trrb := s.kore.trrb, trFault := s.kore.trFault, trDrop := s.kore.trDrop, trWas := s.kore.trWas } = s.kore)
    ∧ (∃ t, exec (.dtqWrite ten v) s = .next t ∧ (Tbl.get 0 t.dtq ten.toNat).toNat = v.toNat % 2 ^ 48 / 64 * 64
        ∧ ten.toNat ∈ t.dtqNew ∧ (∀ j, j ≠ ten.toNat → Tbl.get 0 t.dtq j = Tbl.get 0 s.dtq j)
        ∧ { t with dtq := s.dtq, dtqNew := s.dtqNew } = s)
    ∧ (cls ≠ 0 → (∀ e ∈ s.rcls, e.1 ≠ cls.toNat → e.2 &&& v &&& 0xFF = 0) →
      ∃ t, exec (.rclsWrite cls v) s = .next t ∧ Tbl.get 0 t.rcls cls.toNat = v &&& 0xFFFF00FF
        ∧ (∀ j, j ≠ cls.toNat → Tbl.get 0 t.rcls j = Tbl.get 0 s.rcls j) ∧ { t with rcls := s.rcls } = s)
    ∧ ((∃ e ∈ s.rcls, e.1 ≠ cls.toNat ∧ e.2 &&& v &&& 0xFF ≠ 0) → exec (.rclsWrite cls v) s = .next s)

/-- A scan of a served launch queue notices the claim at RI once its stamp is there, with the priority and class of its
record, or of a RAISE, and none before; a claim that is selected already is not noticed again, one that has expired is passed
over; and a header that cannot be read marks the queue until its register is written again (R354, R356 to R358, R363). -/
def Sys2Proof.Claims.QueuesAreScanned : Prop :=
  ∀ (s : State) (ten : BitVec 4), s.servesQueue ten.toNat = true →
    let t := ten.toNat
    let hdr := s.lqHdr t
    (∀ e, s.tenantAt t hdr 3 = .error e → ∃ u, exec (.queueScan ten) s = .next u ∧ t ∈ u.dtqBad)
    ∧ (∀ p u wi ri nslot slotb, s.tenantAt t hdr 3 = .ok p → s.ringHeader 1 t hdr 64 = (u, some (wi, ri, nslot, slotb)) →
      nslot ≤ 4096 → u.tenants = s.tenants →
      (u.selected t ri = true → ∃ v, exec (.queueScan ten) s = .next v ∧ (v.tenant t).cand = none)
      ∧ (u.selected t ri = false → ri ∈ (s.tenant t).expired →
        ∃ v, exec (.queueScan ten) s = .next v ∧ (v.tenant t).cand = none ∧ ri ∉ (v.tenant t).expired)
      ∧ (∀ v b, u.selected t ri = false → ri ∉ (s.tenant t).expired → u.engReadBytes 1 t 2 (slotb + 64 * (ri % nslot)) 64 = (v, .ok b) →
        v.tenants = s.tenants →
        (leAt b 0 8 ≠ ri + 1 → ∃ w, exec (.queueScan ten) s = .next w ∧ (w.tenant t).cand = none)
        ∧ (∀ w pr, leAt b 0 8 = ri + 1 → v.engRead 1 t (leAt b 8 8 + 4) 2 = (w, .ok pr) →
          ∃ x pri, exec (.queueScan ten) s = .next x ∧ (x.tenant t).cand = some (ri, pri, pr / 256 % 16)
            ∧ ((∀ e ∈ (s.tenant t).raised, e.1 ≠ ri) → pri = pr % 4)
            ∧ (∀ q, (s.tenant t).raised.find? (fun e => e.1 == ri) = some (ri, q) → pri = q))))

/-- A selection takes the distributor's registers as they stand, and what it noticed of a queue is void once another takes its
place. Of the tenants, one whose candidate is the only one is then
selected: its pass goes on by 65536 divided by its share; a suspended gang waits for its placement again; and a noticed claim
becomes a gang with the next number, which waits with its priority and its record's levels and class when the record passes
every check, and is rejected otherwise. With no candidate nothing else changes (R124, R355 to R358). -/
def Sys2Proof.Claims.LaunchesAreSelected : Prop :=
  ∀ (s : State) (ten : Nat), ten < 16 →
    let r := s.takeRegs
    (r.dtqIn = s.dtq ∧ r.dtcIn = s.dtc ∧ r.rclsIn = s.rcls ∧ r.dtqNew = [] ∧ r.gangs = s.gangs ∧ r.cores = s.cores
      ∧ ∀ t ∈ s.dtqNew, t ∉ r.dtqBad ∧ (Tbl.get 0 s.dtq t ≠ Tbl.get 0 s.dtqIn t →
          (r.tenant t).cand = none ∧ (r.tenant t).raised = [] ∧ (r.tenant t).expired = []))
    ∧ ((∀ t, t < 16 → t ≠ ten → r.candidate t = none) →
    (r.candidate ten = none → exec .launchSelect s = .next r)
    ∧ (∀ g claim pri cls, r.candidate ten = some (g, claim, pri, cls) → r.beats pri cls = true →
      ∃ t, exec .launchSelect s = .next t
        ∧ (t.tenant ten).pass = (if (s.tenant ten).was then (s.tenant ten).pass else max (s.tenant ten).pass s.vpass)
            + 65536 / max 1 ((Tbl.get 0 s.dtc ten).toNat / 256 % 256)
        ∧ (∀ n, g = some n → (t.gang n).state = 1 ∧ { t.gang n with state := (s.gang n).state } = s.gang n
            ∧ t.nextGang = s.nextGang)
        ∧ (g = none → SelectedGang ten claim pri (t.gang s.nextGang) ∧ t.nextGang = s.nextGang + 1)))

/-- The checks of a launch record come in R124's order: its version, its reserved fields and level count, its levels, their
counts, a secondary stream without SECBND, and its entry, image and frame addresses; one that passes has a window aligned to
its granule, and a class that its tenant may use (R361). -/
def Sys2Proof.Claims.LaunchRecordsAreChecked : Prop :=
  ∀ (s : State) (ten : Nat) (r : List Byte) (im : Images),
    let ls := recLevels r
    let c := s.recordCode ten r im
    (leAt r 0 2 ≠ 1 ↔ c = 1)
    ∧ (leAt r 0 2 = 1 → (recZero r = false ↔ c = 2))
    ∧ (leAt r 0 2 = 1 → recZero r = true → (levelsOk ls = false ↔ c = 3))
    ∧ (leAt r 0 2 = 1 → recZero r = true → levelsOk ls = true → (countsOk (rootDom ls) ls = false ↔ c = 4))
    ∧ (c = 0 → leAt r 7 1 ≠ 3 ∧ leAt r 0x40 8 % (4096 * granule (leAt r 7 1)) = 0 ∧ leAt r 8 8 % 32 = 0 ∧ leAt r 8 8 < 2 ^ 48 ∧ leAt r 0x68 4 % 64 = 0 ∧ leAt r 0x6C 4 % 64 = 0
        ∧ leAt r 0x68 4 + leAt r 0x6C 4 ≤ Config.tessSize ∧ leAt r 0x70 4 % 64 = 0
        ∧ leAt r 0x70 4 + 0x880 ≤ Config.tessSize ∧ leAt r 0x50 2 ≤ 16384 ∧ leAt r 0x52 1 ≤ 32 ∧ leAt r 0x53 1 ≤ 8
        ∧ (leAt r 3 1 % 2 = 1 → (s.tenant ten).mlok = true) ∧ s.classOk ten (leAt r 5 1) = true)

/-- A waiting gang that need not leave room for another (R362) nor wait for its class's own dies (R364), that no other device
has rejected (R414), while no die is being switched (R408), is placed whole once it fits: each tile's core then holds its strand at the record's entry point, its
scalar registers 16 to 31 from the record, its index and gang, and the record's tessera image, and a gang of one device runs.
One that is resumed waits to be restored instead. A gang of class 0 that does not fit changes nothing, and one of a higher
class asks lower classes on its dies to stop (R125, R128, R130, R357, R359, R360). -/
def Sys2Proof.Claims.GangsArePlaced : Prop :=
  ∀ (s : State) (n : Nat), (s.gang n).state = 1 →
    let g := s.gang n
    s.yields g = false → s.switching = false → (s.partRejected g = false ∨ g.saves ≠ []) →
    (s.fit [] g = none → g.cls = 0 → exec (.gangPlace n) s = .next s)
    ∧ (s.fit [] g = none → g.cls ≠ 0 → Tbl.wf {} s.gangs = true →
      ∃ t, exec (.gangPlace n) s = .next t ∧ ∀ q ∈ s.untilFits g (s.lowerOn g.cls) [], (t.gang q).state = 4)
    ∧ (∀ m, s.claimsOwn g = false → s.fit [] g = some m → g.saves ≠ [] →
      ∃ t, exec (.gangPlace n) s = .next t ∧ (t.gang n).state = 2 ∧ KeepsMemory s t
        ∧ ((m.map (·.1)).Nodup → ∀ e ∈ m, Tbl.get none (t.gang n).place e.1 = some e.2))
    ∧ (∀ m, s.claimsOwn g = false → s.fit [] g = some m → g.saves = [] → (m.map (·.2)).Nodup → (m.map (·.1)).Nodup →
      ∃ t, exec (.gangPlace n) s = .next t
        ∧ (t.gang n).state = (if isFabric g.levels then 9 else 3) ∧ (t.gang n).unhalted = g.strands
        ∧ (∀ e ∈ m, Tbl.get none (t.gang n).place e.1 = some e.2)
        ∧ (∀ e ∈ m, ∀ st ∈ allStrands g.levels, st.pos.dev = g.gdev → st.pos.gtile = e.1 →
            (∀ su ∈ allStrands g.levels, su.pos.dev = g.gdev → su.pos.gtile = e.1 → su.pos.sec = st.pos.sec → su = st) →
            let x := (t.core e.2).ctx (if st.pos.sec then .cb1 else .cb0)
            x.pc = BitVec.ofNat 64 (leAt g.record 8 8) ∧ x.gang = n ∧ x.halted = false ∧ x.trapped = false ∧ x.pwq = []
            ∧ x.phn = 0 ∧ x.lr = 0
            ∧ x.sidx = BitVec.ofNat 32 (sidxOf g.levels st.lidx)
            ∧ (∀ i, i < 16 → x.s (16 + i) = BitVec.ofNat 64 (leAt g.record (0x80 + 8 * i) 8))
            ∧ (∀ i, i < 16 → x.s i = 0))
        ∧ (∀ e ∈ m, (t.core e.2).tess = Mem.setBytes [] (leAt g.record 0x68 4) (g.im.timg.getD []))
        ∧ (∀ c, (∀ e ∈ m, e.2 ≠ c) → t.core c = s.core c))

/-- A part of a fabric gang runs once every other device reports its own placed, and waits until then; when another device
has rejected its part this one is rejected, its cores given up (R357, R414). -/
def Sys2Proof.Claims.FabricGangsStartTogether : Prop :=
  ∀ (s : State) (n : Nat),
    let g := s.gang n
    (g.state = 9 → s.partsReady g = true → ∃ t, exec (.fabricGangStart n) s = .next t ∧ (t.gang n).state = 3
        ∧ ∀ c, t.core c = s.core c)
    ∧ (s.partsReady g = false → exec (.fabricGangStart n) s = .next s)
    ∧ (isFabric g.levels = true → g.state = 1 ∨ g.state = 9 →
      ∃ t, exec (.fabricPartRejected n) s = .next t ∧ (t.gang n).state = 10 ∧ (g.state = 9 → (t.gang n).place = []))
    ∧ (isFabric g.levels = false → exec (.fabricPartRejected n) s = .next s)

/-- A request to pre-empt a running gang leaves PREEMPT pending in each of its strands and suspends its running operations
at their next boundary, and a gang that firmware escalates stops for good; once every core of it stands at a boundary the
gang is saved, with each core's memories and the descriptors of its operations in its save image, and gives up its cores, and
until then nothing changes. A suspended gang that is placed again runs, with each core's memories as they were saved and
nothing left in its save area; and a quantum that has run out starts again when no candidate would take the cores, and asks
the gang to stop when one would (R313, R357, R362, R377, R384 to R386). Where its clauses rest on choices or inferences of the model, these are log entries 47, 48, 103, 107 and 119. -/
def Obligations.GangsArePreemptedAndResumed : Prop :=
  ∀ (s : State) (n : Nat),
    let g := s.gang n
    (g.state = 3 → n ≠ 0 → (∃ e ∈ g.place, ∃ c cx, e.2 = some c
        ∧ ((s.core c).serving = some (cx, 13) ∨ (s.core c).serving = some (cx, 14))) →
      ∃ t, exec (.preemptRequest n) s = .next t ∧ (t.gang n).state = 4 ∧ (t.gang n).escal = true)
    ∧ (g.state = 3 → (g.place.map (·.2)).Nodup → (∀ e ∈ g.place, ∀ c, e.2 = some c → s.escalating c = none) →
      ∃ t, exec (.preemptRequest n) s = .next t ∧ (t.gang n).state = 4 ∧ KeepsMemory s t
        ∧ (∀ e ∈ g.place, ∀ c, e.2 = some c → ∀ cx, cx ≠ .svc → (s.ctxAt c cx).gang = n → (s.ctxAt c cx).halted = false →
            t.ctxAt c cx = { s.ctxAt c cx with preempt := true })
        ∧ (∀ e ∈ g.place, ∀ c, e.2 = some c → ∀ o ∈ (s.core c).ops, o.gang = n → o.owner ≠ 2 → o.state = 2 →
            { o with suspend := true } ∈ (t.core c).ops))
    ∧ (g.state = 4 → (g.escal = true ∨ ∀ e ∈ g.place, ∀ c, e.2 = some c → s.escalating c = none) →
        (∃ e ∈ g.place, ∃ c, e.2 = some c ∧ (s.core c).savable n g.escal .cb0 = false) →
        exec (.preemptRequest n) s = .next s)
    ∧ (g.state = 4 → (g.escal = true ∨ ∀ e ∈ g.place, ∀ c, e.2 = some c → s.escalating c = none) →
      (g.place.map (·.2)).Nodup → (g.place.map (·.1)).Nodup →
      (∀ e ∈ g.place, ∀ c, e.2 = some c → (s.core c).savable n g.escal .cb0 = true ∧ (s.core c).savable n g.escal .cb1 = true
        ∧ (s.core c).opsQuiet n = true ∧ (s.core c).ingress = []) →
      ∃ t, exec (.preemptRequest n) s = .next t ∧ (t.gang n).state = 5 ∧ (t.gang n).place = []
        ∧ (∀ e ∈ g.place, ∀ c, e.2 = some c →
            let area := Tbl.get ({} : SaveImage) (t.gang n).area e.1
            area.acm = (s.core c).acm ∧ area.lintel = (s.core c).lintel ∧ area.store = (s.core c).store
            ∧ area.ops = (byChannel ((s.core c).ops.filter fun o => o.owner ≠ 2 ∨ completeCode o.state)).flatMap
                (·.descriptor (s.core c).mx)
            ∧ (t.core c).cb0.gang = 0 ∧ (t.core c).tess = []))
    ∧ (g.state = 2 → isFabric g.levels = false → (g.place.map (·.2)).Nodup →
      ∃ t, exec (.gangResume n) s = .next t ∧ (t.gang n).state = 3 ∧ (t.gang n).saves = []
        ∧ (t.gang n).area = [] ∧ ∀ e ∈ g.place, ∀ c, e.2 = some c →
            let area := Tbl.get ({} : SaveImage) g.area e.1
            (t.core c).acm = area.acm ∧ (t.core c).lintel = area.lintel ∧ (t.core c).store = area.store)
    ∧ (∀ c u cs, (s.core c).cb0.gang = n → n ≠ 0 → g.state = 3 → (s.core c).alarm ≠ 0 →
      (s.core c).alarm ≤ (s.core c).lastCycle → s.candidates = (u, cs) → u.gangs = s.gangs →
      (cs.any (u.displaces n g) = true → ∃ t, exec (.alarmExpire c) s = .next t ∧ (t.gang n).state = 4)
      ∧ (cs.any (u.displaces n g) = false → (g.place.map (·.2)).Nodup → u.cores = s.cores → u.dtcIn = s.dtcIn →
        ∃ t, exec (.alarmExpire c) s = .next t ∧ (t.gang n).state = 3
          ∧ ∀ e ∈ g.place, ∀ d, e.2 = some d →
              let q := (Tbl.get 0 s.dtcIn g.ten).toNat / 65536 % 256
              (t.core d).alarm = if q = 0 then 0 else (s.core d).lastCycle + 4096 * q))

/-- A host message before FWGO is answered NACK 3, and one that names no tenant, or whose payload is not as long as it says,
NACK 7, and neither does anything else; the status block answers for the device alone (R417, R419, R436). -/
def Sys2Proof.Claims.HostMessagesAreJudged : Prop :=
  (∀ (i : Instr) (m : HostMsg) (s : State), msgOf i = some m →
    (s.booted = false → ∃ t, exec i s = .next t ∧ OnlyAnswers m 0x82 3 s t)
    ∧ (s.booted = true → (16 ≤ m.ten.toNat ∨ m.data.length ≠ m.len.toNat) →
        ∃ t, exec i s = .next t ∧ OnlyAnswers m 0x82 7 s t))
  ∧ (∀ (m : HostMsg) (s : State), s.booted = true →
    (m.len = 0 → m.data = [] → m.a0.toNat % 8 = 0 → m.ten.toNat < 16 →
      ∃ t, exec (.dread m) s = .next t ∧ { t with replies := s.replies } = s
        ∧ ∃ r, t.replies = s.replies ++ [r] ∧ r.type = 0x81 ∧ r.tag = m.tag ∧ r.data.length = 8
          ∧ (m.a0 = 0 → leAt r.data 0 8 = s.fuses.deviceId.toNat)
          ∧ (m.a0 = 8 → ∀ d, d < 8 → (∀ e, e < 8 → s.siteOf e < 256) → leAt r.data d 1 = s.siteOf d)
          ∧ (m.a0 = 0x20 → leAt r.data 0 8 = s.nodeId.toNat))
    ∧ (m.a0.toNat % 8 ≠ 0 ∨ 16 ≤ m.ten.toNat → ∃ t, exec (.dread m) s = .next t ∧ OnlyAnswers m 0x82 7 s t))

/-- Once the mailbox's earlier writes have performed, MWRITE of 8 or 64 aligned bytes writes them at its address and no other byte, or sets the interrupt bits that a doorbell
write of the mailbox may set; MREAD answers with the bytes read; CLAIM answers with the old word and leaves it one higher;
each answers NACK 1 where the tenant's page table has no page and 2 where it gives no permission (R293, R351, R415, R418). -/
def Sys2Proof.Claims.HostReachesMemory : Prop :=
  ∀ (s : State) (m : HostMsg), Accepted s m →
    let t := m.ten.toNat
    let a := m.a0.toNat
    let f := s.flushMailbox
    let h := f.bringAll (f.agentDeps 0)
    (∀ pa plc, (m.len.toNat = 8 ∨ m.len.toNat = 64) → a % m.len.toNat = 0 → s.tenantAt t a 2 = .ok (pa, plc) →
      (isBell pa = false → m.a1 = 0 → PlainAt h t pa m.len.toNat plc → (∀ b ∈ (h.die 8).buffer, b.line ≠ pa / 64) →
        ∃ u, exec (.mwrite m) s = .next u ∧ Stores pa m.len.toNat (leAt m.data 0 m.len.toNat) h u
          ∧ u.cores = s.cores ∧ u.replies = s.replies)
      ∧ (∀ c, isBell pa = true → pa % 64 = 0 → (s.gang m.a1.toNat).ten = t → (s.gang m.a1.toNat).state = 3 →
        bellLine pa < 768 → Tbl.get none (s.gang m.a1.toNat).place (bellLine pa) = some c →
        ∃ u, exec (.mwrite m) s = .next u
          ∧ (u.core c).intp = (s.core c).intp ||| (BitVec.ofNat 16 (leAt m.data 0 8) &&& 0xFF0F)))
    ∧ (∀ e, (m.len.toNat = 8 ∨ m.len.toNat = 64) → a % m.len.toNat = 0 → s.tenantAt t a 2 = .error e →
        ∃ u, exec (.mwrite m) s = .next u ∧ OnlyAnswers m 0x82 (BitVec.ofNat 64 e) s u)
    ∧ (∀ u b, m.len = 0 → (m.a1 = 8 ∨ m.a1 = 64) →
        f.engReadBytes 0 t 3 a m.a1.toNat = (u, .ok b) →
        ∃ v, exec (.mread m) s = .next v ∧ v = u.answer m 0x81 0 b)
    ∧ (∀ pa plc u v, m.len = 0 → a % 8 = 0 → s.tenantAt t a 3 = .ok (pa, plc) → isBell pa = false →
        f.engRead 0 t a 8 = (u, .ok v) → PlainAt (u.bringAll (u.agentDeps 0)) t pa 8 plc →
        (∀ b ∈ ((u.bringAll (u.agentDeps 0)).die 8).buffer, b.line ≠ pa / 64) →
        ∃ w, exec (.claim m) s = .next w ∧ Stores pa 8 (v + 1) (u.bringAll (u.agentDeps 0)) w
          ∧ ∃ r, w.replies = u.replies ++ [r] ∧ r.type = 0x84 ∧ r.tag = m.tag ∧ r.a0 = BitVec.ofNat 64 v)
    ∧ (∀ e, m.len = 0 → a % 8 = 0 → s.tenantAt t a 3 = .error e →
        ∃ u, exec (.claim m) s = .next u ∧ OnlyAnswers m 0x82 (BitVec.ofNat 64 e) s u)

/-- INGRESS puts its record at the end of the buffer of the core that holds the gang tile, and sets bit 4 of its INTP when
the buffer was empty; a full buffer answers NACK 4 and a tile that no running gang of the tenant occupies NACK 5. FANSWER
lets a parked walk go on, or ends it with XR's fault set, and answers NACK 6 where none is parked. FMAP replaces the named
entries of the tenant's fabric map (R378, R392, R412, R418, R421). -/
def Sys2Proof.Claims.HostReachesCores : Prop :=
  ∀ (s : State) (m : HostMsg), Accepted s m →
    let t := m.ten.toNat
    let a1 := m.a1.toNat
    let g := s.gang m.a0.toNat
    (64 ≤ m.len.toNat → m.len.toNat ≤ 4096 → m.len.toNat % 64 = 0 → a1 / 8 % 32 = 0 → a1 / 2 ^ 15 % 2 ^ 17 = 0 →
      a1 / 256 % 128 < 96 → m.a2.toNat + m.len.toNat ≤ Config.tessSize →
      ((g.ten ≠ t ∨ g.state ≠ 3 ∨ Tbl.get none g.place (96 * (a1 % 8) + a1 / 256 % 128) = none) →
        ∃ u, exec (.ingress m) s = .next u ∧ OnlyAnswers m 0x82 5 s u)
      ∧ (∀ c, g.ten = t → g.state = 3 → Tbl.get none g.place (96 * (a1 % 8) + a1 / 256 % 128) = some c →
        let used := (s.core c).ingress.foldl (fun a (r : IngRec) => a + r.data.length) 0
        ((255 ≤ (s.core c).ingress.length ∨ 65536 < used + m.len.toNat) →
          ∃ u, exec (.ingress m) s = .next u ∧ OnlyAnswers m 0x82 4 s u)
        ∧ ((s.core c).ingress.length < 255 → used + m.len.toNat ≤ 65536 →
          ∃ u, exec (.ingress m) s = .next u ∧ OnlyCore c s u
            ∧ (u.core c).ingress = (s.core c).ingress
                ++ [{ seq := BitVec.ofNat 32 (a1 / 2 ^ 32), ofs := m.a2.toNat, tag := m.tag, data := m.data }]
            ∧ (u.core c).intp = (if (s.core c).ingress = [] then (s.core c).intp ||| 0x10 else (s.core c).intp)
            ∧ { u.core c with ingress := (s.core c).ingress, intp := (s.core c).intp } = s.core c)))
    ∧ (fanswerFine m = true →
      (s.parkedAt t m = none →
        (∃ u, exec (.fanswerMapped m) s = .next u ∧ OnlyAnswers m 0x82 6 s.flushMailbox u)
        ∧ ∃ u, exec (.fanswerNone m) s = .next u ∧ OnlyAnswers m 0x82 6 s.flushMailbox u)
      ∧ (∀ c cx w, s.parkedAt t m = some (c, cx, w) →
        (∃ u, exec (.fanswerMapped m) s = .next u ∧ (u.ctxAt c cx) = { s.ctxAt c cx with walk := some { w with parked := false } })
        ∧ ∃ u, exec (.fanswerNone m) s = .next u ∧ (u.ctxAt c cx).walk = none
            ∧ (u.ctxAt c cx).xr = { w3 := BitVec.ofNat 64 (16 * w.slot + 3) } ∧ cx ∉ (u.core c).parked))
    ∧ (m.len.toNat ≤ 8192 → m.len.toNat % 2 = 0 → m.a0.toNat + m.len.toNat / 2 ≤ 4096 →
      ∃ u, exec (.fmap m) s = .next u ∧ { u with tenants := s.tenants } = s
        ∧ (∀ i, i < m.len.toNat / 2 →
            Tbl.get 0xFFFF (u.tenant t).fmap (m.a0.toNat + i) = BitVec.ofNat 16 (leAt m.data (2 * i) 2))
        ∧ (∀ k, k < m.a0.toNat ∨ m.a0.toNat + m.len.toNat / 2 ≤ k →
            Tbl.get 0xFFFF (u.tenant t).fmap k = Tbl.get 0xFFFF (s.tenant t).fmap k)
        ∧ { u.tenant t with fmap := (s.tenant t).fmap } = s.tenant t)

/-- RAISE gives a pending claim its new priority. EXPIRE ends a selected gang that still waits, or a pending claim, which is
then never noticed; both leave a claim that is placed or further alone (R357, R358, R363). -/
def Sys2Proof.Claims.DeadlineMessagesReachClaims : Prop :=
  ∀ (s : State) (m : HostMsg), Accepted s m → m.len = 0 → m.a1.toNat / 2 % 128 = 0 → m.a1.toNat < 1024 →
    let t := m.ten.toNat
    let claim := m.a0.toNat
    (∀ u head, s.claimIs t claim = (u, .pending head) →
      (∃ v, exec (.deadlineRaise m) s = .next v ∧ (claim, m.a1.toNat / 256) ∈ (v.tenant t).raised
        ∧ (∀ e ∈ (v.tenant t).raised, e.1 = claim → e.2 = m.a1.toNat / 256)
        ∧ (∀ c, (u.tenant t).cand = some (claim, c) → ((v.tenant t).cand.map (·.2.1)) = some (m.a1.toNat / 256)))
      ∧ (∃ v, exec (.deadlineExpire m) s = .next v ∧ (∀ e ∈ (v.tenant t).raised, e.1 ≠ claim)
        ∧ ((v.tenant t).cand.map (·.1)) ≠ some claim ∧ (head = false → claim ∈ (v.tenant t).expired)))
    ∧ (∀ u n, s.claimIs t claim = (u, .waiting n) →
      (∃ v, exec (.deadlineExpire m) s = .next v ∧ (v.gang n).state = 10) ∧ exec (.deadlineRaise m) s = .next u)
    ∧ (∀ u, s.claimIs t claim = (u, .beyond) →
      exec (.deadlineRaise m) s = .next u ∧ exec (.deadlineExpire m) s = .next u)

/-- The runtime queue's read index moves on, within what has been written, in the host's ring and in the device; a held
record then goes out with its report. A tenant queue takes its next claim once it is stamped, moves RI past it, runs its copy
line by line, and is free again after the last; a packet that breaks the queue's rules ends its claim at once (R350, R352,
R418). -/
def Sys2Proof.Claims.QueuesAreServed : Prop :=
  (∀ (s : State) (ten : BitVec 4) (ri : Word64),
    let t := s.tenant ten.toNat
    (((t.on = false ∧ t.rheld = []) ∨ ri.toNat < t.rri ∨ t.rwi < ri.toNat) → exec (.runtimeQueueRiAdvance ten ri) s = .next s)
    ∧ (t.rri ≤ ri.toNat → ri.toNat ≤ t.rwi →
      (t.on = true → t.rheld = [] → ∃ u, exec (.runtimeQueueRiAdvance ten ri) s = .next u ∧ (u.tenant ten.toNat).rri = ri.toNat
        ∧ Mem.read u.hostMem (t.rqb + 8) 8 = ri.toNat
        ∧ (∀ p, p < t.rqb + 8 ∨ t.rqb + 16 ≤ p → Mem.byte u.hostMem p = Mem.byte s.hostMem p) ∧ u.replies = s.replies)
      ∧ (∀ r, t.rheld = [r] → t.rwi - ri.toNat < Mem.read s.hostMem (t.rqb + 0x18) 4 →
        ∃ u, exec (.runtimeQueueRiAdvance ten ri) s = .next u ∧ (u.tenant ten.toNat).rheld = []
          ∧ (u.tenant ten.toNat).rwi = t.rwi + 1
          ∧ ∃ q, u.replies = s.replies ++ [q] ∧ q.type = 0x85 ∧ q.a0 = BitVec.ofNat 64 t.rwi)))
  ∧ (∀ (s : State) (q : Nat),
    let t := Tbl.get ({} : TQueue) s.queues q
    t.on = true → (s.tenant t.ten).on = true →
    (∀ u v wi ri nslot slotb b, t.busy = none → s.ringHeader (16 + q) t.ten t.hdr 128 = (u, some (wi, ri, nslot, slotb)) →
      u.engReadBytes (16 + q) t.ten 3 (slotb + 128 * (ri % nslot)) 128 = (v, .ok b) →
      (leAt b 0 8 ≠ ri + 1 → exec (.tenantQueueServe q) s = .next v)
      ∧ (leAt b 0 8 = ri + 1 →
        let p := copyP (b.drop 64) (leAt (b.drop 64) 4 1 % 16) (leAt (b.drop 64) 4 1 / 16)
        (queueBad (b.drop 64) p = 0 → ∃ w o, exec (.tenantQueueServe q) s = .next w
          ∧ (Tbl.get {} w.queues q).busy = some o ∧ (Tbl.get {} w.queues q).claim = ri ∧ o.packet = b.drop 64 ∧ o.state = 2
          ∧ o.lines = 0)
        ∧ (queueBad (b.drop 64) p ≠ 0 → ∃ w, exec (.tenantQueueServe q) s = .next w
          ∧ (Tbl.get {} w.queues q).busy = none ∧ (Tbl.get {} w.queues q).claim = ri)))
    ∧ (∀ u o y ws, t.busy = some o → o.kind ≠ .rstrp →
      let p := copyP o.packet o.fromF o.toF
      s.moveLine (s.queueMover q t o) p o.lines = (u, .ok (y, ws)) →
      (o.lines + 1 < p.total → ∃ w o', exec (.tenantQueueServe q) s = .next w ∧ (Tbl.get {} w.queues q).busy = some o'
          ∧ o'.lines = o.lines + 1 ∧ o'.packet = o.packet)
      ∧ (p.total ≤ o.lines + 1 → ∃ w, exec (.tenantQueueServe q) s = .next w ∧ (Tbl.get {} w.queues q).busy = none))
    ∧ (∀ u o cause a, t.busy = some o → o.kind ≠ .rstrp →
      s.moveLine (s.queueMover q t o) (copyP o.packet o.fromF o.toF) o.lines = (u, .error (cause, a)) →
      ∃ w, exec (.tenantQueueServe q) s = .next w ∧ (Tbl.get {} w.queues q).busy = none))

namespace Sys2Proof.Claims

/-! ### Commands and service -/

/-- The command that a control-command row carries. -/
def cmdOf : Instr → Option HostCmd
  | .fwload m => some m
  | .fwgo m => some m
  | .tenantSet m => some m
  | .tenantClr m => some m
  | .keyload m => some m
  | .keyfree m => some m
  | .unlockChal m => some m
  | .unlock m => some m
  | .quote m => some m
  | .extend m => some m
  | .lcsAdvance m => some m
  | .nodeset m => some m
  | _ => none

/-- A command is well made as to its header: a tenant number, no reserved bit, and as many bytes as it says (R436). -/
def WellMade (m : HostCmd) : Prop := m.ten.toNat < 16 ∧ m.rsv = 0 ∧ m.data.length = m.len.toNat

/-- The reply to a command joins the channel's replies. -/
def Replies (m : HostCmd) (status : Nat) (data : List Byte) (s t : State) : Prop :=
  t.cmdReplies = s.cmdReplies ++ [{ tag := m.tag, status := status, data := data }]

/-- The command is answered with a status and has no other effect. -/
def OnlyReplies (m : HostCmd) (status : Nat) (s t : State) : Prop :=
  Replies m status [] s t ∧ { t with cmdReplies := s.cmdReplies } = s

/-- The bytes of the frames from `f` to `f + n`. -/
def inRun (f n p : Nat) : Prop := 65536 * f ≤ p ∧ p < 65536 * (f + n)

/-- A tenant is gone: its registers, frames and key slots are as they were before it was set (R438). -/
def Gone (ten : Nat) (t : State) : Prop :=
  t.tenant ten = {} ∧ Tbl.get 0 t.dtq ten = 0 ∧ Tbl.get 0 t.dtc ten = 0 ∧ (∀ e ∈ t.keys, ∀ k, e.2 ≠ some (ten, k))

/-- The frames of the tenant whose key a slot holds. -/
def keyFrames (s : State) (slot : Nat) : List (Nat × Nat) :=
  match s.keySlot slot with
  | some (o, _) => (s.tenant o).frames
  | none => []

/-- A record of class `cls` is written into the next slot of the service log ring, and WI moves on, unless the ring is full;
the host's memory holds nothing else that is new (R433). -/
def Logs (cls unit loc addr : Nat) (s t : State) : Prop :=
  s.logRoom ≠ 0 → s.logDrop = 0 →
    ∃ r : LogRec, r.cls = cls ∧ r.unit = unit ∧ r.loc = loc ∧ r.addr = addr ∧ r.seq = s.logSeq + 1 ∧ t.logSeq = s.logSeq + 1
      ∧ (let wi := Mem.read s.hostMem s.logRing 8
        let slot := Mem.read s.hostMem (s.logRing + 0x20) 8 + 32 * (wi % Mem.read s.hostMem (s.logRing + 0x18) 4)
        t.hostMem = Mem.write (Mem.setBytes s.hostMem slot r.bytes) s.logRing 8 (wi + 1))

/-- The service log is as it was. -/
def LogsNothing (s t : State) : Prop := t.hostMem = s.hostMem ∧ t.logSeq = s.logSeq ∧ t.logDrop = s.logDrop

/-- Every byte of the part's memories reads as before: the device's, and each core's own. -/
structure KeepsDevice (s t : State) : Prop where
  device : ∀ a, Mem.byte t.mem a = Mem.byte s.mem a
  tess   : ∀ c a, Mem.byte (t.core c).tess a = Mem.byte (s.core c).tess a
  acm    : ∀ c a, Mem.byte (t.core c).acm a = Mem.byte (s.core c).acm a
  lintel : ∀ c a, Mem.byte (t.core c).lintel a = Mem.byte (s.core c).lintel a

end Sys2Proof.Claims

/-- A command with a reserved bit, no tenant number or a wrong LEN is answered MALFORMED and has no effect (R436). -/
def Sys2Proof.Claims.CommandsAreJudged : Prop :=
  ∀ (i : Instr) (m : HostCmd) (s : State), cmdOf i = some m → ¬ WellMade m →
    ∃ t, exec i s = .next t ∧ OnlyReplies m 5 s t

/-- FWLOAD stores its chunk at its offset and no other byte. FWGO with an image whose modulus, signature or version does
not hold is answered SIGNATURE or ROLLBACK and forgets the image; one that passes boots the part with its version, extends
the measurements, copies the body to the control cores, which the model does into their tesserae (log entry 22), derives the
key pairs from the fused secret but in MANUF, and gives each logical die a working site of its half; after boot it is STATE
(R440, R441, R445, R460). -/
def Sys2Proof.Claims.FirmwareIsLoadedAndStarted : Prop :=
  ∀ (s : State) (m : HostCmd), WellMade m →
    (4 ≤ m.data.length → m.data.length ≤ 4100 →
      ∃ t, exec (.fwload m) s = .next t ∧ Replies m 0 [] s t ∧ { t with image := s.image, cmdReplies := s.cmdReplies } = s
        ∧ (∀ j, j < m.data.length - 4 → Mem.byte t.image (leAt m.data 0 4 + j) = m.data.getD (4 + j) 0)
        ∧ (∀ p, p < leAt m.data 0 4 ∨ leAt m.data 0 4 + (m.data.length - 4) ≤ p → Mem.byte t.image p = Mem.byte s.image p))
    ∧ (m.data = [] → s.booted = true → ∃ t, exec (.fwgo m) s = .next t ∧ OnlyReplies m 3 s t)
    ∧ (m.data = [] → s.booted = false →
      let modulus := nums (Mem.bytes s.image 0x10 384)
      let signed := nums (Mem.bytes s.image 0 16) ++ nums (Mem.bytes s.image 0x310 (Mem.read s.image 8 4))
      let sig := nums (Mem.bytes s.image 0x190 384)
      let svn := Mem.read s.image 4 4
      let sound := Crypto.sha256 modulus = s.fuses.helnorHash
        ∧ Crypto.pssVerify (Crypto.beNat modulus) signed sig = true
      (¬ sound → ∃ t, exec (.fwgo m) s = .next t ∧ Replies m 1 [] s t ∧ { t with image := s.image, cmdReplies := s.cmdReplies } = s
          ∧ t.image = [])
      ∧ (sound → svn < s.minSvn.toNat → ∃ t, exec (.fwgo m) s = .next t ∧ Replies m 2 [] s t ∧ t.image = [] ∧ t.booted = false)
      ∧ (sound → s.minSvn.toNat ≤ svn → s.lcs ≠ 4 →
        ∃ t, exec (.fwgo m) s = .next t ∧ Replies m 0 [] s t ∧ t.booted = true ∧ t.svn = BitVec.ofNat 32 svn
          ∧ t.scrbEn = true ∧ t.geot = []
          ∧ (∀ c, t.core c = { tess := if 768 ≤ c ∧ c < 772 then Mem.setBytes [] 0 (Mem.bytes s.image 0x310 (Mem.read s.image 8 4)) else [] })
          ∧ (s.lcs ≠ 0 → t.fuses = s.deriveKeys.fuses) ∧ (s.lcs = 0 → t.fuses = s.fuses)
          ∧ (∀ p, p < 16 → (Tbl.get {} t.ports p).up = true)
          ∧ (∀ d n, d < 8 → (s.workingSites (d / 4))[d % 4]? = some n → t.siteOf d = n)))

/-- TENANT_SET of a record that keeps its rules sets the tenant's page table, queues, windows and vector base, zeroes its
frames and no other byte of memory, and measures the record; a tenant that exists is answered BUSY and a record that breaks a
rule MALFORMED, with no effect. TENANT_CLR of a tenant with work is answered BUSY, and otherwise takes it away whole (R437,
R438, R441, R443). -/
def Sys2Proof.Claims.TenantsAreSetAndCleared : Prop :=
  ∀ (s : State) (m : HostCmd), WellMade m → s.tenantsAllowed = true →
    let t := m.ten.toNat
    let r := m.data
    (r.length = 256 → (s.tenant t).on = true → ∃ u, exec (.tenantSet m) s = .next u ∧ OnlyReplies m 4 s u)
    ∧ (r.length = 256 → (s.tenant t).on = false → s.tenantOk r = false →
        ∃ u, exec (.tenantSet m) s = .next u ∧ OnlyReplies m 5 s u)
    ∧ (r.length = 256 → (s.tenant t).on = false → s.tenantOk r = true →
      ∃ u, exec (.tenantSet m) s = .next u ∧ Replies m 0 [] s u
        ∧ (let x := u.tenant t
          x.on = true ∧ x.ptb = leAt r 0 8 ∧ x.fqb = leAt r 0x10 8 ∧ x.rqb = leAt r 0x18 8 ∧ x.hvec = leAt r 0x22 2
          ∧ x.hvbt = leAt r 0x28 8 ∧ (x.mlok = true ↔ leAt r 0x25 1 = 1) ∧ x.wins = recWins r)
        ∧ (Tbl.get 0 u.dtq t).toNat = leAt r 8 8 % 2 ^ 48 / 64 * 64
        ∧ (Tbl.get 0 u.dtc t).toNat = 256 * leAt r 0x20 1 + 65536 * leAt r 0x21 1
        ∧ (∀ p, inRun (leAt r 0x30 8) (leAt r 0x38 8) p → leAt r 0x38 8 ≠ 0 → Mem.byte u.mem p = 0)
        ∧ (∀ p, (¬ inRun (leAt r 0x30 8) (leAt r 0x38 8) p ∨ leAt r 0x38 8 = 0) → Mem.byte u.mem p = Mem.byte s.mem p)
        ∧ (∀ k, k ≠ t → u.tenant k = s.tenant k))
    ∧ (r = [] → s.tenantBusy t = true → ∃ u, exec (.tenantClr m) s = .next u ∧ OnlyReplies m 4 s u)
    ∧ (r = [] → s.tenantBusy t = false →
      ∃ u, exec (.tenantClr m) s = .next u ∧ Replies m 0 [] s u ∧ Gone t u
        ∧ (∀ f ∈ (s.tenant t).frames, ∀ p, inRun f.1 f.2 p → Mem.byte u.mem p = 0)
        ∧ (∀ p, (∀ f ∈ (s.tenant t).frames, ¬ inRun f.1 f.2 p) → Mem.byte u.mem p = Mem.byte s.mem p)
        ∧ (∀ k, k ≠ t → u.tenant k = s.tenant k) ∧ u.cores = s.cores)

/-- KEYLOAD unwraps a key of 64 bytes into its slot for its tenant, unless another tenant owns the slot; a payload that does
not unwrap is answered MALFORMED; KEYFREE empties its slot. Either leaves every other slot alone, and moves no byte but those
of stores that the dies have taken for the old owner's frames, which perform first (R439). -/
def Sys2Proof.Claims.KeysAreLoadedAndFreed : Prop :=
  ∀ (s : State) (m : HostCmd), WellMade m →
    let t := m.ten.toNat
    let slot := leAt m.data 0 1
    let plain := Crypto.oaepDecrypt s.fuses.wrapKey.1 s.fuses.wrapKey.2 (nums (m.data.drop 4))
    (m.data.length = 388 → slot < 64 → leAt m.data 1 3 = 0 → s.tenantsAllowed = true →
      (plain = none → ∃ u, exec (.keyload m) s = .next u ∧ OnlyReplies m 5 s u)
      ∧ (∀ k, plain = some k → k.length = 64 →
        ((∃ o key, s.keySlot slot = some (o, key) ∧ o ≠ t) → ∃ u, exec (.keyload m) s = .next u ∧ OnlyReplies m 4 s u)
        ∧ ((∀ o key, s.keySlot slot = some (o, key) → o = t) →
          ∃ u, exec (.keyload m) s = .next u ∧ Replies m 0 [] s u ∧ u.keySlot slot = some (t, k.map (BitVec.ofNat 8))
            ∧ (∀ j, j ≠ slot → u.keySlot j = s.keySlot j) ∧ u.mem = (s.flushLines (inFrames (keyFrames s slot))).mem
            ∧ u.tenants = s.tenants)))
    ∧ (m.data.length = 1 → slot < 64 → s.booted = true →
      ∃ u, exec (.keyfree m) s = .next u ∧ Replies m 0 [] s u ∧ u.keySlot slot = none
        ∧ (∀ j, j ≠ slot → u.keySlot j = s.keySlot j) ∧ u.mem = (s.flushLines (inFrames (keyFrames s slot))).mem)
    ∧ (∀ f, (∀ e ∈ s.dies, ∀ b ∈ e.2.buffer, f b.line = false) → s.flushLines f = s)

/-- UNLOCK_CHAL gives out the challenge that it keeps. UNLOCK with a token that does not hold is answered SIGNATURE and has
no effect; with one that holds every tenant and key is gone, the debug unlock is on and the challenge used up. LCS_ADVANCE
goes from MANUF to PROVISIONED to DEPLOYED to RETIRED, one at a time, deriving the key pairs on the way to PROVISIONED, and
is STATE otherwise (R443 to R445); a port that is shut then has no claim (log entry 134). -/
def Sys2Proof.Claims.LifecycleAndUnlock : Prop :=
  ∀ (s : State) (m : HostCmd), WellMade m →
    ((s.lcs = 1 ∨ s.lcs = 2) →
      (m.data = [] → ∃ u b, exec (.unlockChal m) s = .next u ∧ Replies m 0 b s u ∧ b.length = 16
          ∧ u.chal = some (leAt b 0 16)
          ∧ { u with chal := s.chal, cmdReplies := s.cmdReplies, freeN := s.freeN } = s)
      ∧ (m.data.length = 800 → s.tokenOk m.data = false → ∃ u, exec (.unlock m) s = .next u ∧ OnlyReplies m 1 s u)
      ∧ (m.data.length = 800 → s.tokenOk m.data = true → ∃ u, exec (.unlock m) s = .next u
          ∧ u.cmdReplies = s.cmdReplies ++ [{ tag := m.tag, status := 0 }] ∧ u.dbg = true ∧ u.chal = none ∧ u.keys = []
          ∧ ∀ t, t < 16 → (u.tenant t).on = false))
    ∧ (m.data.length = 1 → s.booted = true →
      let n := leAt m.data 0 1
      ((s.lcs = 0 ∧ n = 1 ∨ s.lcs = 1 ∧ n = 2) →
        ∃ u, exec (.lcsAdvance m) s = .next u ∧ Replies m 0 [] s u ∧ u.lcs.toNat = n
          ∧ { u with lcs := s.lcs, fuses := s.fuses, gangs := s.gangs, cores := s.cores, cmdReplies := s.cmdReplies } = s
          ∧ u.fuses = (if n = 1 then s.deriveKeys else s).fuses ∧ (s.dbg = true → u.gangs = s.gangs ∧ u.cores = s.cores)
          ∧ (s.dbg = false → (∀ e ∈ u.gangs, e.2.claimed = false) ∧ ∀ e ∈ u.cores, e.2.cb0.claimed = false ∧ e.2.cb1.claimed = false))
      ∧ (s.lcs = 2 ∧ n = 4 → ∃ u, exec (.lcsAdvance m) s = .next u ∧ u.lcs = 4 ∧ u.keys = []
          ∧ ∀ t, t < 16 → (u.tenant t).on = false)
      ∧ (¬ (s.lcs = 0 ∧ n = 1 ∨ s.lcs = 1 ∧ n = 2 ∨ s.lcs = 2 ∧ n = 4) →
          ∃ u, exec (.lcsAdvance m) s = .next u ∧ OnlyReplies m 3 s u))

/-- QUOTE answers with version 1, the lifecycle state, the debug bit, the device, the firmware version and the nonce, and in
MANUF with a signature of zeros; EXTEND hashes its data into a slot from 4 to 7 and no other; NODESET names the node, but not
while a fabric gang is at work (R412, R436, R441, R443, R446). -/
def Sys2Proof.Claims.AttestationAndNode : Prop :=
  ∀ (s : State) (m : HostCmd), WellMade m →
    (m.data.length = 32 → ∃ u b, exec (.quote m) s = .next u ∧ Replies m 0 b s u
      ∧ leAt b 0 4 = 1 ∧ leAt b 4 1 = s.lcs.toNat ∧ leAt b 5 1 = s.dbg.toNat ∧ leAt b 8 8 = s.fuses.deviceId.toNat
      ∧ leAt b 0x10 4 = s.svn.toNat ∧ (b.drop 0x18).take 32 = m.data
      ∧ (s.lcs = 0 → b = s.quoteBody m.data ++ List.replicate 384 0)
      ∧ { u with cmdReplies := s.cmdReplies, freeN := s.freeN } = s)
    ∧ (m.data.length = 36 → 4 ≤ leAt m.data 0 1 → leAt m.data 0 1 < 8 → leAt m.data 1 3 = 0 → s.booted = true →
      let n := leAt m.data 0 1
      ∃ u, exec (.extend m) s = .next u ∧ Replies m 0 [] s u
        ∧ Tbl.get 0 u.meas n = Crypto.beNat (Crypto.sha256 (Crypto.beBytes 32 (Tbl.get 0 s.meas n) ++ nums (m.data.drop 4)))
        ∧ (∀ j, j ≠ n → Tbl.get 0 u.meas j = Tbl.get 0 s.meas j)
        ∧ { u with meas := s.meas, cmdReplies := s.cmdReplies } = s)
    ∧ (m.data.length = 4 → leAt m.data 2 2 = 0 → leAt m.data 0 2 ≠ 0xFFFF → s.booted = true →
      let busy := ∃ e ∈ s.gangs, isFabric e.2.levels = true ∧ e.2.state ≠ 0 ∧ e.2.state ≠ 7 ∧ e.2.state ≠ 10
      (busy → ∃ u, exec (.nodeset m) s = .next u ∧ OnlyReplies m 4 s u)
      ∧ (¬ busy → ∃ u, exec (.nodeset m) s = .next u ∧ Replies m 0 [] s u ∧ u.nodeId.toNat = leAt m.data 0 2
          ∧ { u with nodeId := s.nodeId, cmdReplies := s.cmdReplies } = s))

/-- A tile or die is spared only when it has passed a threshold. While a gang holds a core of the die it is asked to stop first;
after that the tile's number goes to the site's next spare tile, or with none left the die is switched: its number goes, once
its writes have performed everywhere, to the spare site of its half, its old site failed and its cache empty. A lost die's
strands halt, its accesses and operations are gone or stopped, its buffered stores have performed at their homes in part
(`State.loseBuffer`) and the rest never does, and the survivors of its gangs have DIE_LOST pending; each gang is given up once
its survivors have taken it, and then the spare takes the die. Each is logged (R404, R406, R407, R409, R431). -/
def Sys2Proof.Claims.TilesAndDiesAreSpared : Prop :=
  ∀ (s : State) (d tile : Nat), d < 8 → tile < 96 →
    (s.dieOver d = false → exec (.dieSwitch d) s = .next s)
    ∧ (s.tileOver d tile = false → exec (.tileSpare d tile) s = .next s)
    ∧ ((s.die d).lost = false → s.gangsOn d ≠ [] →
      (∀ n, s.spareOf (d / 4) = some n → s.dieOver d = true →
        ∃ t, exec (.dieSwitch d) s = .next t ∧ (∀ g ∈ s.gangsOn d, (s.gang g).state = 3 → (t.gang g).state = 4)
          ∧ t.dieMap = s.dieMap ∧ (t.die d).leaving = true)
      ∧ (s.tileOver d tile = true → s.sparesUsed d < 4 → ∃ t, exec (.tileSpare d tile) s = .next t
        ∧ (∀ g ∈ s.gangsOn d, (s.gang g).state = 3 → (t.gang g).state = 4) ∧ t.tileMap = s.tileMap ∧ (t.die d).leaving = true))
    ∧ ((s.die d).lost = false → s.gangsOn d = [] →
      (∀ n, s.spareOf (d / 4) = some n → s.dieOver d = true →
        ∃ t, exec (.dieSwitch d) s = .next t ∧ t.siteOf d = n ∧ (∀ e, e ≠ d → t.siteOf e = s.siteOf e)
          ∧ (t.die d).lines = [] ∧ (t.die d).notices = [] ∧ (t.die d).buffer = [] ∧ (t.die d).leaving = false
          ∧ (s.siteOf d < 10 → s.siteOf d ∈ t.failed)
          ∧ Logs 14 2 n 0 (s.drainDie d) t ∧ KeepsDevice (s.drainDie d) t)
      ∧ (let used := s.sparesUsed d
        s.tileOver d tile = true → used < 4 →
        ∃ t, exec (.tileSpare d tile) s = .next t ∧ Tbl.get 0 t.tileMap (96 * s.siteOf d + tile) = 96 + used
          ∧ (∀ k, k ≠ 96 * s.siteOf d + tile → Tbl.get 0 t.tileMap k = Tbl.get 0 s.tileMap k)
          ∧ Tbl.get 0 t.tilesUsed (s.siteOf d) = used + 1 ∧ (t.die d).leaving = false
          ∧ Logs 13 2 (s.siteOf d + 16 * (96 + used)) 0 s t ∧ KeepsDevice s t))
    ∧ ((s.die d).lost = false → s.spareOf (d / 4) = none → s.dieOver d = true → (2, s.siteOf d) ∉ s.flagged →
        ∃ t, exec (.dieSwitch d) s = .next t ∧ t.dieMap = s.dieMap ∧ Logs 17 2 (s.siteOf d) 0 s t)
    ∧ ((s.die d).lost = false → s.tileOver d tile = true → 4 ≤ s.sparesUsed d → exec (.tileSpare d tile) s = exec (.dieSwitch d) s)
    ∧ ((s.die d).lost = false → ∃ t, exec (.dieLost d) s = .next t ∧ (t.die d).lost = true ∧ Logs 15 2 (s.siteOf d) 0 (s.loseBuffer d) t
        ∧ (t.die d).buffer = []
        ∧ (∀ j, j < 96 → (t.core (96 * d + j)).accs = [] ∧ (t.core (96 * d + j)).delayed = []
          ∧ (∀ o ∈ (t.core (96 * d + j)).ops, o.state = 3 ∨ 4 ≤ o.state)
          ∧ ((s.core (96 * d + j)).cb0.gang ≠ 0 → (t.core (96 * d + j)).cb0.halted = true))
        ∧ (∀ g ∈ s.gangsOn d, ∀ m ∈ s.strandsOf g, m.1 / 96 ≠ d → (s.ctxAt m.1 m.2).halted = false →
            ∃ a ∈ (t.ctxAt m.1 m.2).asyncs, a.code = 20 ∧ a.info = BitVec.ofNat 64 d)
        ∧ KeepsDevice (s.loseBuffer d) t)
    ∧ ((s.die d).lost = true → s.gangsOn d ≠ [] →
      ((∀ g ∈ s.gangsOn d, (s.gang g).escal = true ∨ s.allTold g = false) → exec (.dieLost d) s = .next s)
      ∧ ∃ t, exec (.dieLost d) s = .next t ∧ t.dieMap = s.dieMap
          ∧ ∀ g ∈ s.gangsOn d, g ≠ 0 → (s.gang g).escal = false → s.allTold g = true → (t.gang g).escal = true)
    ∧ ((s.die d).lost = true → s.gangsOn d = [] →
      (s.spareOf (d / 4) = none → exec (.dieLost d) s = .next s)
      ∧ ∀ n, s.spareOf (d / 4) = some n → ∃ t, exec (.dieLost d) s = .next t ∧ t.siteOf d = n ∧ (t.die d).lost = false
          ∧ ∀ j, j < 96 → (t.core (96 * d + j)).cb0.gang = 0 ∧ (t.core (96 * d + j)).cb1.gang = 0)

/-- A flit of 256 bytes with a good CRC and the next sequence number is taken, frees what it acknowledges of the replay
buffer, and has done what its body asks of this device; any other asks for a retry, each 256th is logged, and the sixteenth in
a row takes the port down. A port has one spare lane, for a lane that has passed its threshold, and a module replaces any lane
once, each logged (R410, R411, R417, R431). -/
def Sys2Proof.Claims.LinksKeepGoing : Prop :=
  ∀ (s : State) (port lane : Nat) (flit : List (BitVec 8)),
    let p := Tbl.get ({} : Port) s.ports port
    let good := flit.length = 256 ∧ crc32c (flit.take 252) = leAt flit 252 4 ∧ leAt flit 250 2 = p.rxSeq
    (port < 16 → p.up = true →
      (good → ∃ q : Port, q.rxSeq = (p.rxSeq + 1) % 65536 ∧ q.retry = 0 ∧ q.inbox = p.inbox ++ [flit.take 248] ∧ q.up = true
        ∧ (∀ n, n ≤ p.replay.length → n < 65536 → p.acked < 65536 → (p.acked + n) % 65536 = (leAt flit 248 2 + 1) % 65536 →
            q.replay = p.replay.drop n)
        ∧ (let u : State := { s with ports := Tbl.set {} s.ports port q }
          exec (.flitReceive port flit) s = .next (match Config.flitAccess (flit.take 248) with
            | none => u
            | some a => u.peerAccess port a)))
      ∧ (¬ good → ∃ t, exec (.flitReceive port flit) s = .next t
        ∧ (let q := Tbl.get ({} : Port) t.ports port
          q.rxSeq = p.rxSeq ∧ q.retry = p.retry + 1 ∧ (q.up = true ↔ p.retry + 1 < 16) ∧ q.inbox = p.inbox)
        ∧ (p.retry + 1 < 16 → (p.asked + 1) % 256 ≠ 0 → LogsNothing s t)
        ∧ (p.retry + 1 < 16 → (p.asked + 1) % 256 = 0 → Logs 7 4 port 0 s t)
        ∧ (16 ≤ p.retry + 1 → (p.asked + 1) % 256 ≠ 0 → Logs 9 4 port 0 s t)))
    ∧ (port < 16 → p.up = false → exec (.flitReceive port flit) s = .next s)
    ∧ (port < 16 → lane < 8 → p.spare = false → p.laneOver lane = true →
      ∃ t, exec (.laneSpare port lane) s = .next t ∧ Tbl.get {} t.ports port = { p with spare := true, lanes := [lane] }
        ∧ Logs 8 4 (port + 16 * lane) 0 s t ∧ KeepsDevice s t)
    ∧ ((p.spare = true ∨ p.laneOver lane = false) → exec (.laneSpare port lane) s = .next s)
    ∧ (let m := Tbl.get ({} : Module) s.mods port
      port < 4 → lane < 64 → lane ∉ m.lanes →
      ∃ t, exec (.ucieLane port lane) s = .next t ∧ Tbl.get {} t.mods port = { m with lanes := m.lanes ++ [lane] }
        ∧ Logs 18 5 (port + 16 * lane) 0 s t ∧ KeepsDevice s t)

/-- The scrubber of a bed die goes to the next line, and counts a pass with the last; a line it meets with two erroneous
symbols, or with a wrong tag, is marked, and one with a single one corrected, while no byte changes. PPR of a row, sparing of
a channel and retirement of a frame happen where the errors met call for them and no re-stripe moves the place, are logged and
change no byte; a stack without spare channel, or without reserve, is flagged instead (R425, R427, R428, R430, R433). -/
def Sys2Proof.Claims.MemoryIsScrubbedAndRepaired : Prop :=
  ∀ (s : State) (bed stack row ch frame : Nat),
    (bed < 4 → s.scrbEn = true → s.moving ((Tbl.get (0, 0) s.scrubPos bed).1 / 1024) = false →
      let pos := (Tbl.get (0, 0) s.scrubPos bed).1
      let e := Tbl.get ({} : LineErr) s.lineErr pos
      let int := plcInt (s.scrubPlc pos)
      ∃ t, exec (.scrubLine bed) s = .next t ∧ KeepsDevice s t
        ∧ Tbl.get (0, 0) t.scrubPos bed
            = (if 64 * (pos + 1) < Config.memSize then (pos + 1, (Tbl.get (0, 0) s.scrubPos bed).2)
               else (0, (Tbl.get (0, 0) s.scrubPos bed).2 + 1))
        ∧ (s.onBed bed pos = true → (Tbl.get {} t.lineErr pos).bad = []
          ∧ (2 ≤ e.symbols int → (Tbl.get {} t.lineErr pos).mark = true)
          ∧ (e.symbols int ≤ 1 → int = false → (Tbl.get {} t.lineErr pos).mark = e.mark)
          ∧ (e.symbols int ≤ 1 → int = true → ((Tbl.get {} t.lineErr pos).mark = true ↔ e.mark = true
              ∨ s.lineTag pos (s.scrubPlc pos) (Mem.read s.mem (64 * pos) 64) ≠ (Tbl.get 0 s.tags pos - 1) % 2 ^ 32)))
        ∧ (∀ l, l ≠ pos → Tbl.get {} t.lineErr l = Tbl.get {} s.lineErr l))
    ∧ (s.scrbEn = false → exec (.scrubLine bed) s = .next s)
    ∧ (stack < 12 → s.rowOver (stack + 16 * row) = true → s.bankFull stack (rowBank row) = false →
      s.underStripe (fun a => s.lineLoc a == stack + 16 * row) = false →
      ∃ t, exec (.ppr stack row) s = .next t ∧ t.rowsMoved = s.rowsMoved ++ [(stack, row)]
        ∧ Logs 10 0 (stack + 16 * row) 0 s t ∧ KeepsDevice s t)
    ∧ ((s.rowOver (stack + 16 * row) = false ∨ s.bankFull stack (rowBank row) = true) → exec (.ppr stack row) s = .next s)
    ∧ (stack < 12 → ch < 32 → s.chanOver stack ch = true →
      s.underStripe (fun a => decide (s.lineLoc a % 2 ^ 10 = stack + 16 * ch)) = false →
      ((∀ e ∈ s.chanMoved, e.1 ≠ stack) →
        ∃ t, exec (.chanSpare stack ch) s = .next t ∧ t.chanMoved = s.chanMoved ++ [(stack, ch)]
          ∧ Logs 11 0 (stack + 16 * ch) 0 s t ∧ KeepsDevice s t)
      ∧ ((∃ e ∈ s.chanMoved, e.1 = stack) → (0, stack) ∉ s.flagged →
        ∃ t, exec (.chanSpare stack ch) s = .next t ∧ t.chanMoved = s.chanMoved ∧ Logs 17 0 stack 0 s t))
    ∧ (s.chanOver stack ch = false → exec (.chanSpare stack ch) s = .next s)
    ∧ (65536 * frame < Config.memSize → s.moving frame = false → s.frameOver frame = true → frame ∉ s.retired →
      let st := geoStacks (s.geotAt (s.geoAt frame))
      ((∀ k ∈ st, s.reserveUsed k + 65536 / st.length ≤ 256 * 65536) →
        ∃ t, exec (.pageRetire frame) s = .next t ∧ t.retired = s.retired ++ [frame] ∧ KeepsDevice s t
          ∧ Logs 12 0 (s.lineLoc (65536 * frame)) (65536 * frame) s t)
      ∧ ((∃ k ∈ st, 256 * 65536 < s.reserveUsed k + 65536 / st.length) →
        ∃ t, exec (.pageRetire frame) s = .next t ∧ t.retired = s.retired))
    ∧ ((s.moving frame = true ∨ s.frameOver frame = false) → exec (.pageRetire frame) s = .next s)

/-- An excursion starts only where UVX is set and LOCK clear; errors at more than twice its baseline's rate end it and lock the
die until its re-measurement ends, which flags the die and the unit concerned when they still exceed twice the baseline, and
spares that unit. An evaluation sets each die's state to
the deepest of what software asks, the power limit and the thermal state call for; at 115 degrees, or when a rail that is
applied fails, the part is off, its memory and cores as after reset and its host's memory kept; and it comes up again (R432, R459, R462 to
R464). -/
def Sys2Proof.Claims.PowerAndVoltage : Prop :=
  ∀ (s : State) (d rail temp : Nat), d < 8 →
    let x := s.die d
    (x.uvx = 1 → x.lock = false → x.excursion = false →
      ∃ t, exec (.undervoltExcursion d true) s = .next t ∧ (t.die d).excursion = true ∧ KeepsMemory s t)
    ∧ ((x.uvx = 0 ∨ x.lock = true) → exec (.undervoltExcursion d true) s = .next s)
    ∧ (x.excursion = true →
      (∃ t, exec (.undervoltExcursion d false) s = .next t ∧ (t.die d).excursion = false ∧ (t.die d).lock = x.lock)
      ∧ (2 * x.base < 16 * (s.dieErrs d (s.now - 2 ^ 32) false).length →
        ∃ t, exec (.voltRestore d) s = .next t ∧ (t.die d).excursion = false ∧ (t.die d).lock = true
          ∧ (t.die d).remeasure = true ∧ Logs 16 6 (s.siteOf d) 0 s t))
    ∧ (16 * (s.dieErrs d (s.now - 2 ^ 32) false).length ≤ 2 * x.base → exec (.voltRestore d) s = .next s)
    ∧ (s.now < x.errs + 2 ^ 36 → exec (.remeasurementEnd d) s = .next s)
    ∧ (x.remeasure = true → x.errs + 2 ^ 36 ≤ s.now →
      let es := s.dieErrs d x.errs true
      let w := worstTile es
      ∃ t, exec (.remeasurementEnd d) s = .next t ∧ (t.die d).lock = false ∧ (t.die d).remeasure = false
        ∧ (es.length ≤ 2 * x.base → LogsNothing s t ∧ t.flagged = s.flagged)
        ∧ (2 * x.base < es.length → (2, s.siteOf d) ∈ t.flagged
          ∧ (2, if w = 128 then s.siteOf d + 2048 * 4 else s.sramLoc (96 * d + w) 0) ∈ t.flagged
          ∧ (w < 96 → x.lost = false → s.gangsOn d = [] → s.sparesUsed d < 4 →
              Tbl.get 0 t.tileMap (96 * s.siteOf d + w) = 96 + s.sparesUsed d)))
    ∧ (∃ t, exec .dvfsEvaluation s = .next t
        ∧ (s.tlim.toNat < s.temp → t.thermal = min 3 (s.thermal + 1))
        ∧ (s.temp + 5 ≤ s.tlim.toNat → t.thermal = s.thermal - 1)
        ∧ (s.temp ≤ s.tlim.toNat → s.tlim.toNat < s.temp + 5 → t.thermal = s.thermal)
        ∧ (t.thermal < 4 → max x.req.toNat t.thermal ≤ (t.die d).cur.toNat)
        ∧ (2514 ≤ s.plim.toNat → t.thermal < 4 → (t.die d).cur.toNat = max x.req.toNat t.thermal))
    ∧ (s.powered = true → temp < 115 → exec (.thermalTrip temp) s = .next { s with temp := temp })
    ∧ (s.powered = true →
      let off := fun (t : State) => t.powered = false ∧ t.cores = [] ∧ t.mem = [] ∧ t.keys = [] ∧ t.booted = false
        ∧ t.hostMem = s.hostMem ∧ t.lcs = s.lcs ∧ t.failed = s.failed
      (115 ≤ temp → ∃ t, exec (.thermalTrip temp) s = .next t ∧ off t)
      ∧ (rail ∈ s.railsOn → ∃ t, exec (.railFault rail) s = .next t ∧ off t))
    ∧ (s.powered = true → ∀ r, r ∈ s.railsOn ↔ r < 4 ∨ ∃ n ∈ s.sites, r = 4 + n ∨ r = 14 + n)
    ∧ (rail ∉ s.railsOn → exec (.railFault rail) s = .next s)
    ∧ (s.powered = false → ∃ t, exec .powerUp s = .next t ∧ t = { s with powered := true, freeN := t.freeN, mods := t.mods }
        ∧ ∀ n, n < 4 → (Tbl.get {} t.mods n).trained = true)

/-- While the port is shut it does nothing. It asks a running gang to stop, and when every core of it stands at a boundary
the gang is stopped. Of a stopped gang it reads a face of a register, and writes one, a tessera word or a PC, with no W bit,
selector or stamp changed; of any other gang neither; and it claims a gang's breakpoints whether or not it is placed. Trace
records that no later one can come before are written, none of them staying due, and with the trace off and none due no byte
changes (R443, R449, R450, R456, R457). Where its clauses rest on choices or inferences of the model, these are log entries 82, 87, 132, 134 and 135. -/
def Obligations.DebugPortAndSamples : Prop :=
  ∀ (s : State) (n c : Nat) (cx : CtxId),
    (s.portOpen = false → ((s.gang n).state ≠ 11 → exec (.debugStop n) s = .next s) ∧ ∀ rq, exec (.debugPortAccess n rq) s = .next s)
    ∧ (s.portOpen = true → (s.gang n).state = 3 → ∃ t, exec (.debugStop n) s = .next t ∧ (t.gang n).state = 11)
    ∧ ((s.gang n).state = 11 →
      ((∀ e ∈ (s.gang n).place, ∀ d, e.2 = some d → (s.core d).ready n (s.gang n).escal = true) → ∃ t, exec (.debugStop n) s = .next t ∧ (t.gang n).state = 8)
      ∧ ((∃ e ∈ (s.gang n).place, ∃ d, e.2 = some d ∧ (s.core d).savable n (s.gang n).escal .cb0 = false) →
          exec (.debugStop n) s = .next s))
    ∧ (s.portOpen = true → (s.gang n).state = 8 → (∃ e ∈ (s.gang n).place, e.2 = some c) → (s.ctxAt c cx).gang = n →
      ∀ (cls idx key : Nat) (f : Bool) (v : Vec), portKey cls idx = some key →
        (∃ t, exec (.debugPortAccess n ⟨c, cx, .face cls idx f, false, v⟩) s = .next t
          ∧ t = { s with dbgOut := s.dbgOut ++ [((s.ctxAt c cx).two key).face f] })
        ∧ (¬ (cls = 0 ∧ idx = 0) → ∃ t, exec (.debugPortAccess n ⟨c, cx, .face cls idx f, true, v⟩) s = .next t
          ∧ OnlyCore c s t ∧ (t.core c).setCtx cx (s.ctxAt c cx) = s.core c
          ∧ (let y := t.ctxAt c cx
            let x := s.ctxAt c cx
            (y.two key).face f = v &&& BitVec.ofNat 4096 (2 ^ classBits cls - 1)
            ∧ (y.two key).face (!f) = (x.two key).face (!f) ∧ (y.two key).w = (x.two key).w
            ∧ (y.two key).sel = (x.two key).sel ∧ (y.two key).stamp = (x.two key).stamp
            ∧ (∀ k, k ≠ key → y.two k = x.two k)))
        ∧ (∀ a, a + 8 ≤ Config.tessSize → ∃ t, exec (.debugPortAccess n ⟨c, cx, .tess a, true, v⟩) s = .next t
          ∧ Mem.read (t.core c).tess a 8 = v.toNat % 2 ^ 64 ∧ OutsideTess c a 8 s t))
    ∧ (s.portOpen = true → (s.gang n).state ≠ 8 → ∀ rq, rq.target ≠ .claim → exec (.debugPortAccess n rq) s = .next s)
    ∧ (s.portOpen = true → (s.gang n).state ≠ 0 → ∀ v : Vec,
      ∃ t, exec (.debugPortAccess n ⟨c, cx, .claim, true, v⟩) s = .next t ∧ (t.gang n).claimed = v.getLsbD 0 ∧ KeepsMemory s t
        ∧ ∀ m ∈ s.strandsOf n, (t.ctxAt m.1 m.2).claimed = v.getLsbD 0)
    ∧ ∃ t, exec (.traceSample c) s = .next t
        ∧ ((t.core c).traceEnd = none → (t.core c).due = [])
        ∧ (∀ e, (t.core c).traceEnd = some e → ∀ r ∈ (t.core c).due, e ≤ r.at_)
        ∧ ((s.core c).trctl.getLsbD 0 = false → (s.core c).trWas = none → (s.core c).due = [] → KeepsMemory s t)

namespace Sys2Proof.Claims

/-- A header without guard and delay. -/
def bare : Hdr := ⟨false, false, 0, 0⟩

end Sys2Proof.Claims

/-- Device reset: every context of every core has both faces of every register zero, every selector and W bit clear, an
empty queue, and LR, XR and the phase registers at 0 (R17); the geometry table has its one entry, power its limits, and each
tenant's pass is 0 (R240, R356, R463); no core runs a strand, and the device's memory, the host's and the firmware image, which list nothing, are in canonical
form. Where its clauses rest on choices or inferences of the model, these are log entries 1, 4 and 63. -/
def Obligations.ResetState : Prop :=
  (∀ c cx, let x := State.reset.ctxAt c cx
    (∀ key, (x.two key).f0 = 0 ∧ (x.two key).f1 = 0 ∧ (x.two key).sel = false ∧ (x.two key).w = false)
    ∧ x.pwq = [] ∧ x.lr = 0 ∧ x.xr = {} ∧ x.phn = 0 ∧ x.phs = 0 ∧ x.lpst = 0 ∧ x.gang = 0
    ∧ x.rot = false ∧ x.rpos = 0 ∧ x.dwt = false ∧ x.dw = false ∧ x.tail = 0)
  ∧ State.reset.geotAt 0 = 0x00000001FFF05001 ∧ (∀ n, 0 < n → n < 16 → State.reset.geotAt n = 0)
  ∧ State.reset.plim = 0xA28 ∧ State.reset.tlim = 100
  ∧ (∀ d, (State.reset.die d).cur = 0 ∧ (State.reset.die d).lock = false ∧ (State.reset.die d).uvx = 0
      ∧ (State.reset.die d).req = 0)
  ∧ (∀ t, (State.reset.tenant t).pass = 0) ∧ State.reset.vpass = 0
  ∧ MemoryOk State.reset ∧ InPart State.reset

/-- Words written out from the encoding tables of R59 to R77, R193, R417 and R436 decode to the instructions they stand
for, one for each family: scalar, predicate, control, vector, conversion, matrix, asynchronous and memory, system, prefix,
micro-operation, host message and command; and the words that the maps leave unassigned or that break a field rule are
refused by name. -/
def Obligations.SampleWordsDecode : Prop :=
  -- ADD s1, s2, s3
  decodeSlot .s 0b00000100000000000010001000011000 = .ok (.add bare 1 2 3)
  -- (!p3) CMP.LTS p5, s6, s7, LAND 2
  ∧ decodeSlot .s 0b00011011001110001010011000111010 = .ok (.cmpLts ⟨true, true, 3, 2⟩ 5 6 7)
  -- LDS s9, W 3, s4, OFS5 17
  ∧ decodeSlot .s 0b01001100000000010010010001110001 = .ok (.lds bare 9 4 3 17)
  -- BR -2
  ∧ decodeSlot .s 0b01100000000000111111111111111110 = .ok (.br bare (-2))
  -- VFMA v1, v2, v3, TY 6, in V1
  ∧ decodeSlot .v1 0b01101100000000000010001000011110 = .ok (.vfma .v1 bare 1 2 3 6)
  -- VCVT v4, v5, TO 3, FROM 1, in V0
  ∧ decodeSlot .v0 0b10100000000000001000010100110001 = .ok (.vcvt .v0 bare 4 5 3 1)
  -- MCALL k2, IDX 5
  ∧ decodeSlot .m 0b00000100000000001000000001010000 = .ok (.mcall bare 2 5 0 0)
  -- AMOD.XCHG s1, s2, s3 in C1
  ∧ decodeSlot .c1 0b01010100000000000010001000011011 = .ok (.amod .c1 bare 1 2 3 3)
  -- SRD s7, 0x0A8
  ∧ decodeSlot .x 0b00111000000000001110000010101000 = .ok (.srd bare 7 0x0A8)
  -- IMX slot 0, E = 1
  ∧ decodeSlot .p 0b00001000000000000000000000000001 = .ok (.imx 0 1)
  -- YLD and END
  ∧ decodeUop 0xB000000000000000 = .ok .yld ∧ decodeUop 0xE000000000000000 = .ok .endOp
  -- DREAD of tenant 0, offset 8; EXTEND
  ∧ decode .message ([7, 0, 0, 0, 1, 0, 0, 0, 8] ++ List.replicate 23 0) = .ok (.dread ⟨0, 0, 1, 8, 0, 0, []⟩)
  ∧ decode .command ([0x41, 2, 1, 0, 9, 0, 0, 0] ++ List.replicate 8 0 ++ [4]) = .ok (.extend ⟨2, 1, 9, 0, [4]⟩)
  -- unassigned: S 07, X 1E, a micro-operation 15, a message 9; a guard field without GE; B of MOV above 10
  ∧ decodeSlot .s 0b00011100000000000000000000000000 = .error .unassigned
  ∧ decodeSlot .x 0b01111000000000000000000000000000 = .error .unassigned
  ∧ decodeUop 0xF000000000000000 = .error .unassigned
  ∧ decode .message (9 :: List.replicate 31 0) = .error .unassigned
  ∧ decodeSlot .s 0b00000100000100000010001000011000 = .error .badField
  ∧ decodeSlot .s 0b00010000000000000010001001011000 = .error .badSelector

/-- Every well-formed instruction's bits decode to it, with every operand at every value its encoding admits (R57 to R77,
R193, R417, R436). -/
def Sys2Proof.Claims.WellFormedInstructionsDecodeBack : Prop :=
  ∀ i : Instr, i.wf = true → i.source ≠ .event → decode i.source (encode i) = .ok i

/-- Every word that decodes is the encoding of a well-formed instruction of its slot: no bit of it goes unread, and of two
words in one slot only one means an instruction (R57, R62, R77, R193). -/
def Sys2Proof.Claims.DecodedWordsAreCanonical : Prop :=
  (∀ (sl : Slot) (w : Word32) (i : Instr), decodeSlot sl w = .ok i → i.wf = true ∧ encodeWord i = w
    ∧ (i = .nop ↔ w = 0) ∧ (i ≠ .nop → i.source = .slot sl))
  ∧ (∀ (w : Word64) (i : Instr), decodeUop w = .ok i → i.wf = true ∧ encodeUop i = w ∧ i.source = .routine)
  ∧ (∀ (sl : Slot) (v w : Word32) (i : Instr), decodeSlot sl v = .ok i → decodeSlot sl w = .ok i → v = w)

/-- A step of a state whose focus names a core of the part always goes on, to another such state: no instruction, event,
message or command of the opcode table ends a run (R2, R391). Where its clauses rest on a choice or an inference of the model, that is log entry 97. -/
def Obligations.EveryStepGoesOn : Prop :=
  ∀ s : State, InPart s → ∃ t, step s = .next t ∧ InPart t

/-- Every step keeps the device's memory, the host's and the firmware image in canonical form, so that equal contents are
equal data; and each operation by which a memory changes, a core's tessera, accumulator memory and lintel among them, keeps
the form. Where its clauses rest on a choice or an inference of the model, that is log entry 1. -/
def Obligations.MemoryStaysCanonical : Prop :=
  (∀ s t : State, MemoryOk s → step s = .next t → MemoryOk t)
  ∧ ∀ (m : Mem) (a n v line mask : Nat) (b : Byte) (bs : List Byte), m.wf = true →
    (Mem.setByte m a b).wf = true ∧ (Mem.write m a n v).wf = true ∧ (Mem.setBytes m a bs).wf = true
    ∧ (writeMasked m line mask v).wf = true

/-- A part without power does nothing when an action comes but drop it, and powers up when power comes (R459, R464). -/
def Sys2Proof.Claims.UnpoweredPartOnlyPowersUp : Prop :=
  ∀ (s : State) (a : Action) (rest : List Action), InPart s → s.powered = false → s.agenda = a :: rest →
    (a ≠ .event .powerUp → step s = .next { s with agenda := rest })
    ∧ (a = .event .powerUp → ∃ t, step s = .next t
        ∧ t = { s with agenda := rest, powered := true, freeN := t.freeN, mods := t.mods })

namespace Sys2Proof.Claims

/-- The instruction issues, and of the context nothing but its registers and queue may change; one access more is on record,
with its operation, operand and places. -/
def Records (i : Instr) (op : AccOp) (val : Nat) (ps : List Piece) (s : State) : Prop :=
  ∃ (t : State) (a : Access), exec i s = .next t ∧ t.iss.out = .issued ∧ t.kore.accs = s.kore.accs ++ [a]
    ∧ a.op = op ∧ a.val = val ∧ a.pieces = ps ∧ a.cx = s.cx ∧ IssuesAccess s t

/-- A C slot may make an access to the bytes: its guard is on, no walk holds C1, its register may expect a value, and no
watchpoint fires (R26, R36, R236, R455). -/
def MayAccess (s : State) (un : CUnit) (h : Hdr) (key cls : Nat) (runs : List (Nat × Nat)) : Prop :=
  s.guardOn h = true ∧ (un = .c1 → s.me.walk = none) ∧ Room s key true h.land.toNat ∧ s.watch cls (cSpace un) runs = none

/-- The address of a C-slot scalar access (R247). -/
def cAddr (s : State) (un : CUnit) (a o : BitVec 5) (size : Nat) : Nat :=
  (s.me.s a.toNat + BitVec.ofNat 64 (s.immU (cnum un) o * size)).toNat

end Sys2Proof.Claims

/-- Each of these forms answers a next state, that of its own effect, on operands that pass its checks: NOP, PFX, IMX and
MARK always, changing the issue latch alone; LDR, STR, LDA, STRL, AMOW, AMOD, CAS and FAMO at an aligned place that is mapped
and permitted, and VLDR and VSTR with every lane at one, put their access on record, and without a lane taking part do
nothing; VLD and VST do nothing when no lane takes part, and issue when each that does is in place. TRAP issues and names its
code, BKPT raises DEBUG, and HALT ends its strand when its operations are settled (R36 to R42, R58, R72 to R76, R140, R163,
R247 to R259, R394, R401). -/
def Sys2Proof.Claims.SlotFormsComplete : Prop :=
  ∀ (s : State) (un : CUnit) (vu : VUnit) (h : Hdr) (d a b o : BitVec 5) (w m f : BitVec 3) (g : BitVec 1) (n : BitVec 13)
    (p : Loc) (ps : List Piece),
    let v := s.me.s b.toNat
    let x := (s.me.s a.toNat).toNat
    let idle := s.setIss { s.iss with out := .issued }
    -- the P slot
    (∃ t, exec .nop s = .next t ∧ t.iss.out = .issued ∧ OnlyLatch s t)
    ∧ (∀ q r la lb rd rw, ∃ t, exec (.pfx q r la lb rd rw) s = .next t ∧ t.iss.out = .issued ∧ t.iss.rm0 = q.toNat
        ∧ t.iss.rm1 = r.toNat ∧ t.iss.rnd = rd.toNat ∧ t.iss.rw = rw.toNat ∧ OnlyLatch s t)
    ∧ (∀ sl e, ∃ t, exec (.imx sl e) s = .next t ∧ t.iss.out = .issued ∧ t.iss.imx = some (sl.toNat, e) ∧ OnlyLatch s t)
    ∧ (∀ c k, ∃ t, exec (.mark c k) s = .next t ∧ t.iss.out = .issued ∧ t.iss.mark = some (c, k) ∧ OnlyLatch s t)
    -- the own memories by lanes
    ∧ (partLanes m.toNat false (s.lanes h) = 0 → exec (.vld vu h d a b m) s = .next idle)
    ∧ (Room s (s.me.keyV d.toNat) (decide (0 < h.land.toNat)) h.land.toNat → LanesOk s vu (lanesOf s h m a b false) →
        s.watch 60 (vSpace vu) ((lanesOf s h m a b false).map fun l => (l.2.toNat, 4)) = none →
        ∃ t, exec (.vld vu h d a b m) s = .next t ∧ t.iss.out = .issued)
    ∧ (partLanes m.toNat true (s.lanes h) = 0 → exec (.vst vu h d a b m) s = .next idle)
    ∧ (LanesOk s vu (lanesOf s h m a b true) →
        s.watch 61 (vSpace vu) ((lanesOf s h m a b true).map fun l => (l.2.toNat, 4)) = none →
        ∃ t, exec (.vst vu h d a b m) s = .next t ∧ t.iss.out = .issued)
    -- the C slots
    ∧ (placeOf s un (cAddr s un a o (sizeOfW w)) (sizeOfW w) 1 = some p →
        MayAccess s un h (keyS d.toNat) 60 [(cAddr s un a o (sizeOfW w), sizeOfW w)] →
        Records (.ldr un h d a w o) (.load (decide (w.toNat < 4))) 0 [⟨p, 0, sizeOfW w⟩] s)
    ∧ (placeOf s un (cAddr s un a o (sizeOfW w)) (sizeOfW w) 2 = some p →
        MayAccess s un h 0 61 [(cAddr s un a o (sizeOfW w), sizeOfW w)] →
        Records (.str un h d a w o) .store ((s.me.s d.toNat).toNat % 256 ^ sizeOfW w) [⟨p, 0, sizeOfW w⟩] s)
    ∧ (placeOf s un (cAddr s un a o 8) 8 1 = some p → MayAccess s un h (keyS d.toNat) 60 [(cAddr s un a o 8, 8)] →
        Records (.lda un h d a f o) (.load false) 0 [⟨p, 0, 8⟩] s)
    ∧ (placeOf s un (cAddr s un a o 8) 8 2 = some p → MayAccess s un h 0 61 [(cAddr s un a o 8, 8)] →
        Records (.strl un h d a f o) .store (s.me.s d.toNat).toNat [⟨p, 0, 8⟩] s)
    ∧ (placeOf s un x 4 3 = some p → MayAccess s un h (keyS d.toNat) 62 [(x, 4)] →
        Records (.amow un h d a b f) (.amo f.toNat) (v.toNat % 2 ^ 32) [⟨p, 0, 4⟩] s
        ∧ Records (.cas un h d a b 0) (.cas ((s.me.s d.toNat).toNat % 2 ^ 32)) (v.toNat % 2 ^ 32) [⟨p, 0, 4⟩] s
        ∧ (f ≠ 1 → f ≠ 4 → Records (.famo un h d a b f) (.famo f.toNat) (v.toNat % 2 ^ 32) [⟨p, 0, 4⟩] s))
    ∧ (placeOf s un x 8 3 = some p → MayAccess s un h (keyS d.toNat) 62 [(x, 8)] →
        Records (.amod un h d a b f) (.amo f.toNat) v.toNat [⟨p, 0, 8⟩] s
        ∧ (g ≠ 0 → Records (.cas un h d a b g) (.cas (s.me.s d.toNat).toNat) v.toNat [⟨p, 0, 8⟩] s)
        ∧ ((f = 1 ∨ f = 4) → Records (.famo un h d a b f) (.famo f.toNat) v.toNat [⟨p, 0, 8⟩] s))
    ∧ (partLanes m.toNat false (s.lanes h) = 0 → exec (.vldr un h d a b m) s = .next idle)
    ∧ (partLanes m.toNat false (s.lanes h) ≠ 0 → placesOf s un 1 (lanesOf s h m a b false) = some ps →
        (un = .c1 → s.me.walk = none) → Room s (s.me.keyV d.toNat) true h.land.toNat →
        s.watch 60 (cSpace un) ((lanesOf s h m a b false).map fun l => (l.2.toNat, 4)) = none →
        Records (.vldr un h d a b m) (.load false) 0 ps s)
    ∧ (partLanes m.toNat true (s.lanes h) = 0 → exec (.vstr un h d a b m) s = .next idle)
    ∧ (partLanes m.toNat true (s.lanes h) ≠ 0 → placesOf s un 2 (lanesOf s h m a b true) = some ps →
        (un = .c1 → s.me.walk = none) →
        s.watch 61 (cSpace un) ((lanesOf s h m a b true).map fun l => (l.2.toNat, 4)) = none →
        Records (.vstr un h d a b m) .store (s.me.v d.toNat).toNat ps s)
    -- traps of its own, and the end of a strand
    ∧ (s.guardOn h = true → ∃ t, exec (.trap h n) s = .next t ∧ t.iss.out = .issued
        ∧ t.iss.svc = some (BitVec.ofNat 64 (s.immU 6 n)))
    ∧ (s.guardOn h = true → ∃ t, exec (.bkpt h n) s = .next t ∧ t.iss.out = .trapped 8 7 16 (BitVec.ofNat 64 (s.immU 6 n)))
    ∧ (s.guardOn h = true → s.cx ≠ .svc → (∀ q ∈ s.attached, 4 ≤ q.state ∧ q.state ≠ 6) →
        ∃ t, exec (.halt h) s = .next t ∧ t.iss.out = .issued ∧ t.me.halted = true)

/-- Each of these forms answers a next state, that of its own effect: FMTS with a legal combination, AFET, BSEL, PADD,
YLD, END and, with no row that has an adapter, ADPT of a running routine; the selection of a launch, one evaluation of
voltage and frequency, and power coming up (R194 to R196, R201 to R209, R356, R459, R464). -/
def Sys2Proof.Claims.OtherFormsComplete : Prop :=
  ∀ (s : State) (o : ChildOp) (r : Routine),
    (Running s o r → o.cancel = false → o.suspend = false → s.kore.halfRow = none → o.newer < 64 →
      (∀ mode af bf, fmtsLegal mode.toNat (fmtsCode o af) (fmtsCode o bf) →
        ∃ t, exec (.fmts mode af bf) s = .next t ∧ t.kore.mx.word = r.word + 1 ∧ t.kore.mx.mode = some mode.toNat)
      ∧ (∀ pa pitch ord swz, ∃ t, exec (.afet pa pitch ord swz) s = .next t ∧ t.kore.mx.word = r.word + 1
          ∧ t.kore.mx.abase = (r.q.getD pa.toNat 0).toNat ∧ t.kore.mx.pitch = pitch.toNat)
      ∧ (∀ pb rofs srow ssrow, ∃ t, exec (.bsel pb rofs srow ssrow) s = .next t ∧ t.kore.mx.word = r.word + 1
          ∧ t.kore.mx.srow = srow.toNat ∧ t.kore.mx.ssrow = ssrow.toNat)
      ∧ (∀ pd src ps imm, ∃ t, exec (.padd pd src ps imm) s = .next t ∧ t.kore.mx.word = r.word + 1
          ∧ t.kore.mx.q = r.q.set pd.toNat (r.q.getD pd.toNat 0
              + (if src = 1 then r.q.getD ps.toNat 0 else imm.signExtend 64)))
      ∧ (∀ nr frow wb pi pt pd, r.mode = some 0 → s.kore.mxcfg ≠ 0 → r.fetch = none → r.pins = [] → r.marks = [] →
          s.kore.softTess = [] → s.kore.soft = [] → s.kore.ce = [] →
          (∀ m, frow.toNat ≤ m → m ≤ frow.toNat + nr.toNat →
            ∃ ls, s.adapterId (s.moverOf s.focus o) r pi m = .ok (0, ls)) →
          (∃ t, exec (.adptDown nr frow wb pi pt pd) s = .next t ∧ t.kore.mx.word = r.word + 1)
          ∧ ∃ t, exec (.adptUp nr frow wb pi pt pd) s = .next t ∧ t.kore.mx.word = r.word + 1)
      ∧ (∃ t, exec .yld s = .next t ∧ t.kore.mx.word = r.word + 1)
      ∧ (∃ t, exec .endOp s = .next t ∧ Ended s t o 4 0))
    ∧ (∀ ten who claim pri cls, ten < 16 → s.takeRegs.candidate ten = some (who, claim, pri, cls) →
        (∀ t, t < 16 → t ≠ ten → s.takeRegs.candidate t = none) → s.takeRegs.beats pri cls = true →
        ∃ t, exec .launchSelect s = .next t ∧ (t.tenant ten).pass = t.vpass + 65536 / max 1 (s.takeRegs.share ten))
    ∧ (∃ t, exec .dvfsEvaluation s = .next t ∧ ∀ d, d < 8 → (s.die d).req.toNat ≤ (t.die d).cur.toNat)
    ∧ (s.powered = false → ∃ t, exec .powerUp s = .next t ∧ t = { s with powered := true, freeN := t.freeN, mods := t.mods })

/-- An outstanding access that nothing orders later performs its next line, and with its last it is no longer outstanding; a
request about another core's operation takes effect whole. A write notice that nothing comes before is applied to its die, and
a store that a die's cache has taken reaches its home, with those to its line before it. A collective of one member inside its
own tessera moves the lines of its step, and its last step ends it DONE; a hash of one line of the own tessera writes its
digest and ends DONE. An action has its effect whenever it comes in a state of these (R231, R250, R253, R269, R274, R313, R336
to R338, R340, R342). -/
def Sys2Proof.Claims.TransfersComplete : Prop :=
  ∀ (s : State) (c k : Nat),
    (∀ a, (s.core c).accs[k]? = some a → s.mayPerform c a = true →
      let l := ((a.pieces.head?).map (·.loc.line)).getD (0, 0)
      let rest := a.pieces.filter fun p => p.loc.line != l
      ∃ t, exec (.accessPerform c k) s = .next t
        ∧ ((a.op.asks = true ∨ rest = []) → ∀ b ∈ (t.core c).accs, b.id ≠ a.id)
        ∧ (a.op.asks = false → rest ≠ [] → ∀ b ∈ (t.core c).accs, b.id = a.id → b.pieces = rest))
    ∧ (∀ n, (s.die c).notices[k]? = some n → (s.die c).mayApply k n = true →
      exec (.writeNoticeApply c k) s = .next (s.setDie c ((s.die c).applyNotice n)))
    ∧ (∀ b, (s.die c).buffer[k]? = some b →
      ∃ t, exec (.writeNoticeApply c ((s.die c).notices.length + k)) s = .next t
        ∧ Tbl.get (0, 0) t.lastW b.line = (c, b.count) ∧ t.cores = s.cores
        ∧ (plcEnc b.plc = false → ∀ i, i < 64 → b.mask.testBit i = true →
            Mem.byte t.mem (64 * b.line + i) = BitVec.ofNat 8 (b.data / 256 ^ i)))
    ∧ (∀ o, (s.core c).headOp 5 = some o → (s.core c).opOf o.token = some o → o.state = 2 → o.kind = .coll → o.newer < 64 →
      s.collMembers o = [.here c o] → o.cancel = false → o.suspend = false → o.bad = 0 → s.unripe = [] →
      PlainPart s 1 o.lines (c, o) → o.lines < collLines o.packet 1 →
      let pk := o.packet
      let sa := leAt pk 8 8
      let da := leAt pk 16 8
      let len := leAt pk 24 4 * (tyWidth (leAt pk 3 1 % 8) / 8)
      (da + 64 * collLines pk 1 ≤ sa ∨ sa + len ≤ da) →
      ∃ t, exec (.collStep c) s = .next t
        ∧ (collLines pk 1 ≤ o.lines + 64 → OpStands t c o 4 0 0)
        ∧ (o.lines + 64 < collLines pk 1 → OpStands t c o 2 o.cause o.addr)
        ∧ ∀ l, o.lines ≤ l → l < min (o.lines + 64) (collLines pk 1) →
            Mem.read (t.core c).tess (da + 64 * l) 64
              = collLine pk ((collSources pk 1 0 l).map fun q => Mem.read (s.core c).tess (sa + q.2) 64) % 256 ^ 64)
    ∧ (∀ o, (s.core c).headOp 7 = some o → o.state = 2 → o.kind = .cryp → o.newer < 64 → s.opVeiled c o = false →
      o.cancel = false → o.lines = 0 → o.halves = [] →
      let pk := o.packet
      let sa := leAt pk 8 8
      let da := leAt pk 16 8
      leAt pk 1 1 = 2 → leAt pk 4 4 = 64 → leAt pk 3 1 = 0x11 → sa % 64 = 0 → da % 64 = 0 →
      sa + 64 ≤ Config.tessSize → da + 64 ≤ Config.tessSize → sa / 64 ∉ (s.core c).badTess → sa / 64 ∉ (s.core c).softTess →
      (s.ctxAt c o.cx).dueTrap = none →
      ∃ t, exec (.cryptoOperation c) s = .next t ∧ OpStands t c o 4 0 0
        ∧ Mem.read (t.core c).tess da 64
            = Crypto.leNat (Crypto.sha256 (Crypto.leBytes 64 (Mem.read (s.core c).tess sa 64))) % 256 ^ 64
        ∧ OutsideTess c da 64 s t)

/-! ### The statements that say several of these together -/

/-- Predicate logic and compares, scalar and vector, give their predicate its value. -/
def Obligations.CompareResults : Prop :=
  Sys2Proof.Claims.PredicateResults
  ∧ Sys2Proof.Claims.VectorCompares

/-- Loop counters, matrix parameters and extracted elements. -/
def Obligations.CounterParameterAndElementResults : Prop :=
  Sys2Proof.Claims.CounterAndParameterResults
  ∧ Sys2Proof.Claims.VectorExtract

/-- LDS and STS read and write the own tessera, and nothing else. -/
def Obligations.TesseraLoadsAndStores : Prop :=
  Sys2Proof.Claims.TesseraLoad
  ∧ Sys2Proof.Claims.TesseraStore

/-- VLD and VST read and write the own memories lane by lane, and nothing else. -/
def Obligations.VectorLoadsAndStores : Prop :=
  Sys2Proof.Claims.VectorLoad
  ∧ Sys2Proof.Claims.VectorStore

/-- Misaligned and unmapped addresses trap before any effect. Where its clauses rest on a choice or an inference of the model, that is log entry 110. -/
def Obligations.BadAddressesTrap : Prop :=
  Sys2Proof.Claims.TesseraAccessTraps
  ∧ Sys2Proof.Claims.AccessTraps
  ∧ Sys2Proof.Claims.BranchTargetTraps

/-- Branches, calls and returns go to their targets; LR and TAIL writes. -/
def Obligations.TransfersOfControl : Prop :=
  Sys2Proof.Claims.BranchesTransfer
  ∧ Sys2Proof.Claims.LinkAndTailWrites

/-- LOOP, LOOPF and FLIP count, branch and owe their flip. Where its clauses rest on a choice or an inference of the model, that is log entry 102. -/
def Obligations.LoopsCountAndFlip : Prop :=
  Sys2Proof.Claims.LoopCounts
  ∧ Sys2Proof.Claims.LoopfCountsAndOwesAFlip
  ∧ Sys2Proof.Claims.FlipIsOwed

/-- Prefix words only tell their bundle; guarded-off instructions do nothing. -/
def Obligations.PrefixAndGuardedOffWords : Prop :=
  Sys2Proof.Claims.PrefixWordsReachTheirBundle
  ∧ Sys2Proof.Claims.GuardedOffInstructionsDoNothing

/-- Register writes keep their form, the later one prevails, and a double write is seen. Where its clauses rest on a choice or an inference of the model, that is log entry 109. -/
def Obligations.WritesOfOnePhase : Prop :=
  Sys2Proof.Claims.RegisterOperationsKeepTheForm
  ∧ Sys2Proof.Claims.LaterWritesPrevail
  ∧ Sys2Proof.Claims.DoubleWriteTraps

/-- Recorded loads and stores perform at their place, and notices reach the dies. Where its clauses rest on choices or inferences of the model, these are log entries 7, 50 and 143. -/
def Obligations.AccessesPerform : Prop :=
  Sys2Proof.Claims.TesseraLoadPerforms
  ∧ Sys2Proof.Claims.TesseraStorePerforms
  ∧ Sys2Proof.Claims.NoticesReachTheDies

/-- Atomics read, compute and write in one step. Where its clauses rest on a choice or an inference of the model, that is log entry 50. -/
def Obligations.AtomicsReadModifyWrite : Prop :=
  Sys2Proof.Claims.AtomicsReadModifyWrite
  ∧ Sys2Proof.Claims.AtomicFunctions

/-- Tokens steer their operations; KWAIT and KWAITCH wait for them. -/
def Obligations.OperationsAreSteeredAndAwaited : Prop :=
  Sys2Proof.Claims.SteeringInstructions
  ∧ Sys2Proof.Claims.KwaitWaitsForItsOperation
  ∧ Sys2Proof.Claims.KwaitchWaitsForItsChannel

/-- WAIT watches the own tessera; SIGNAL stores a flag as a release. Where its clauses rest on a choice or an inference of the model, that is log entry 113. -/
def Obligations.FlagsAreSetAndAwaited : Prop :=
  Sys2Proof.Claims.WaitWatchesTheTessera
  ∧ Sys2Proof.Claims.SignalIsAReleaseStore

/-- Hods advance, wait and expect. -/
def Obligations.HodsCountSlotsAndBytes : Prop :=
  Sys2Proof.Claims.HodAdvances
  ∧ Sys2Proof.Claims.HodWaits
  ∧ Sys2Proof.Claims.HexpectSetsTheCount

/-- Fences hold later bundles; barriers wait for every strand of their instance. Where its clauses rest on choices or inferences of the model, these are log entries 16, 51 and 115. -/
def Obligations.FencesAndBarriers : Prop :=
  Sys2Proof.Claims.FenceStartsAHold
  ∧ Sys2Proof.Claims.BarArrivesAndWaits
  ∧ Sys2Proof.Claims.BarriersRelease

/-- XLAT starts a walk, which ends with its leaf, is parked or abandoned. Where its clauses rest on choices or inferences of the model, these are log entries 24 and 138. -/
def Obligations.WalksStartAndEnd : Prop :=
  Sys2Proof.Claims.XlatStartsAWalk
  ∧ Sys2Proof.Claims.WalksEndOrPark

/-- PAIRSET declares a region; IINV invalidates; SEGB and SEGE check a segment. -/
def Obligations.RegionsAndSegments : Prop :=
  Sys2Proof.Claims.PairsetDeclaresARegion
  ∧ Sys2Proof.Claims.InvalidateAndSegmentBegin
  ∧ Sys2Proof.Claims.SegmentEndCompares

/-- Child operations join their channel, hold while it is full, or trap. Where its clauses rest on choices or inferences of the model, these are log entries 30 and 32. -/
def Obligations.OperationsAreQueued : Prop :=
  Sys2Proof.Claims.OperationsAreQueued
  ∧ Sys2Proof.Claims.FullChannelsHold
  ∧ Sys2Proof.Claims.OperationTraps

/-- System registers take the bits that their writer may write, and nothing else changes. Where its clauses rest on choices or inferences of the model, these are log entries 26, 27 and 131. -/
def Obligations.SystemRegisterWrites : Prop :=
  Sys2Proof.Claims.SwrWritesItsRegister
  ∧ Sys2Proof.Claims.SvcWritesItsRegisters
  ∧ Sys2Proof.Claims.RegisterWritesTakeEffect

/-- A write by one who may not write has no effect; an unassigned index traps. Where its clauses rest on a choice or an inference of the model, that is log entry 27. -/
def Obligations.ForeignRegistersStay : Prop :=
  Sys2Proof.Claims.SwrKeepsForeignRegisters
  ∧ Sys2Proof.Claims.UnassignedRegistersTrap

/-- INGRESS, HWIN, FANSWER and FMAP bring host data to the cores. Where its clauses rest on choices or inferences of the model, these are log entries 58, 60 and 113. -/
def Obligations.HostDataReachesCores : Prop :=
  Sys2Proof.Claims.HwinStoresARecord
  ∧ Sys2Proof.Claims.HostReachesCores

/-- TRAP and BKPT raise their trap; HALT ends its strand. Where its clauses rest on a choice or an inference of the model, that is log entry 19. -/
def Obligations.StrandsTrapAndHalt : Prop :=
  Sys2Proof.Claims.TrapAndBreakpoint
  ∧ Sys2Proof.Claims.HaltEndsTheStrand

/-- XREG writes one face; SAVEPH stores a context image and LOADPH restores one; these instructions are illegal elsewhere. Where its clauses rest on choices or inferences of the model, these are log entries 41, 103, 127 and 128. -/
def Obligations.ServiceReachesRegisters : Prop :=
  Sys2Proof.Claims.SvcOnlyInstructionsTrap
  ∧ Sys2Proof.Claims.XregWritesAFace
  ∧ Sys2Proof.Claims.SavephStoresTheImage
  ∧ Sys2Proof.Claims.LoadphRestoresTheImage

/-- Traps are entered: the frame, the handler, the order of pending traps. Where its clauses rest on a choice or an inference of the model, that is log entry 36. -/
def Obligations.TrapsAreEntered : Prop :=
  Sys2Proof.Claims.TrapEntryWritesTheFrame
  ∧ Sys2Proof.Claims.RaisedTrapsAreEntered
  ∧ Sys2Proof.Claims.PendingTrapsAreTakenInOrder

/-- RETT gives the context back, or stops the gang on a broken frame. Where its clauses rest on choices or inferences of the model, these are log entries 122 and 129. -/
def Obligations.TrapsReturn : Prop :=
  Sys2Proof.Claims.TrapReturn
  ∧ Sys2Proof.Claims.BrokenFrameStopsTheGang

/-- FMTS, AFET, BSEL and PADD set their parameters; FMTS faults on illegal formats. -/
def Obligations.RoutineParameters : Prop :=
  Sys2Proof.Claims.RoutineParameters
  ∧ Sys2Proof.Claims.IllegalFormatsFault

/-- ACCZ, LOOPM, YLD, END and HWT of a routine. Where its clauses rest on a choice or an inference of the model, that is log entry 38. -/
def Obligations.RoutineControl : Prop :=
  Sys2Proof.Claims.AcczZeroesItsRows
  ∧ Sys2Proof.Claims.LoopmCounts
  ∧ Sys2Proof.Claims.YieldAndEnd
  ∧ Sys2Proof.Claims.RoutineHods

/-- MACS accumulates its row-steps, exactly in FP8 mode. Where its clauses rest on a choice or an inference of the model, that is log entry 117. -/
def Obligations.RowStepsAccumulate : Prop :=
  Sys2Proof.Claims.RowStepsAccumulate
  ∧ Sys2Proof.Claims.ExactColumnsAddProducts

/-- ACCL loads and DRN stores the rows of a bank. Where its clauses rest on choices or inferences of the model, these are log entries 37 and 40. -/
def Obligations.BanksAreLoadedAndDrained : Prop :=
  Sys2Proof.Claims.AcclLoadsItsRows
  ∧ Sys2Proof.Claims.DrnStoresItsRows

/-- ADPT does its rows from the bay and fetches what the bay lacks. Where its clauses rest on choices or inferences of the model, these are log entries 39 and 106. -/
def Obligations.AdaptersRun : Prop :=
  Sys2Proof.Claims.AdapterRows
  ∧ Sys2Proof.Claims.AdapterFetchesFill

/-- Holds, bubbles, owed flips and due entries. Where its clauses rest on choices or inferences of the model, these are log entries 20, 36 and 102. -/
def Obligations.HoldsFlipsAndLandings : Prop :=
  Sys2Proof.Claims.HoldsBubblesAndTimeouts
  ∧ Sys2Proof.Claims.FlipsComplete
  ∧ Sys2Proof.Claims.QueueEntriesLand

/-- Delayed accesses perform; bad reads are refetched or replayed. Where its clauses rest on choices or inferences of the model, these are log entries 90, 91 and 126. -/
def Obligations.DelayedAndBadReads : Prop :=
  Sys2Proof.Claims.DelayedAccessesPerform
  ∧ Sys2Proof.Claims.BadReadsAreRefetchedOrReplayed

/-- Queued operations start in order, and joins complete. Where its clauses rest on choices or inferences of the model, these are log entries 32, 85, 104 and 139. -/
def Obligations.OperationsStartAndJoin : Prop :=
  Sys2Proof.Claims.OperationsStart
  ∧ Sys2Proof.Claims.JoinsComplete

/-- Copies and re-stripes move line by line. Where its clauses rest on choices or inferences of the model, these are log entries 31, 85, 151 and 152. -/
def Obligations.LinesMove : Prop :=
  Sys2Proof.Claims.CopyLinesMove
  ∧ Sys2Proof.Claims.RestripesMoveLines

/-- Collectives step together; hashes and XTS operations run. Where its clauses rest on choices or inferences of the model, these are log entries 51, 140 and 143. -/
def Obligations.CollectivesAndCrypto : Prop :=
  Sys2Proof.Claims.CollectivesStep
  ∧ Sys2Proof.Claims.CryptoOperationsRun

/-- Launch queues are scanned, a launch is selected and its record checked. Where its clauses rest on choices or inferences of the model, these are log entries 86, 105, 118, 119 and 136. -/
def Obligations.LaunchesAreSelected : Prop :=
  Sys2Proof.Claims.QueuesAreScanned
  ∧ Sys2Proof.Claims.LaunchesAreSelected
  ∧ Sys2Proof.Claims.LaunchRecordsAreChecked

/-- Gangs are placed whole, and parts of a fabric gang start together. Where its clauses rest on choices or inferences of the model, these are log entries 49, 98, 116, 119, 123 and 137. -/
def Obligations.GangsArePlaced : Prop :=
  Sys2Proof.Claims.GangsArePlaced
  ∧ Sys2Proof.Claims.FabricGangsStartTogether

/-- Host messages are judged, and read, write and claim device memory. Where its clauses rest on choices or inferences of the model, these are log entries 7, 58 and 59. -/
def Obligations.HostReachesMemory : Prop :=
  Sys2Proof.Claims.HostMessagesAreJudged
  ∧ Sys2Proof.Claims.HostReachesMemory

/-- Deadline messages reach their claims; runtime and tenant queues are served. Where its clauses rest on choices or inferences of the model, these are log entries 54, 56, 57 and 62. -/
def Obligations.QueuesAreServed : Prop :=
  Sys2Proof.Claims.DeadlineMessagesReachClaims
  ∧ Sys2Proof.Claims.QueuesAreServed

/-- Commands are judged; firmware is loaded, verified and started. Where its clauses rest on choices or inferences of the model, these are log entries 22, 64, 68, 71 and 72. -/
def Obligations.FirmwareIsLoadedAndStarted : Prop :=
  Sys2Proof.Claims.CommandsAreJudged
  ∧ Sys2Proof.Claims.FirmwareIsLoadedAndStarted

/-- Tenants are set and cleared; keys are loaded and freed. Where its clauses rest on choices or inferences of the model, these are log entries 7, 66, 67 and 69. -/
def Obligations.TenantsAndKeys : Prop :=
  Sys2Proof.Claims.TenantsAreSetAndCleared
  ∧ Sys2Proof.Claims.KeysAreLoadedAndFreed

/-- Unlock and lifecycle; quote, measurements and node number. Where its clauses rest on choices or inferences of the model, these are log entries 65, 70 and 134. -/
def Obligations.LifecycleAndAttestation : Prop :=
  Sys2Proof.Claims.LifecycleAndUnlock
  ∧ Sys2Proof.Claims.AttestationAndNode

/-- Tiles and dies are spared or lost; links retry and spare lanes. Where its clauses rest on choices or inferences of the model, these are log entries 51, 73, 74, 93, 100, 123 and 125. -/
def Obligations.SparesAndLinks : Prop :=
  Sys2Proof.Claims.TilesAndDiesAreSpared
  ∧ Sys2Proof.Claims.LinksKeepGoing

/-- Memory is scrubbed and repaired; voltage, temperature and power. Where its clauses rest on choices or inferences of the model, these are log entries 75, 76, 77, 78, 79, 81, 93, 144 and 147. -/
def Obligations.MemoryRepairAndPower : Prop :=
  Sys2Proof.Claims.MemoryIsScrubbedAndRepaired
  ∧ Sys2Proof.Claims.PowerAndVoltage
  ∧ Sys2Proof.Claims.UnpoweredPartOnlyPowersUp

/-- P-slot words, memory accesses, atomics, TRAP, BKPT, HALT, micro-operations, transfers and device actions complete. Where its clauses rest on choices or inferences of the model, these are log entries 19, 39 and 79. -/
def Obligations.FormsComplete : Prop :=
  Sys2Proof.Claims.SlotFormsComplete
  ∧ Sys2Proof.Claims.OtherFormsComplete
  ∧ Sys2Proof.Claims.TransfersComplete

/-- Decode and encode agree, for every instruction and every word. -/
def Obligations.EncodingsAgree : Prop :=
  Sys2Proof.Claims.WellFormedInstructionsDecodeBack
  ∧ Sys2Proof.Claims.DecodedWordsAreCanonical
end

