-- ==== Sys2Proof/Laws/Encoding.lean ====
section
/-! SUPPORT. What the encoder's words and records hold, field by field, and that decoding reads it back: the lemmas from
which `Laws/PerInstr.lean` shows the round trip of every instruction. -/

namespace Sys2Proof.Laws

set_option Elab.async false

/-! ### Fields of a word -/

/-- A field read back from a payload that holds it. -/
theorem bits_of {n : Nat} (lo p : Nat) (x : BitVec n) (h : p / 2 ^ lo % 2 ^ n = x.toNat) : bits n lo p = x := by
  apply BitVec.eq_of_toNat_eq
  simp [bits, h]

/-- A bit of a word as arithmetic. -/
theorem getLsbD_div {w : Nat} (x : BitVec w) (i : Nat) : x.getLsbD i = decide (x.toNat / 2 ^ i % 2 = 1) := by
  simp [BitVec.getLsbD, Nat.testBit_eq_decide_div_mod_eq]

/-- The number of a slot word (R59). -/
theorem slotWord_toNat (op : Nat) (h : Hdr) (p : Nat) (ho : op < 64) (hp : p < 262144) :
    (slotWord op h p).toNat = op * 67108864 + h.ge.toNat * 33554432 + h.gn.toNat * 16777216 + h.g.toNat * 1048576
      + h.land.toNat * 262144 + p := by
  have h1 := Bool.toNat_le h.ge
  have h2 := Bool.toNat_le h.gn
  have h3 := h.g.isLt
  have h4 := h.land.isLt
  simp only [slotWord, BitVec.toNat_ofNat]
  omega

theorem opOf_slotWord (op : Nat) (h : Hdr) (p : Nat) (ho : op < 64) (hp : p < 262144) :
    opOf (slotWord op h p) = op := by
  have h1 := Bool.toNat_le h.ge
  have h2 := Bool.toNat_le h.gn
  have h3 := h.g.isLt
  have h4 := h.land.isLt
  rw [opOf, slotWord_toNat op h p ho hp]
  omega

theorem payloadOf_slotWord (op : Nat) (h : Hdr) (p : Nat) (ho : op < 64) (hp : p < 262144) :
    payloadOf (slotWord op h p) = p := by
  rw [payloadOf, slotWord_toNat op h p ho hp]
  omega

theorem hdrOf_slotWord (op : Nat) (h : Hdr) (p : Nat) (ho : op < 64) (hp : p < 262144) :
    hdrOf (slotWord op h p) = h := by
  have h3 := h.g.isLt
  have h4 := h.land.isLt
  have e := slotWord_toNat op h p ho hp
  obtain ⟨ge, gn, g, land⟩ := h
  have h1 := Bool.toNat_le ge
  have h2 := Bool.toNat_le gn
  simp only [hdrOf, getLsbD_div, e, Hdr.mk.injEq]
  refine ⟨?_, ?_, bits_of _ _ _ ?_, bits_of _ _ _ ?_⟩
  · cases ge <;> cases gn <;> simp <;> omega
  · cases ge <;> cases gn <;> simp <;> omega
  · simp at *; omega
  · simp at *; omega

/-- A word with an OP is not the empty slot (R58). -/
theorem slotWord_ne_zero (op : Nat) (h : Hdr) (p : Nat) (h0 : 0 < op) (ho : op < 64) (hp : p < 262144) :
    slotWord op h p ≠ 0 := by
  intro hz
  have e := slotWord_toNat op h p ho hp
  rw [hz] at e
  simp at e
  omega

/-! ### Each slot's map on the encoder's words -/

variable {op : Nat} {h : Hdr} {p : Nat}

theorem rawSlot_s (h0 : 0 < op) (ho : op < 64) (hp : p < 262144) : rawSlot .s (slotWord op h p) = rawS op h p := by
  simp only [rawSlot, slotWord_ne_zero op h p h0 ho hp, if_false, opOf_slotWord op h p ho hp,
    hdrOf_slotWord op h p ho hp, payloadOf_slotWord op h p ho hp]

theorem rawSlot_v (un : VUnit) (h0 : 0 < op) (ho : op < 64) (hp : p < 262144) :
    rawSlot un.slot (slotWord op h p) = rawV un op h p := by
  cases un <;> simp only [VUnit.slot, rawSlot, slotWord_ne_zero op h p h0 ho hp, if_false, opOf_slotWord op h p ho hp,
    hdrOf_slotWord op h p ho hp, payloadOf_slotWord op h p ho hp]

theorem rawSlot_m (h0 : 0 < op) (ho : op < 64) (hp : p < 262144) : rawSlot .m (slotWord op h p) = rawM op h p := by
  simp only [rawSlot, slotWord_ne_zero op h p h0 ho hp, if_false, opOf_slotWord op h p ho hp,
    hdrOf_slotWord op h p ho hp, payloadOf_slotWord op h p ho hp]

theorem rawSlot_c (un : CUnit) (h0 : 0 < op) (ho : op < 64) (hp : p < 262144) :
    rawSlot un.slot (slotWord op h p) = rawC un op h p := by
  cases un <;> simp only [CUnit.slot, rawSlot, slotWord_ne_zero op h p h0 ho hp, if_false, opOf_slotWord op h p ho hp,
    hdrOf_slotWord op h p ho hp, payloadOf_slotWord op h p ho hp]

theorem rawSlot_x (h0 : 0 < op) (ho : op < 64) (hp : p < 262144) : rawSlot .x (slotWord op h p) = rawX op h p := by
  simp only [rawSlot, slotWord_ne_zero op h p h0 ho hp, if_false, opOf_slotWord op h p ho hp,
    hdrOf_slotWord op h p ho hp, payloadOf_slotWord op h p ho hp]

theorem rawSlot_p (h0 : 0 < op) (ho : op < 64) (hp : p < 67108864) : rawSlot .p (prefixWord op p) = rawP op p := by
  have e : (prefixWord op p).toNat = op * 67108864 + p := by
    simp only [prefixWord, BitVec.toNat_ofNat]
    omega
  have hz : prefixWord op p ≠ 0 := by
    intro hz
    rw [hz] at e
    simp at e
    omega
  have e1 : opOf (prefixWord op p) = op := by
    rw [opOf, e]
    omega
  have e2 : (prefixWord op p).toNat % 67108864 = p := by
    rw [e]
    omega
  simp only [rawSlot, hz, if_false, e1, e2]

/-! ### Bytes (R8) -/

/-- A field written in `k` bytes and read back keeps what fits, and the field takes exactly those bytes (R8). -/
theorem field_bytes : ∀ (k v : Nat), (natToBytes k v).length = k ∧ bytesToNat (natToBytes k v) = v % 256 ^ k
  | 0, v => ⟨rfl, (Nat.mod_one v).symm⟩
  | k + 1, v => by
    obtain ⟨hl, hv⟩ := field_bytes k (v / 256)
    refine ⟨congrArg Nat.succ hl, ?_⟩
    show v % 256 + 256 * bytesToNat (natToBytes k (v / 256)) = _
    rw [hv, Nat.pow_succ', Nat.mod_mul]

theorem bytesToNat_natToBytes (k v : Nat) : bytesToNat (natToBytes k v) = v % 256 ^ k := (field_bytes k v).2

@[simp] theorem natToBytes_length (k v : Nat) : (natToBytes k v).length = k := (field_bytes k v).1

/-- A field of a record laid out in front of it: the bytes before it are skipped. -/
theorem leAt_skip (a b : List Byte) (o n : Nat) (h : a.length ≤ o) : leAt (a ++ b) o n = leAt b (o - a.length) n := by
  simp [leAt, List.drop_append, List.drop_eq_nil_of_le h]

/-- A field of a record at its front. -/
theorem leAt_front (n x : Nat) (b : List Byte) : leAt (natToBytes n x ++ b) 0 n = x % 256 ^ n := by
  simp [leAt, bytesToNat_natToBytes]

/-! ### The round trip -/

/-- A field of `w` bits in bytes enough comes back whole. -/
theorem field_of {w n : Nat} (v : BitVec w) (hn : w ≤ 8 * n) : BitVec.ofNat w (v.toNat % 256 ^ n) = v := by
  apply BitVec.eq_of_toNat_eq
  have h1 := v.isLt
  have h2 : 2 ^ w ≤ 256 ^ n := by
    rw [show (256 : Nat) = 2 ^ 8 from rfl, ← Nat.pow_mul]
    exact Nat.pow_le_pow_right (by decide) hn
  rw [BitVec.toNat_ofNat, Nat.mod_eq_of_lt (a := v.toNat) (by omega), Nat.mod_eq_of_lt h1]

/-- Bytes dropped past a field drop the whole field. -/
theorem drop_field (n x o : Nat) (b : List Byte) (h : n ≤ o) : (natToBytes n x ++ b).drop o = b.drop (o - n) := by
  simp [List.drop_append, h]

/-- The fields of a message come back from its bytes (R417). -/
theorem hostMsgOf_msgBytes (t : Nat) (m : HostMsg) : hostMsgOf (msgBytes t m) = m := by
  obtain ⟨ten, len, tag, a0, a1, a2, data⟩ := m
  simp only [hostMsgOf, msgBytes, List.append_assoc, HostMsg.mk.injEq]
  refine ⟨?_, ?_, ?_, ?_, ?_, ?_, ?_⟩
  all_goals first
    | (simp only [leAt_skip, natToBytes_length, Nat.le_refl, Nat.reduceSub, Nat.reduceLeDiff, leAt_front]
       exact field_of _ (by decide))
    | simp [drop_field]

/-- The fields of a command come back from its bytes (R436). -/
theorem hostCmdOf_cmdBytes (t : Nat) (m : HostCmd) : hostCmdOf (cmdBytes t m) = m := by
  obtain ⟨ten, len, tag, rsv, data⟩ := m
  simp only [hostCmdOf, cmdBytes, List.append_assoc, HostCmd.mk.injEq]
  refine ⟨?_, ?_, ?_, ?_, ?_⟩
  all_goals first
    | (simp only [leAt_skip, natToBytes_length, Nat.le_refl, Nat.reduceSub, Nat.reduceLeDiff, leAt_front]
       exact field_of _ (by decide))
    | simp [drop_field]

theorem leAt_msgType (t : Nat) (m : HostMsg) (ht : t < 256) : leAt (msgBytes t m) 0 1 = t := by
  simp only [msgBytes, List.append_assoc, leAt_front]
  omega

theorem leAt_cmdType (t : Nat) (m : HostCmd) (ht : t < 256) : leAt (cmdBytes t m) 0 1 = t := by
  simp only [cmdBytes, List.append_assoc, leAt_front]
  omega

theorem msgBytes_length (t : Nat) (m : HostMsg) : ¬ (msgBytes t m).length < 32 := by
  simp [msgBytes]
  omega

theorem cmdBytes_length (t : Nat) (m : HostCmd) : ¬ (cmdBytes t m).length < 16 := by
  simp [cmdBytes]
  omega

end Sys2Proof.Laws
end

