-- ==== Sys2Proof/Laws/Tbl.lean ====
section
/-! SUPPORT. Laws of sparse tables and byte memories: what reads see of writes, and that every operation keeps the
canonical form. -/

namespace Sys2Proof.Machine

set_option Elab.async false

variable {α : Type}

theorem Tbl.get_filter_same (d : α) (t : Tbl α) (q : Nat) :
    Tbl.get d (t.filter (fun e => e.1 != q)) q = d := by
  induction t with
  | nil => rfl
  | cons e r ih =>
    obtain ⟨k, x⟩ := e
    by_cases h : k = q
    · simpa [List.filter_cons, h] using ih
    · have h2 : q ≠ k := fun e => h e.symm
      simpa [List.filter_cons, h, Tbl.get, h2] using ih

theorem Tbl.get_filter_other (d : α) (t : Tbl α) (q r : Nat) (h : r ≠ q) :
    Tbl.get d (t.filter (fun e => e.1 != q)) r = Tbl.get d t r := by
  induction t with
  | nil => rfl
  | cons e rest ih =>
    obtain ⟨k, x⟩ := e
    by_cases hk : k = q
    · subst hk
      simpa [List.filter_cons, Tbl.get, h] using ih
    · by_cases hr : r = k
      · simp [List.filter_cons, hk, Tbl.get, hr]
      · simpa [List.filter_cons, hk, Tbl.get, hr] using ih

theorem Tbl.get_put_same (d : α) (t : Tbl α) (q : Nat) (v : α) : Tbl.get d (Tbl.put t q v) q = v := by
  induction t with
  | nil => simp [Tbl.put, Tbl.get]
  | cons e r ih =>
    obtain ⟨k, x⟩ := e
    by_cases h1 : q < k
    · simp [Tbl.put, h1, Tbl.get]
    · by_cases h2 : q = k
      · simp [Tbl.put, h2, Tbl.get]
      · simpa [Tbl.put, h1, h2, Tbl.get] using ih

theorem Tbl.get_put_other (d : α) (t : Tbl α) (q r : Nat) (v : α) (h : r ≠ q) :
    Tbl.get d (Tbl.put t q v) r = Tbl.get d t r := by
  induction t with
  | nil => simp [Tbl.put, Tbl.get, h]
  | cons e rest ih =>
    obtain ⟨k, x⟩ := e
    by_cases h1 : q < k
    · simp [Tbl.put, h1, Tbl.get, h]
    · by_cases h2 : q = k
      · subst h2
        simp [Tbl.put, Tbl.get, h]
      · by_cases h3 : r = k
        · simp [Tbl.put, h1, h2, Tbl.get, h3]
        · simpa [Tbl.put, h1, h2, Tbl.get, h3] using ih

/-- A read of the key just written gives what was written. -/
@[simp] theorem Tbl.get_set_same [DecidableEq α] (d : α) (t : Tbl α) (q : Nat) (v : α) :
    Tbl.get d (Tbl.set d t q v) q = v := by
  by_cases h : v = d
  · subst h
    simp only [Tbl.set, if_true]
    exact Tbl.get_filter_same v t q
  · simp only [Tbl.set, h, if_false]
    exact Tbl.get_put_same d t q v

/-- A write leaves every other key alone. -/
theorem Tbl.get_set_other [DecidableEq α] (d : α) (t : Tbl α) (q r : Nat) (v : α) (h : r ≠ q) :
    Tbl.get d (Tbl.set d t q v) r = Tbl.get d t r := by
  by_cases hv : v = d
  · simp only [Tbl.set, hv, if_true]
    exact Tbl.get_filter_other d t q r h
  · simp only [Tbl.set, hv, if_false]
    exact Tbl.get_put_other d t q r v h

/-- A table's bound may be lowered. -/
theorem Tbl.above_mono [DecidableEq α] (d : α) (t : Tbl α) (a b : Nat) (hab : a ≤ b)
    (h : Tbl.above d (some b) t = true) : Tbl.above d (some a) t = true := by
  cases t with
  | nil => rfl
  | cons e r =>
    obtain ⟨k, v⟩ := e
    simp only [Tbl.above, Bool.and_eq_true, decide_eq_true_eq] at h ⊢
    exact ⟨⟨by omega, h.1.2⟩, h.2⟩

theorem Tbl.above_none [DecidableEq α] (d : α) (t : Tbl α) (a : Nat)
    (h : Tbl.above d (some a) t = true) : Tbl.above d none t = true := by
  cases t with
  | nil => rfl
  | cons e r =>
    obtain ⟨k, v⟩ := e
    simp only [Tbl.above, Bool.and_eq_true, decide_eq_true_eq] at h ⊢
    exact ⟨⟨trivial, h.1.2⟩, h.2⟩

theorem Tbl.above_put [DecidableEq α] (d : α) (t : Tbl α) (q : Nat) (v : α) (hv : v ≠ d) (b : Option Nat)
    (hb : ∀ x, b = some x → x < q) (h : Tbl.above d b t = true) : Tbl.above d b (Tbl.put t q v) = true := by
  induction t generalizing b with
  | nil =>
    cases b with
    | none => simp [Tbl.put, hv, Tbl.above]
    | some x => simp [Tbl.put, hv, Tbl.above, hb x rfl]
  | cons e r ih =>
    obtain ⟨k, x⟩ := e
    simp only [Tbl.above, Bool.and_eq_true, decide_eq_true_eq] at h
    by_cases h1 : q < k
    · simp only [Tbl.put, h1, if_true, Tbl.above, Bool.and_eq_true, decide_eq_true_eq]
      refine ⟨⟨?_, hv⟩, ⟨by simpa using h1, h.1.2⟩, h.2⟩
      cases b with
      | none => rfl
      | some y => simpa using hb y rfl
    · by_cases h2 : q = k
      · subst h2
        simp only [Tbl.put, Nat.lt_irrefl, if_false, if_true, Tbl.above, Bool.and_eq_true, decide_eq_true_eq]
        exact ⟨⟨h.1.1, hv⟩, h.2⟩
      · simp only [Tbl.put, h1, if_false, h2, Tbl.above, Bool.and_eq_true, decide_eq_true_eq]
        exact ⟨h.1, ih (some k) (fun x hx => by cases hx; omega) h.2⟩

theorem Tbl.above_filter [DecidableEq α] (d : α) (p : Nat × α → Bool) (t : Tbl α) (b : Option Nat)
    (h : Tbl.above d b t = true) : Tbl.above d b (t.filter p) = true := by
  induction t generalizing b with
  | nil => simpa using h
  | cons e r ih =>
    obtain ⟨k, x⟩ := e
    simp only [Tbl.above, Bool.and_eq_true, decide_eq_true_eq] at h
    by_cases hp : p (k, x) = true
    · simp only [List.filter_cons, hp, if_true, Tbl.above, Bool.and_eq_true, decide_eq_true_eq]
      exact ⟨h.1, ih (some k) h.2⟩
    · simp only [List.filter_cons, hp]
      apply ih
      cases b with
      | none => exact Tbl.above_none d r k h.2
      | some y =>
        have : y < k := by simpa using h.1.1
        exact Tbl.above_mono d r y k (Nat.le_of_lt this) h.2

/-- Setting an entry keeps the canonical form. -/
theorem Tbl.wf_set [DecidableEq α] (d : α) (t : Tbl α) (q : Nat) (v : α) (h : Tbl.wf d t = true) :
    Tbl.wf d (Tbl.set d t q v) = true := by
  by_cases hv : v = d
  · simp only [Tbl.set, hv, if_true]
    exact Tbl.above_filter d _ t none h
  · simp only [Tbl.set, hv, if_false]
    exact Tbl.above_put d t q v hv none (fun _ hx => by cases hx) h

/-! ### Byte memories -/

@[simp] theorem Mem.byte_setByte_same (m : Mem) (a : Nat) (b : Byte) : Mem.byte (Mem.setByte m a b) a = b :=
  Tbl.get_set_same 0 m a b

@[simp] theorem Mem.byte_setByte_other (m : Mem) (a c : Nat) (b : Byte) (h : c ≠ a) :
    Mem.byte (Mem.setByte m a b) c = Mem.byte m c := Tbl.get_set_other 0 m a c b h

theorem Mem.wf_setByte (m : Mem) (a : Nat) (b : Byte) (h : Mem.wf m = true) : Mem.wf (Mem.setByte m a b) = true :=
  Tbl.wf_set 0 m a b h

theorem Mem.wf_write (m : Mem) (a n v : Nat) (h : Mem.wf m = true) : Mem.wf (Mem.write m a n v) = true := by
  induction n generalizing m a v with
  | zero => simpa [Mem.write] using h
  | succ n ih => exact ih _ _ _ (Mem.wf_setByte m a _ h)

theorem Mem.wf_setBytes (m : Mem) (a : Nat) (bs : List Byte) (h : Mem.wf m = true) :
    Mem.wf (Mem.setBytes m a bs) = true := by
  induction bs generalizing m a with
  | nil => simpa [Mem.setBytes] using h
  | cons b bs ih => exact ih _ _ (Mem.wf_setByte m a b h)

theorem Mem.wf_clear (m : Mem) (a n : Nat) (h : Mem.wf m = true) : Mem.wf (Mem.clear m a n) = true :=
  Tbl.above_filter 0 _ m none h

/-- A store of paired bytes keeps the canonical form. -/
theorem Mem.wf_storeBytes (x : Ctx) (m : Mem) (a n v : Nat) (h : Mem.wf m = true) :
    Mem.wf (storeBytes x m a n v) = true := by
  induction n generalizing m a v with
  | zero => simpa [storeBytes] using h
  | succ n ih => exact ih _ _ _ (Mem.wf_setByte m _ _ h)

/-- A write leaves every byte outside its run alone. -/
theorem Mem.byte_write_other (m : Mem) (a n v c : Nat) (h : c < a ∨ a + n ≤ c) :
    Mem.byte (Mem.write m a n v) c = Mem.byte m c := by
  induction n generalizing m a v with
  | zero => rfl
  | succ n ih =>
    rw [Mem.write, ih _ _ _ (by omega), Mem.byte_setByte_other]
    omega

theorem Mem.byte_setBytes_other (m : Mem) (a c : Nat) (bs : List Byte) (h : c < a ∨ a + bs.length ≤ c) :
    Mem.byte (Mem.setBytes m a bs) c = Mem.byte m c := by
  induction bs generalizing m a with
  | nil => rfl
  | cons b bs ih =>
    simp only [List.length_cons] at h
    rw [Mem.setBytes, ih _ _ (by omega), Mem.byte_setByte_other]
    omega

/-- A read is that of the bytes it covers. -/
theorem Mem.read_congr (m w : Mem) (a n : Nat) (h : ∀ c, a ≤ c → c < a + n → Mem.byte m c = Mem.byte w c) :
    Mem.read m a n = Mem.read w a n := by
  induction n generalizing a with
  | zero => rfl
  | succ n ih =>
    simp only [Mem.read]
    rw [h a (Nat.le_refl _) (by omega), ih (a + 1) (fun c h1 h2 => h c (by omega) (by omega))]

theorem Mem.bytes_congr (m w : Mem) (a n : Nat) (h : ∀ c, a ≤ c → c < a + n → Mem.byte m c = Mem.byte w c) :
    Mem.bytes m a n = Mem.bytes w a n := by
  induction n generalizing a with
  | zero => rfl
  | succ n ih =>
    simp only [Mem.bytes]
    rw [h a (Nat.le_refl _) (by omega), ih (a + 1) (fun c h1 h2 => h c (by omega) (by omega))]

theorem Mem.bytes_setBytes_other (m : Mem) (a c n : Nat) (bs : List Byte) (h : c + n ≤ a ∨ a + bs.length ≤ c) :
    Mem.bytes (Mem.setBytes m a bs) c n = Mem.bytes m c n :=
  Mem.bytes_congr _ _ _ _ fun d h1 h2 => Mem.byte_setBytes_other m a d bs (by omega)

theorem Mem.read_setBytes_other (m : Mem) (a c n : Nat) (bs : List Byte) (h : c + n ≤ a ∨ a + bs.length ≤ c) :
    Mem.read (Mem.setBytes m a bs) c n = Mem.read m c n :=
  Mem.read_congr _ _ _ _ fun d h1 h2 => Mem.byte_setBytes_other m a d bs (by omega)

/-- The bytes read back are those stored. -/
theorem Mem.bytes_setBytes (m : Mem) (a : Nat) (bs : List Byte) : Mem.bytes (Mem.setBytes m a bs) a bs.length = bs := by
  induction bs generalizing m a with
  | nil => rfl
  | cons b bs ih =>
    simp only [Mem.setBytes, List.length_cons, Mem.bytes]
    rw [ih, Mem.byte_setBytes_other _ _ _ _ (by omega), Mem.byte_setByte_same]

/-- A read of a run just written gives the value written. -/
theorem Mem.read_write (m : Mem) (a n v : Nat) :
    Mem.read (Mem.write m a n v) a n = v % 256 ^ n := by
  induction n generalizing m a v with
  | zero => simp [Mem.read, Nat.mod_one]
  | succ n ih =>
    rw [Mem.write, Mem.read, Mem.byte_write_other _ _ _ _ _ (by omega), Mem.byte_setByte_same, ih]
    simp only [BitVec.toNat_ofNat]
    rw [show (2 : Nat) ^ 8 = 256 from rfl, pow_succ, Nat.mul_comm (256 ^ n) 256, Nat.mod_mul]

/-- A read sees nothing of a write elsewhere. -/
theorem Mem.read_write_other (m : Mem) (a n v c k : Nat) (h : c + k ≤ a ∨ a + n ≤ c) :
    Mem.read (Mem.write m a n v) c k = Mem.read m c k := by
  induction k generalizing c with
  | zero => rfl
  | succ k ih =>
    simp only [Mem.read]
    rw [Mem.byte_write_other _ _ _ _ _ (by omega), ih (c + 1) (by omega)]

theorem Mem.wf_reset : Mem.wf State.reset.mem = true := rfl
theorem Mem.wf_reset_host : Mem.wf State.reset.hostMem = true := rfl

end Sys2Proof.Machine
end

