-- ==== Sys2Proof/Laws/State.lean ====
section
/-! SUPPORT. What each update of the part leaves of every field: one lemma per field and update, and what each numbered
family reads after an update of it. -/

namespace Sys2Proof.Machine

set_option Elab.async false

/-! ### setIss -/

@[simp] theorem State.setIss_cores (s : State) (l : Latch) : (s.setIss l).cores = s.cores := rfl
@[simp] theorem State.setIss_focus (s : State) (l : Latch) : (s.setIss l).focus = s.focus := rfl
@[simp] theorem State.setIss_cx (s : State) (l : Latch) : (s.setIss l).cx = s.cx := rfl
@[simp] theorem State.setIss_agenda (s : State) (l : Latch) : (s.setIss l).agenda = s.agenda := rfl
@[simp] theorem State.setIss_mem (s : State) (l : Latch) : (s.setIss l).mem = s.mem := rfl
@[simp] theorem State.setIss_lineErr (s : State) (l : Latch) : (s.setIss l).lineErr = s.lineErr := rfl
@[simp] theorem State.setIss_tags (s : State) (l : Latch) : (s.setIss l).tags = s.tags := rfl
@[simp] theorem State.setIss_frameGeo (s : State) (l : Latch) : (s.setIss l).frameGeo = s.frameGeo := rfl
@[simp] theorem State.setIss_rel (s : State) (l : Latch) : (s.setIss l).rel = s.rel := rfl
@[simp] theorem State.setIss_unripe (s : State) (l : Latch) : (s.setIss l).unripe = s.unripe := rfl
@[simp] theorem State.setIss_lastW (s : State) (l : Latch) : (s.setIss l).lastW = s.lastW := rfl
@[simp] theorem State.setIss_agentSeen (s : State) (l : Latch) : (s.setIss l).agentSeen = s.agentSeen := rfl
@[simp] theorem State.setIss_counts (s : State) (l : Latch) : (s.setIss l).counts = s.counts := rfl
@[simp] theorem State.setIss_dies (s : State) (l : Latch) : (s.setIss l).dies = s.dies := rfl
@[simp] theorem State.setIss_stripes (s : State) (l : Latch) : (s.setIss l).stripes = s.stripes := rfl
@[simp] theorem State.setIss_geot (s : State) (l : Latch) : (s.setIss l).geot = s.geot := rfl
@[simp] theorem State.setIss_gangs (s : State) (l : Latch) : (s.setIss l).gangs = s.gangs := rfl
@[simp] theorem State.setIss_nextGang (s : State) (l : Latch) : (s.setIss l).nextGang = s.nextGang := rfl
@[simp] theorem State.setIss_tenants (s : State) (l : Latch) : (s.setIss l).tenants = s.tenants := rfl
@[simp] theorem State.setIss_queues (s : State) (l : Latch) : (s.setIss l).queues = s.queues := rfl
@[simp] theorem State.setIss_dtq (s : State) (l : Latch) : (s.setIss l).dtq = s.dtq := rfl
@[simp] theorem State.setIss_dtc (s : State) (l : Latch) : (s.setIss l).dtc = s.dtc := rfl
@[simp] theorem State.setIss_rcls (s : State) (l : Latch) : (s.setIss l).rcls = s.rcls := rfl
@[simp] theorem State.setIss_dtqBad (s : State) (l : Latch) : (s.setIss l).dtqBad = s.dtqBad := rfl
@[simp] theorem State.setIss_dtqIn (s : State) (l : Latch) : (s.setIss l).dtqIn = s.dtqIn := rfl
@[simp] theorem State.setIss_dtcIn (s : State) (l : Latch) : (s.setIss l).dtcIn = s.dtcIn := rfl
@[simp] theorem State.setIss_rclsIn (s : State) (l : Latch) : (s.setIss l).rclsIn = s.rclsIn := rfl
@[simp] theorem State.setIss_dtqNew (s : State) (l : Latch) : (s.setIss l).dtqNew = s.dtqNew := rfl
@[simp] theorem State.setIss_roomFor (s : State) (l : Latch) : (s.setIss l).roomFor = s.roomFor := rfl
@[simp] theorem State.setIss_vpass (s : State) (l : Latch) : (s.setIss l).vpass = s.vpass := rfl
@[simp] theorem State.setIss_hostMem (s : State) (l : Latch) : (s.setIss l).hostMem = s.hostMem := rfl
@[simp] theorem State.setIss_replies (s : State) (l : Latch) : (s.setIss l).replies = s.replies := rfl
@[simp] theorem State.setIss_cmdReplies (s : State) (l : Latch) : (s.setIss l).cmdReplies = s.cmdReplies := rfl
@[simp] theorem State.setIss_nodeId (s : State) (l : Latch) : (s.setIss l).nodeId = s.nodeId := rfl
@[simp] theorem State.setIss_ports (s : State) (l : Latch) : (s.setIss l).ports = s.ports := rfl
@[simp] theorem State.setIss_mods (s : State) (l : Latch) : (s.setIss l).mods = s.mods := rfl
@[simp] theorem State.setIss_peers (s : State) (l : Latch) : (s.setIss l).peers = s.peers := rfl
@[simp] theorem State.setIss_farStrands (s : State) (l : Latch) : (s.setIss l).farStrands = s.farStrands := rfl
@[simp] theorem State.setIss_farColls (s : State) (l : Latch) : (s.setIss l).farColls = s.farColls := rfl
@[simp] theorem State.setIss_dieMap (s : State) (l : Latch) : (s.setIss l).dieMap = s.dieMap := rfl
@[simp] theorem State.setIss_failed (s : State) (l : Latch) : (s.setIss l).failed = s.failed := rfl
@[simp] theorem State.setIss_sites (s : State) (l : Latch) : (s.setIss l).sites = s.sites := rfl
@[simp] theorem State.setIss_tileMap (s : State) (l : Latch) : (s.setIss l).tileMap = s.tileMap := rfl
@[simp] theorem State.setIss_tilesUsed (s : State) (l : Latch) : (s.setIss l).tilesUsed = s.tilesUsed := rfl
@[simp] theorem State.setIss_keys (s : State) (l : Latch) : (s.setIss l).keys = s.keys := rfl
@[simp] theorem State.setIss_image (s : State) (l : Latch) : (s.setIss l).image = s.image := rfl
@[simp] theorem State.setIss_booted (s : State) (l : Latch) : (s.setIss l).booted = s.booted := rfl
@[simp] theorem State.setIss_svn (s : State) (l : Latch) : (s.setIss l).svn = s.svn := rfl
@[simp] theorem State.setIss_minSvn (s : State) (l : Latch) : (s.setIss l).minSvn = s.minSvn := rfl
@[simp] theorem State.setIss_lcs (s : State) (l : Latch) : (s.setIss l).lcs = s.lcs := rfl
@[simp] theorem State.setIss_fuses (s : State) (l : Latch) : (s.setIss l).fuses = s.fuses := rfl
@[simp] theorem State.setIss_dbg (s : State) (l : Latch) : (s.setIss l).dbg = s.dbg := rfl
@[simp] theorem State.setIss_meas (s : State) (l : Latch) : (s.setIss l).meas = s.meas := rfl
@[simp] theorem State.setIss_chal (s : State) (l : Latch) : (s.setIss l).chal = s.chal := rfl
@[simp] theorem State.setIss_scrbPer (s : State) (l : Latch) : (s.setIss l).scrbPer = s.scrbPer := rfl
@[simp] theorem State.setIss_scrbEn (s : State) (l : Latch) : (s.setIss l).scrbEn = s.scrbEn := rfl
@[simp] theorem State.setIss_scrbPass (s : State) (l : Latch) : (s.setIss l).scrbPass = s.scrbPass := rfl
@[simp] theorem State.setIss_scrubPos (s : State) (l : Latch) : (s.setIss l).scrubPos = s.scrubPos := rfl
@[simp] theorem State.setIss_rowsMoved (s : State) (l : Latch) : (s.setIss l).rowsMoved = s.rowsMoved := rfl
@[simp] theorem State.setIss_chanMoved (s : State) (l : Latch) : (s.setIss l).chanMoved = s.chanMoved := rfl
@[simp] theorem State.setIss_retired (s : State) (l : Latch) : (s.setIss l).retired = s.retired := rfl
@[simp] theorem State.setIss_flagged (s : State) (l : Latch) : (s.setIss l).flagged = s.flagged := rfl
@[simp] theorem State.setIss_rowErrs (s : State) (l : Latch) : (s.setIss l).rowErrs = s.rowErrs := rfl
@[simp] theorem State.setIss_sramErrs (s : State) (l : Latch) : (s.setIss l).sramErrs = s.sramErrs := rfl
@[simp] theorem State.setIss_demand (s : State) (l : Latch) : (s.setIss l).demand = s.demand := rfl
@[simp] theorem State.setIss_logRing (s : State) (l : Latch) : (s.setIss l).logRing = s.logRing := rfl
@[simp] theorem State.setIss_logSeq (s : State) (l : Latch) : (s.setIss l).logSeq = s.logSeq := rfl
@[simp] theorem State.setIss_logDrop (s : State) (l : Latch) : (s.setIss l).logDrop = s.logDrop := rfl
@[simp] theorem State.setIss_powered (s : State) (l : Latch) : (s.setIss l).powered = s.powered := rfl
@[simp] theorem State.setIss_plim (s : State) (l : Latch) : (s.setIss l).plim = s.plim := rfl
@[simp] theorem State.setIss_tlim (s : State) (l : Latch) : (s.setIss l).tlim = s.tlim := rfl
@[simp] theorem State.setIss_temp (s : State) (l : Latch) : (s.setIss l).temp = s.temp := rfl
@[simp] theorem State.setIss_watts (s : State) (l : Latch) : (s.setIss l).watts = s.watts := rfl
@[simp] theorem State.setIss_thermal (s : State) (l : Latch) : (s.setIss l).thermal = s.thermal := rfl
@[simp] theorem State.setIss_dbgOut (s : State) (l : Latch) : (s.setIss l).dbgOut = s.dbgOut := rfl
@[simp] theorem State.setIss_freeN (s : State) (l : Latch) : (s.setIss l).freeN = s.freeN := rfl

/-! ### setCore -/

@[simp] theorem State.setCore_focus (s : State) (c : Nat) (k : Core) : (s.setCore c k).focus = s.focus := rfl
@[simp] theorem State.setCore_cx (s : State) (c : Nat) (k : Core) : (s.setCore c k).cx = s.cx := rfl
@[simp] theorem State.setCore_iss (s : State) (c : Nat) (k : Core) : (s.setCore c k).iss = s.iss := rfl
@[simp] theorem State.setCore_agenda (s : State) (c : Nat) (k : Core) : (s.setCore c k).agenda = s.agenda := rfl
@[simp] theorem State.setCore_mem (s : State) (c : Nat) (k : Core) : (s.setCore c k).mem = s.mem := rfl
@[simp] theorem State.setCore_lineErr (s : State) (c : Nat) (k : Core) : (s.setCore c k).lineErr = s.lineErr := rfl
@[simp] theorem State.setCore_tags (s : State) (c : Nat) (k : Core) : (s.setCore c k).tags = s.tags := rfl
@[simp] theorem State.setCore_frameGeo (s : State) (c : Nat) (k : Core) : (s.setCore c k).frameGeo = s.frameGeo := rfl
@[simp] theorem State.setCore_rel (s : State) (c : Nat) (k : Core) : (s.setCore c k).rel = s.rel := rfl
@[simp] theorem State.setCore_unripe (s : State) (c : Nat) (k : Core) : (s.setCore c k).unripe = s.unripe := rfl
@[simp] theorem State.setCore_lastW (s : State) (c : Nat) (k : Core) : (s.setCore c k).lastW = s.lastW := rfl
@[simp] theorem State.setCore_agentSeen (s : State) (c : Nat) (k : Core) : (s.setCore c k).agentSeen = s.agentSeen := rfl
@[simp] theorem State.setCore_counts (s : State) (c : Nat) (k : Core) : (s.setCore c k).counts = s.counts := rfl
@[simp] theorem State.setCore_dies (s : State) (c : Nat) (k : Core) : (s.setCore c k).dies = s.dies := rfl
@[simp] theorem State.setCore_stripes (s : State) (c : Nat) (k : Core) : (s.setCore c k).stripes = s.stripes := rfl
@[simp] theorem State.setCore_geot (s : State) (c : Nat) (k : Core) : (s.setCore c k).geot = s.geot := rfl
@[simp] theorem State.setCore_gangs (s : State) (c : Nat) (k : Core) : (s.setCore c k).gangs = s.gangs := rfl
@[simp] theorem State.setCore_nextGang (s : State) (c : Nat) (k : Core) : (s.setCore c k).nextGang = s.nextGang := rfl
@[simp] theorem State.setCore_tenants (s : State) (c : Nat) (k : Core) : (s.setCore c k).tenants = s.tenants := rfl
@[simp] theorem State.setCore_queues (s : State) (c : Nat) (k : Core) : (s.setCore c k).queues = s.queues := rfl
@[simp] theorem State.setCore_dtq (s : State) (c : Nat) (k : Core) : (s.setCore c k).dtq = s.dtq := rfl
@[simp] theorem State.setCore_dtc (s : State) (c : Nat) (k : Core) : (s.setCore c k).dtc = s.dtc := rfl
@[simp] theorem State.setCore_rcls (s : State) (c : Nat) (k : Core) : (s.setCore c k).rcls = s.rcls := rfl
@[simp] theorem State.setCore_dtqBad (s : State) (c : Nat) (k : Core) : (s.setCore c k).dtqBad = s.dtqBad := rfl
@[simp] theorem State.setCore_dtqIn (s : State) (c : Nat) (k : Core) : (s.setCore c k).dtqIn = s.dtqIn := rfl
@[simp] theorem State.setCore_dtcIn (s : State) (c : Nat) (k : Core) : (s.setCore c k).dtcIn = s.dtcIn := rfl
@[simp] theorem State.setCore_rclsIn (s : State) (c : Nat) (k : Core) : (s.setCore c k).rclsIn = s.rclsIn := rfl
@[simp] theorem State.setCore_dtqNew (s : State) (c : Nat) (k : Core) : (s.setCore c k).dtqNew = s.dtqNew := rfl
@[simp] theorem State.setCore_roomFor (s : State) (c : Nat) (k : Core) : (s.setCore c k).roomFor = s.roomFor := rfl
@[simp] theorem State.setCore_vpass (s : State) (c : Nat) (k : Core) : (s.setCore c k).vpass = s.vpass := rfl
@[simp] theorem State.setCore_hostMem (s : State) (c : Nat) (k : Core) : (s.setCore c k).hostMem = s.hostMem := rfl
@[simp] theorem State.setCore_replies (s : State) (c : Nat) (k : Core) : (s.setCore c k).replies = s.replies := rfl
@[simp] theorem State.setCore_cmdReplies (s : State) (c : Nat) (k : Core) : (s.setCore c k).cmdReplies = s.cmdReplies := rfl
@[simp] theorem State.setCore_nodeId (s : State) (c : Nat) (k : Core) : (s.setCore c k).nodeId = s.nodeId := rfl
@[simp] theorem State.setCore_ports (s : State) (c : Nat) (k : Core) : (s.setCore c k).ports = s.ports := rfl
@[simp] theorem State.setCore_mods (s : State) (c : Nat) (k : Core) : (s.setCore c k).mods = s.mods := rfl
@[simp] theorem State.setCore_peers (s : State) (c : Nat) (k : Core) : (s.setCore c k).peers = s.peers := rfl
@[simp] theorem State.setCore_farStrands (s : State) (c : Nat) (k : Core) : (s.setCore c k).farStrands = s.farStrands := rfl
@[simp] theorem State.setCore_farColls (s : State) (c : Nat) (k : Core) : (s.setCore c k).farColls = s.farColls := rfl
@[simp] theorem State.setCore_dieMap (s : State) (c : Nat) (k : Core) : (s.setCore c k).dieMap = s.dieMap := rfl
@[simp] theorem State.setCore_failed (s : State) (c : Nat) (k : Core) : (s.setCore c k).failed = s.failed := rfl
@[simp] theorem State.setCore_sites (s : State) (c : Nat) (k : Core) : (s.setCore c k).sites = s.sites := rfl
@[simp] theorem State.setCore_tileMap (s : State) (c : Nat) (k : Core) : (s.setCore c k).tileMap = s.tileMap := rfl
@[simp] theorem State.setCore_tilesUsed (s : State) (c : Nat) (k : Core) : (s.setCore c k).tilesUsed = s.tilesUsed := rfl
@[simp] theorem State.setCore_keys (s : State) (c : Nat) (k : Core) : (s.setCore c k).keys = s.keys := rfl
@[simp] theorem State.setCore_image (s : State) (c : Nat) (k : Core) : (s.setCore c k).image = s.image := rfl
@[simp] theorem State.setCore_booted (s : State) (c : Nat) (k : Core) : (s.setCore c k).booted = s.booted := rfl
@[simp] theorem State.setCore_svn (s : State) (c : Nat) (k : Core) : (s.setCore c k).svn = s.svn := rfl
@[simp] theorem State.setCore_minSvn (s : State) (c : Nat) (k : Core) : (s.setCore c k).minSvn = s.minSvn := rfl
@[simp] theorem State.setCore_lcs (s : State) (c : Nat) (k : Core) : (s.setCore c k).lcs = s.lcs := rfl
@[simp] theorem State.setCore_fuses (s : State) (c : Nat) (k : Core) : (s.setCore c k).fuses = s.fuses := rfl
@[simp] theorem State.setCore_dbg (s : State) (c : Nat) (k : Core) : (s.setCore c k).dbg = s.dbg := rfl
@[simp] theorem State.setCore_meas (s : State) (c : Nat) (k : Core) : (s.setCore c k).meas = s.meas := rfl
@[simp] theorem State.setCore_chal (s : State) (c : Nat) (k : Core) : (s.setCore c k).chal = s.chal := rfl
@[simp] theorem State.setCore_scrbPer (s : State) (c : Nat) (k : Core) : (s.setCore c k).scrbPer = s.scrbPer := rfl
@[simp] theorem State.setCore_scrbEn (s : State) (c : Nat) (k : Core) : (s.setCore c k).scrbEn = s.scrbEn := rfl
@[simp] theorem State.setCore_scrbPass (s : State) (c : Nat) (k : Core) : (s.setCore c k).scrbPass = s.scrbPass := rfl
@[simp] theorem State.setCore_scrubPos (s : State) (c : Nat) (k : Core) : (s.setCore c k).scrubPos = s.scrubPos := rfl
@[simp] theorem State.setCore_rowsMoved (s : State) (c : Nat) (k : Core) : (s.setCore c k).rowsMoved = s.rowsMoved := rfl
@[simp] theorem State.setCore_chanMoved (s : State) (c : Nat) (k : Core) : (s.setCore c k).chanMoved = s.chanMoved := rfl
@[simp] theorem State.setCore_retired (s : State) (c : Nat) (k : Core) : (s.setCore c k).retired = s.retired := rfl
@[simp] theorem State.setCore_flagged (s : State) (c : Nat) (k : Core) : (s.setCore c k).flagged = s.flagged := rfl
@[simp] theorem State.setCore_rowErrs (s : State) (c : Nat) (k : Core) : (s.setCore c k).rowErrs = s.rowErrs := rfl
@[simp] theorem State.setCore_sramErrs (s : State) (c : Nat) (k : Core) : (s.setCore c k).sramErrs = s.sramErrs := rfl
@[simp] theorem State.setCore_demand (s : State) (c : Nat) (k : Core) : (s.setCore c k).demand = s.demand := rfl
@[simp] theorem State.setCore_logRing (s : State) (c : Nat) (k : Core) : (s.setCore c k).logRing = s.logRing := rfl
@[simp] theorem State.setCore_logSeq (s : State) (c : Nat) (k : Core) : (s.setCore c k).logSeq = s.logSeq := rfl
@[simp] theorem State.setCore_logDrop (s : State) (c : Nat) (k : Core) : (s.setCore c k).logDrop = s.logDrop := rfl
@[simp] theorem State.setCore_powered (s : State) (c : Nat) (k : Core) : (s.setCore c k).powered = s.powered := rfl
@[simp] theorem State.setCore_plim (s : State) (c : Nat) (k : Core) : (s.setCore c k).plim = s.plim := rfl
@[simp] theorem State.setCore_tlim (s : State) (c : Nat) (k : Core) : (s.setCore c k).tlim = s.tlim := rfl
@[simp] theorem State.setCore_temp (s : State) (c : Nat) (k : Core) : (s.setCore c k).temp = s.temp := rfl
@[simp] theorem State.setCore_watts (s : State) (c : Nat) (k : Core) : (s.setCore c k).watts = s.watts := rfl
@[simp] theorem State.setCore_thermal (s : State) (c : Nat) (k : Core) : (s.setCore c k).thermal = s.thermal := rfl
@[simp] theorem State.setCore_dbgOut (s : State) (c : Nat) (k : Core) : (s.setCore c k).dbgOut = s.dbgOut := rfl
@[simp] theorem State.setCore_freeN (s : State) (c : Nat) (k : Core) : (s.setCore c k).freeN = s.freeN := rfl

/-! ### setKore -/

@[simp] theorem State.setKore_focus (s : State) (k : Core) : (s.setKore k).focus = s.focus := rfl
@[simp] theorem State.setKore_cx (s : State) (k : Core) : (s.setKore k).cx = s.cx := rfl
@[simp] theorem State.setKore_iss (s : State) (k : Core) : (s.setKore k).iss = s.iss := rfl
@[simp] theorem State.setKore_agenda (s : State) (k : Core) : (s.setKore k).agenda = s.agenda := rfl
@[simp] theorem State.setKore_mem (s : State) (k : Core) : (s.setKore k).mem = s.mem := rfl
@[simp] theorem State.setKore_lineErr (s : State) (k : Core) : (s.setKore k).lineErr = s.lineErr := rfl
@[simp] theorem State.setKore_tags (s : State) (k : Core) : (s.setKore k).tags = s.tags := rfl
@[simp] theorem State.setKore_frameGeo (s : State) (k : Core) : (s.setKore k).frameGeo = s.frameGeo := rfl
@[simp] theorem State.setKore_rel (s : State) (k : Core) : (s.setKore k).rel = s.rel := rfl
@[simp] theorem State.setKore_unripe (s : State) (k : Core) : (s.setKore k).unripe = s.unripe := rfl
@[simp] theorem State.setKore_lastW (s : State) (k : Core) : (s.setKore k).lastW = s.lastW := rfl
@[simp] theorem State.setKore_agentSeen (s : State) (k : Core) : (s.setKore k).agentSeen = s.agentSeen := rfl
@[simp] theorem State.setKore_counts (s : State) (k : Core) : (s.setKore k).counts = s.counts := rfl
@[simp] theorem State.setKore_dies (s : State) (k : Core) : (s.setKore k).dies = s.dies := rfl
@[simp] theorem State.setKore_stripes (s : State) (k : Core) : (s.setKore k).stripes = s.stripes := rfl
@[simp] theorem State.setKore_geot (s : State) (k : Core) : (s.setKore k).geot = s.geot := rfl
@[simp] theorem State.setKore_gangs (s : State) (k : Core) : (s.setKore k).gangs = s.gangs := rfl
@[simp] theorem State.setKore_nextGang (s : State) (k : Core) : (s.setKore k).nextGang = s.nextGang := rfl
@[simp] theorem State.setKore_tenants (s : State) (k : Core) : (s.setKore k).tenants = s.tenants := rfl
@[simp] theorem State.setKore_queues (s : State) (k : Core) : (s.setKore k).queues = s.queues := rfl
@[simp] theorem State.setKore_dtq (s : State) (k : Core) : (s.setKore k).dtq = s.dtq := rfl
@[simp] theorem State.setKore_dtc (s : State) (k : Core) : (s.setKore k).dtc = s.dtc := rfl
@[simp] theorem State.setKore_rcls (s : State) (k : Core) : (s.setKore k).rcls = s.rcls := rfl
@[simp] theorem State.setKore_dtqBad (s : State) (k : Core) : (s.setKore k).dtqBad = s.dtqBad := rfl
@[simp] theorem State.setKore_dtqIn (s : State) (k : Core) : (s.setKore k).dtqIn = s.dtqIn := rfl
@[simp] theorem State.setKore_dtcIn (s : State) (k : Core) : (s.setKore k).dtcIn = s.dtcIn := rfl
@[simp] theorem State.setKore_rclsIn (s : State) (k : Core) : (s.setKore k).rclsIn = s.rclsIn := rfl
@[simp] theorem State.setKore_dtqNew (s : State) (k : Core) : (s.setKore k).dtqNew = s.dtqNew := rfl
@[simp] theorem State.setKore_roomFor (s : State) (k : Core) : (s.setKore k).roomFor = s.roomFor := rfl
@[simp] theorem State.setKore_vpass (s : State) (k : Core) : (s.setKore k).vpass = s.vpass := rfl
@[simp] theorem State.setKore_hostMem (s : State) (k : Core) : (s.setKore k).hostMem = s.hostMem := rfl
@[simp] theorem State.setKore_replies (s : State) (k : Core) : (s.setKore k).replies = s.replies := rfl
@[simp] theorem State.setKore_cmdReplies (s : State) (k : Core) : (s.setKore k).cmdReplies = s.cmdReplies := rfl
@[simp] theorem State.setKore_nodeId (s : State) (k : Core) : (s.setKore k).nodeId = s.nodeId := rfl
@[simp] theorem State.setKore_ports (s : State) (k : Core) : (s.setKore k).ports = s.ports := rfl
@[simp] theorem State.setKore_mods (s : State) (k : Core) : (s.setKore k).mods = s.mods := rfl
@[simp] theorem State.setKore_peers (s : State) (k : Core) : (s.setKore k).peers = s.peers := rfl
@[simp] theorem State.setKore_farStrands (s : State) (k : Core) : (s.setKore k).farStrands = s.farStrands := rfl
@[simp] theorem State.setKore_farColls (s : State) (k : Core) : (s.setKore k).farColls = s.farColls := rfl
@[simp] theorem State.setKore_dieMap (s : State) (k : Core) : (s.setKore k).dieMap = s.dieMap := rfl
@[simp] theorem State.setKore_failed (s : State) (k : Core) : (s.setKore k).failed = s.failed := rfl
@[simp] theorem State.setKore_sites (s : State) (k : Core) : (s.setKore k).sites = s.sites := rfl
@[simp] theorem State.setKore_tileMap (s : State) (k : Core) : (s.setKore k).tileMap = s.tileMap := rfl
@[simp] theorem State.setKore_tilesUsed (s : State) (k : Core) : (s.setKore k).tilesUsed = s.tilesUsed := rfl
@[simp] theorem State.setKore_keys (s : State) (k : Core) : (s.setKore k).keys = s.keys := rfl
@[simp] theorem State.setKore_image (s : State) (k : Core) : (s.setKore k).image = s.image := rfl
@[simp] theorem State.setKore_booted (s : State) (k : Core) : (s.setKore k).booted = s.booted := rfl
@[simp] theorem State.setKore_svn (s : State) (k : Core) : (s.setKore k).svn = s.svn := rfl
@[simp] theorem State.setKore_minSvn (s : State) (k : Core) : (s.setKore k).minSvn = s.minSvn := rfl
@[simp] theorem State.setKore_lcs (s : State) (k : Core) : (s.setKore k).lcs = s.lcs := rfl
@[simp] theorem State.setKore_fuses (s : State) (k : Core) : (s.setKore k).fuses = s.fuses := rfl
@[simp] theorem State.setKore_dbg (s : State) (k : Core) : (s.setKore k).dbg = s.dbg := rfl
@[simp] theorem State.setKore_meas (s : State) (k : Core) : (s.setKore k).meas = s.meas := rfl
@[simp] theorem State.setKore_chal (s : State) (k : Core) : (s.setKore k).chal = s.chal := rfl
@[simp] theorem State.setKore_scrbPer (s : State) (k : Core) : (s.setKore k).scrbPer = s.scrbPer := rfl
@[simp] theorem State.setKore_scrbEn (s : State) (k : Core) : (s.setKore k).scrbEn = s.scrbEn := rfl
@[simp] theorem State.setKore_scrbPass (s : State) (k : Core) : (s.setKore k).scrbPass = s.scrbPass := rfl
@[simp] theorem State.setKore_scrubPos (s : State) (k : Core) : (s.setKore k).scrubPos = s.scrubPos := rfl
@[simp] theorem State.setKore_rowsMoved (s : State) (k : Core) : (s.setKore k).rowsMoved = s.rowsMoved := rfl
@[simp] theorem State.setKore_chanMoved (s : State) (k : Core) : (s.setKore k).chanMoved = s.chanMoved := rfl
@[simp] theorem State.setKore_retired (s : State) (k : Core) : (s.setKore k).retired = s.retired := rfl
@[simp] theorem State.setKore_flagged (s : State) (k : Core) : (s.setKore k).flagged = s.flagged := rfl
@[simp] theorem State.setKore_rowErrs (s : State) (k : Core) : (s.setKore k).rowErrs = s.rowErrs := rfl
@[simp] theorem State.setKore_sramErrs (s : State) (k : Core) : (s.setKore k).sramErrs = s.sramErrs := rfl
@[simp] theorem State.setKore_demand (s : State) (k : Core) : (s.setKore k).demand = s.demand := rfl
@[simp] theorem State.setKore_logRing (s : State) (k : Core) : (s.setKore k).logRing = s.logRing := rfl
@[simp] theorem State.setKore_logSeq (s : State) (k : Core) : (s.setKore k).logSeq = s.logSeq := rfl
@[simp] theorem State.setKore_logDrop (s : State) (k : Core) : (s.setKore k).logDrop = s.logDrop := rfl
@[simp] theorem State.setKore_powered (s : State) (k : Core) : (s.setKore k).powered = s.powered := rfl
@[simp] theorem State.setKore_plim (s : State) (k : Core) : (s.setKore k).plim = s.plim := rfl
@[simp] theorem State.setKore_tlim (s : State) (k : Core) : (s.setKore k).tlim = s.tlim := rfl
@[simp] theorem State.setKore_temp (s : State) (k : Core) : (s.setKore k).temp = s.temp := rfl
@[simp] theorem State.setKore_watts (s : State) (k : Core) : (s.setKore k).watts = s.watts := rfl
@[simp] theorem State.setKore_thermal (s : State) (k : Core) : (s.setKore k).thermal = s.thermal := rfl
@[simp] theorem State.setKore_dbgOut (s : State) (k : Core) : (s.setKore k).dbgOut = s.dbgOut := rfl
@[simp] theorem State.setKore_freeN (s : State) (k : Core) : (s.setKore k).freeN = s.freeN := rfl

/-! ### setMe -/

@[simp] theorem State.setMe_focus (s : State) (x : Ctx) : (s.setMe x).focus = s.focus := rfl
@[simp] theorem State.setMe_cx (s : State) (x : Ctx) : (s.setMe x).cx = s.cx := rfl
@[simp] theorem State.setMe_iss (s : State) (x : Ctx) : (s.setMe x).iss = s.iss := rfl
@[simp] theorem State.setMe_agenda (s : State) (x : Ctx) : (s.setMe x).agenda = s.agenda := rfl
@[simp] theorem State.setMe_mem (s : State) (x : Ctx) : (s.setMe x).mem = s.mem := rfl
@[simp] theorem State.setMe_lineErr (s : State) (x : Ctx) : (s.setMe x).lineErr = s.lineErr := rfl
@[simp] theorem State.setMe_tags (s : State) (x : Ctx) : (s.setMe x).tags = s.tags := rfl
@[simp] theorem State.setMe_frameGeo (s : State) (x : Ctx) : (s.setMe x).frameGeo = s.frameGeo := rfl
@[simp] theorem State.setMe_rel (s : State) (x : Ctx) : (s.setMe x).rel = s.rel := rfl
@[simp] theorem State.setMe_unripe (s : State) (x : Ctx) : (s.setMe x).unripe = s.unripe := rfl
@[simp] theorem State.setMe_lastW (s : State) (x : Ctx) : (s.setMe x).lastW = s.lastW := rfl
@[simp] theorem State.setMe_agentSeen (s : State) (x : Ctx) : (s.setMe x).agentSeen = s.agentSeen := rfl
@[simp] theorem State.setMe_counts (s : State) (x : Ctx) : (s.setMe x).counts = s.counts := rfl
@[simp] theorem State.setMe_dies (s : State) (x : Ctx) : (s.setMe x).dies = s.dies := rfl
@[simp] theorem State.setMe_stripes (s : State) (x : Ctx) : (s.setMe x).stripes = s.stripes := rfl
@[simp] theorem State.setMe_geot (s : State) (x : Ctx) : (s.setMe x).geot = s.geot := rfl
@[simp] theorem State.setMe_gangs (s : State) (x : Ctx) : (s.setMe x).gangs = s.gangs := rfl
@[simp] theorem State.setMe_nextGang (s : State) (x : Ctx) : (s.setMe x).nextGang = s.nextGang := rfl
@[simp] theorem State.setMe_tenants (s : State) (x : Ctx) : (s.setMe x).tenants = s.tenants := rfl
@[simp] theorem State.setMe_queues (s : State) (x : Ctx) : (s.setMe x).queues = s.queues := rfl
@[simp] theorem State.setMe_dtq (s : State) (x : Ctx) : (s.setMe x).dtq = s.dtq := rfl
@[simp] theorem State.setMe_dtc (s : State) (x : Ctx) : (s.setMe x).dtc = s.dtc := rfl
@[simp] theorem State.setMe_rcls (s : State) (x : Ctx) : (s.setMe x).rcls = s.rcls := rfl
@[simp] theorem State.setMe_dtqBad (s : State) (x : Ctx) : (s.setMe x).dtqBad = s.dtqBad := rfl
@[simp] theorem State.setMe_dtqIn (s : State) (x : Ctx) : (s.setMe x).dtqIn = s.dtqIn := rfl
@[simp] theorem State.setMe_dtcIn (s : State) (x : Ctx) : (s.setMe x).dtcIn = s.dtcIn := rfl
@[simp] theorem State.setMe_rclsIn (s : State) (x : Ctx) : (s.setMe x).rclsIn = s.rclsIn := rfl
@[simp] theorem State.setMe_dtqNew (s : State) (x : Ctx) : (s.setMe x).dtqNew = s.dtqNew := rfl
@[simp] theorem State.setMe_roomFor (s : State) (x : Ctx) : (s.setMe x).roomFor = s.roomFor := rfl
@[simp] theorem State.setMe_vpass (s : State) (x : Ctx) : (s.setMe x).vpass = s.vpass := rfl
@[simp] theorem State.setMe_hostMem (s : State) (x : Ctx) : (s.setMe x).hostMem = s.hostMem := rfl
@[simp] theorem State.setMe_replies (s : State) (x : Ctx) : (s.setMe x).replies = s.replies := rfl
@[simp] theorem State.setMe_cmdReplies (s : State) (x : Ctx) : (s.setMe x).cmdReplies = s.cmdReplies := rfl
@[simp] theorem State.setMe_nodeId (s : State) (x : Ctx) : (s.setMe x).nodeId = s.nodeId := rfl
@[simp] theorem State.setMe_ports (s : State) (x : Ctx) : (s.setMe x).ports = s.ports := rfl
@[simp] theorem State.setMe_mods (s : State) (x : Ctx) : (s.setMe x).mods = s.mods := rfl
@[simp] theorem State.setMe_peers (s : State) (x : Ctx) : (s.setMe x).peers = s.peers := rfl
@[simp] theorem State.setMe_farStrands (s : State) (x : Ctx) : (s.setMe x).farStrands = s.farStrands := rfl
@[simp] theorem State.setMe_farColls (s : State) (x : Ctx) : (s.setMe x).farColls = s.farColls := rfl
@[simp] theorem State.setMe_dieMap (s : State) (x : Ctx) : (s.setMe x).dieMap = s.dieMap := rfl
@[simp] theorem State.setMe_failed (s : State) (x : Ctx) : (s.setMe x).failed = s.failed := rfl
@[simp] theorem State.setMe_sites (s : State) (x : Ctx) : (s.setMe x).sites = s.sites := rfl
@[simp] theorem State.setMe_tileMap (s : State) (x : Ctx) : (s.setMe x).tileMap = s.tileMap := rfl
@[simp] theorem State.setMe_tilesUsed (s : State) (x : Ctx) : (s.setMe x).tilesUsed = s.tilesUsed := rfl
@[simp] theorem State.setMe_keys (s : State) (x : Ctx) : (s.setMe x).keys = s.keys := rfl
@[simp] theorem State.setMe_image (s : State) (x : Ctx) : (s.setMe x).image = s.image := rfl
@[simp] theorem State.setMe_booted (s : State) (x : Ctx) : (s.setMe x).booted = s.booted := rfl
@[simp] theorem State.setMe_svn (s : State) (x : Ctx) : (s.setMe x).svn = s.svn := rfl
@[simp] theorem State.setMe_minSvn (s : State) (x : Ctx) : (s.setMe x).minSvn = s.minSvn := rfl
@[simp] theorem State.setMe_lcs (s : State) (x : Ctx) : (s.setMe x).lcs = s.lcs := rfl
@[simp] theorem State.setMe_fuses (s : State) (x : Ctx) : (s.setMe x).fuses = s.fuses := rfl
@[simp] theorem State.setMe_dbg (s : State) (x : Ctx) : (s.setMe x).dbg = s.dbg := rfl
@[simp] theorem State.setMe_meas (s : State) (x : Ctx) : (s.setMe x).meas = s.meas := rfl
@[simp] theorem State.setMe_chal (s : State) (x : Ctx) : (s.setMe x).chal = s.chal := rfl
@[simp] theorem State.setMe_scrbPer (s : State) (x : Ctx) : (s.setMe x).scrbPer = s.scrbPer := rfl
@[simp] theorem State.setMe_scrbEn (s : State) (x : Ctx) : (s.setMe x).scrbEn = s.scrbEn := rfl
@[simp] theorem State.setMe_scrbPass (s : State) (x : Ctx) : (s.setMe x).scrbPass = s.scrbPass := rfl
@[simp] theorem State.setMe_scrubPos (s : State) (x : Ctx) : (s.setMe x).scrubPos = s.scrubPos := rfl
@[simp] theorem State.setMe_rowsMoved (s : State) (x : Ctx) : (s.setMe x).rowsMoved = s.rowsMoved := rfl
@[simp] theorem State.setMe_chanMoved (s : State) (x : Ctx) : (s.setMe x).chanMoved = s.chanMoved := rfl
@[simp] theorem State.setMe_retired (s : State) (x : Ctx) : (s.setMe x).retired = s.retired := rfl
@[simp] theorem State.setMe_flagged (s : State) (x : Ctx) : (s.setMe x).flagged = s.flagged := rfl
@[simp] theorem State.setMe_rowErrs (s : State) (x : Ctx) : (s.setMe x).rowErrs = s.rowErrs := rfl
@[simp] theorem State.setMe_sramErrs (s : State) (x : Ctx) : (s.setMe x).sramErrs = s.sramErrs := rfl
@[simp] theorem State.setMe_demand (s : State) (x : Ctx) : (s.setMe x).demand = s.demand := rfl
@[simp] theorem State.setMe_logRing (s : State) (x : Ctx) : (s.setMe x).logRing = s.logRing := rfl
@[simp] theorem State.setMe_logSeq (s : State) (x : Ctx) : (s.setMe x).logSeq = s.logSeq := rfl
@[simp] theorem State.setMe_logDrop (s : State) (x : Ctx) : (s.setMe x).logDrop = s.logDrop := rfl
@[simp] theorem State.setMe_powered (s : State) (x : Ctx) : (s.setMe x).powered = s.powered := rfl
@[simp] theorem State.setMe_plim (s : State) (x : Ctx) : (s.setMe x).plim = s.plim := rfl
@[simp] theorem State.setMe_tlim (s : State) (x : Ctx) : (s.setMe x).tlim = s.tlim := rfl
@[simp] theorem State.setMe_temp (s : State) (x : Ctx) : (s.setMe x).temp = s.temp := rfl
@[simp] theorem State.setMe_watts (s : State) (x : Ctx) : (s.setMe x).watts = s.watts := rfl
@[simp] theorem State.setMe_thermal (s : State) (x : Ctx) : (s.setMe x).thermal = s.thermal := rfl
@[simp] theorem State.setMe_dbgOut (s : State) (x : Ctx) : (s.setMe x).dbgOut = s.dbgOut := rfl
@[simp] theorem State.setMe_freeN (s : State) (x : Ctx) : (s.setMe x).freeN = s.freeN := rfl

/-! ### setStrand -/

@[simp] theorem State.setStrand_focus (s : State) (x : Ctx) : (s.setStrand x).focus = s.focus := rfl
@[simp] theorem State.setStrand_cx (s : State) (x : Ctx) : (s.setStrand x).cx = s.cx := rfl
@[simp] theorem State.setStrand_iss (s : State) (x : Ctx) : (s.setStrand x).iss = s.iss := rfl
@[simp] theorem State.setStrand_agenda (s : State) (x : Ctx) : (s.setStrand x).agenda = s.agenda := rfl
@[simp] theorem State.setStrand_mem (s : State) (x : Ctx) : (s.setStrand x).mem = s.mem := rfl
@[simp] theorem State.setStrand_lineErr (s : State) (x : Ctx) : (s.setStrand x).lineErr = s.lineErr := rfl
@[simp] theorem State.setStrand_tags (s : State) (x : Ctx) : (s.setStrand x).tags = s.tags := rfl
@[simp] theorem State.setStrand_frameGeo (s : State) (x : Ctx) : (s.setStrand x).frameGeo = s.frameGeo := rfl
@[simp] theorem State.setStrand_rel (s : State) (x : Ctx) : (s.setStrand x).rel = s.rel := rfl
@[simp] theorem State.setStrand_unripe (s : State) (x : Ctx) : (s.setStrand x).unripe = s.unripe := rfl
@[simp] theorem State.setStrand_lastW (s : State) (x : Ctx) : (s.setStrand x).lastW = s.lastW := rfl
@[simp] theorem State.setStrand_agentSeen (s : State) (x : Ctx) : (s.setStrand x).agentSeen = s.agentSeen := rfl
@[simp] theorem State.setStrand_counts (s : State) (x : Ctx) : (s.setStrand x).counts = s.counts := rfl
@[simp] theorem State.setStrand_dies (s : State) (x : Ctx) : (s.setStrand x).dies = s.dies := rfl
@[simp] theorem State.setStrand_stripes (s : State) (x : Ctx) : (s.setStrand x).stripes = s.stripes := rfl
@[simp] theorem State.setStrand_geot (s : State) (x : Ctx) : (s.setStrand x).geot = s.geot := rfl
@[simp] theorem State.setStrand_gangs (s : State) (x : Ctx) : (s.setStrand x).gangs = s.gangs := rfl
@[simp] theorem State.setStrand_nextGang (s : State) (x : Ctx) : (s.setStrand x).nextGang = s.nextGang := rfl
@[simp] theorem State.setStrand_tenants (s : State) (x : Ctx) : (s.setStrand x).tenants = s.tenants := rfl
@[simp] theorem State.setStrand_queues (s : State) (x : Ctx) : (s.setStrand x).queues = s.queues := rfl
@[simp] theorem State.setStrand_dtq (s : State) (x : Ctx) : (s.setStrand x).dtq = s.dtq := rfl
@[simp] theorem State.setStrand_dtc (s : State) (x : Ctx) : (s.setStrand x).dtc = s.dtc := rfl
@[simp] theorem State.setStrand_rcls (s : State) (x : Ctx) : (s.setStrand x).rcls = s.rcls := rfl
@[simp] theorem State.setStrand_dtqBad (s : State) (x : Ctx) : (s.setStrand x).dtqBad = s.dtqBad := rfl
@[simp] theorem State.setStrand_dtqIn (s : State) (x : Ctx) : (s.setStrand x).dtqIn = s.dtqIn := rfl
@[simp] theorem State.setStrand_dtcIn (s : State) (x : Ctx) : (s.setStrand x).dtcIn = s.dtcIn := rfl
@[simp] theorem State.setStrand_rclsIn (s : State) (x : Ctx) : (s.setStrand x).rclsIn = s.rclsIn := rfl
@[simp] theorem State.setStrand_dtqNew (s : State) (x : Ctx) : (s.setStrand x).dtqNew = s.dtqNew := rfl
@[simp] theorem State.setStrand_roomFor (s : State) (x : Ctx) : (s.setStrand x).roomFor = s.roomFor := rfl
@[simp] theorem State.setStrand_vpass (s : State) (x : Ctx) : (s.setStrand x).vpass = s.vpass := rfl
@[simp] theorem State.setStrand_hostMem (s : State) (x : Ctx) : (s.setStrand x).hostMem = s.hostMem := rfl
@[simp] theorem State.setStrand_replies (s : State) (x : Ctx) : (s.setStrand x).replies = s.replies := rfl
@[simp] theorem State.setStrand_cmdReplies (s : State) (x : Ctx) : (s.setStrand x).cmdReplies = s.cmdReplies := rfl
@[simp] theorem State.setStrand_nodeId (s : State) (x : Ctx) : (s.setStrand x).nodeId = s.nodeId := rfl
@[simp] theorem State.setStrand_ports (s : State) (x : Ctx) : (s.setStrand x).ports = s.ports := rfl
@[simp] theorem State.setStrand_mods (s : State) (x : Ctx) : (s.setStrand x).mods = s.mods := rfl
@[simp] theorem State.setStrand_peers (s : State) (x : Ctx) : (s.setStrand x).peers = s.peers := rfl
@[simp] theorem State.setStrand_farStrands (s : State) (x : Ctx) : (s.setStrand x).farStrands = s.farStrands := rfl
@[simp] theorem State.setStrand_farColls (s : State) (x : Ctx) : (s.setStrand x).farColls = s.farColls := rfl
@[simp] theorem State.setStrand_dieMap (s : State) (x : Ctx) : (s.setStrand x).dieMap = s.dieMap := rfl
@[simp] theorem State.setStrand_failed (s : State) (x : Ctx) : (s.setStrand x).failed = s.failed := rfl
@[simp] theorem State.setStrand_sites (s : State) (x : Ctx) : (s.setStrand x).sites = s.sites := rfl
@[simp] theorem State.setStrand_tileMap (s : State) (x : Ctx) : (s.setStrand x).tileMap = s.tileMap := rfl
@[simp] theorem State.setStrand_tilesUsed (s : State) (x : Ctx) : (s.setStrand x).tilesUsed = s.tilesUsed := rfl
@[simp] theorem State.setStrand_keys (s : State) (x : Ctx) : (s.setStrand x).keys = s.keys := rfl
@[simp] theorem State.setStrand_image (s : State) (x : Ctx) : (s.setStrand x).image = s.image := rfl
@[simp] theorem State.setStrand_booted (s : State) (x : Ctx) : (s.setStrand x).booted = s.booted := rfl
@[simp] theorem State.setStrand_svn (s : State) (x : Ctx) : (s.setStrand x).svn = s.svn := rfl
@[simp] theorem State.setStrand_minSvn (s : State) (x : Ctx) : (s.setStrand x).minSvn = s.minSvn := rfl
@[simp] theorem State.setStrand_lcs (s : State) (x : Ctx) : (s.setStrand x).lcs = s.lcs := rfl
@[simp] theorem State.setStrand_fuses (s : State) (x : Ctx) : (s.setStrand x).fuses = s.fuses := rfl
@[simp] theorem State.setStrand_dbg (s : State) (x : Ctx) : (s.setStrand x).dbg = s.dbg := rfl
@[simp] theorem State.setStrand_meas (s : State) (x : Ctx) : (s.setStrand x).meas = s.meas := rfl
@[simp] theorem State.setStrand_chal (s : State) (x : Ctx) : (s.setStrand x).chal = s.chal := rfl
@[simp] theorem State.setStrand_scrbPer (s : State) (x : Ctx) : (s.setStrand x).scrbPer = s.scrbPer := rfl
@[simp] theorem State.setStrand_scrbEn (s : State) (x : Ctx) : (s.setStrand x).scrbEn = s.scrbEn := rfl
@[simp] theorem State.setStrand_scrbPass (s : State) (x : Ctx) : (s.setStrand x).scrbPass = s.scrbPass := rfl
@[simp] theorem State.setStrand_scrubPos (s : State) (x : Ctx) : (s.setStrand x).scrubPos = s.scrubPos := rfl
@[simp] theorem State.setStrand_rowsMoved (s : State) (x : Ctx) : (s.setStrand x).rowsMoved = s.rowsMoved := rfl
@[simp] theorem State.setStrand_chanMoved (s : State) (x : Ctx) : (s.setStrand x).chanMoved = s.chanMoved := rfl
@[simp] theorem State.setStrand_retired (s : State) (x : Ctx) : (s.setStrand x).retired = s.retired := rfl
@[simp] theorem State.setStrand_flagged (s : State) (x : Ctx) : (s.setStrand x).flagged = s.flagged := rfl
@[simp] theorem State.setStrand_rowErrs (s : State) (x : Ctx) : (s.setStrand x).rowErrs = s.rowErrs := rfl
@[simp] theorem State.setStrand_sramErrs (s : State) (x : Ctx) : (s.setStrand x).sramErrs = s.sramErrs := rfl
@[simp] theorem State.setStrand_demand (s : State) (x : Ctx) : (s.setStrand x).demand = s.demand := rfl
@[simp] theorem State.setStrand_logRing (s : State) (x : Ctx) : (s.setStrand x).logRing = s.logRing := rfl
@[simp] theorem State.setStrand_logSeq (s : State) (x : Ctx) : (s.setStrand x).logSeq = s.logSeq := rfl
@[simp] theorem State.setStrand_logDrop (s : State) (x : Ctx) : (s.setStrand x).logDrop = s.logDrop := rfl
@[simp] theorem State.setStrand_powered (s : State) (x : Ctx) : (s.setStrand x).powered = s.powered := rfl
@[simp] theorem State.setStrand_plim (s : State) (x : Ctx) : (s.setStrand x).plim = s.plim := rfl
@[simp] theorem State.setStrand_tlim (s : State) (x : Ctx) : (s.setStrand x).tlim = s.tlim := rfl
@[simp] theorem State.setStrand_temp (s : State) (x : Ctx) : (s.setStrand x).temp = s.temp := rfl
@[simp] theorem State.setStrand_watts (s : State) (x : Ctx) : (s.setStrand x).watts = s.watts := rfl
@[simp] theorem State.setStrand_thermal (s : State) (x : Ctx) : (s.setStrand x).thermal = s.thermal := rfl
@[simp] theorem State.setStrand_dbgOut (s : State) (x : Ctx) : (s.setStrand x).dbgOut = s.dbgOut := rfl
@[simp] theorem State.setStrand_freeN (s : State) (x : Ctx) : (s.setStrand x).freeN = s.freeN := rfl

/-! ### setCtxAt -/

@[simp] theorem State.setCtxAt_focus (s : State) (c : Nat) (cx : CtxId) (x : Ctx) : (s.setCtxAt c cx x).focus = s.focus := rfl
@[simp] theorem State.setCtxAt_cx (s : State) (c : Nat) (cx : CtxId) (x : Ctx) : (s.setCtxAt c cx x).cx = s.cx := rfl
@[simp] theorem State.setCtxAt_iss (s : State) (c : Nat) (cx : CtxId) (x : Ctx) : (s.setCtxAt c cx x).iss = s.iss := rfl
@[simp] theorem State.setCtxAt_agenda (s : State) (c : Nat) (cx : CtxId) (x : Ctx) : (s.setCtxAt c cx x).agenda = s.agenda := rfl
@[simp] theorem State.setCtxAt_mem (s : State) (c : Nat) (cx : CtxId) (x : Ctx) : (s.setCtxAt c cx x).mem = s.mem := rfl
@[simp] theorem State.setCtxAt_lineErr (s : State) (c : Nat) (cx : CtxId) (x : Ctx) : (s.setCtxAt c cx x).lineErr = s.lineErr := rfl
@[simp] theorem State.setCtxAt_tags (s : State) (c : Nat) (cx : CtxId) (x : Ctx) : (s.setCtxAt c cx x).tags = s.tags := rfl
@[simp] theorem State.setCtxAt_frameGeo (s : State) (c : Nat) (cx : CtxId) (x : Ctx) : (s.setCtxAt c cx x).frameGeo = s.frameGeo := rfl
@[simp] theorem State.setCtxAt_rel (s : State) (c : Nat) (cx : CtxId) (x : Ctx) : (s.setCtxAt c cx x).rel = s.rel := rfl
@[simp] theorem State.setCtxAt_unripe (s : State) (c : Nat) (cx : CtxId) (x : Ctx) : (s.setCtxAt c cx x).unripe = s.unripe := rfl
@[simp] theorem State.setCtxAt_lastW (s : State) (c : Nat) (cx : CtxId) (x : Ctx) : (s.setCtxAt c cx x).lastW = s.lastW := rfl
@[simp] theorem State.setCtxAt_agentSeen (s : State) (c : Nat) (cx : CtxId) (x : Ctx) : (s.setCtxAt c cx x).agentSeen = s.agentSeen := rfl
@[simp] theorem State.setCtxAt_counts (s : State) (c : Nat) (cx : CtxId) (x : Ctx) : (s.setCtxAt c cx x).counts = s.counts := rfl
@[simp] theorem State.setCtxAt_dies (s : State) (c : Nat) (cx : CtxId) (x : Ctx) : (s.setCtxAt c cx x).dies = s.dies := rfl
@[simp] theorem State.setCtxAt_stripes (s : State) (c : Nat) (cx : CtxId) (x : Ctx) : (s.setCtxAt c cx x).stripes = s.stripes := rfl
@[simp] theorem State.setCtxAt_geot (s : State) (c : Nat) (cx : CtxId) (x : Ctx) : (s.setCtxAt c cx x).geot = s.geot := rfl
@[simp] theorem State.setCtxAt_gangs (s : State) (c : Nat) (cx : CtxId) (x : Ctx) : (s.setCtxAt c cx x).gangs = s.gangs := rfl
@[simp] theorem State.setCtxAt_nextGang (s : State) (c : Nat) (cx : CtxId) (x : Ctx) : (s.setCtxAt c cx x).nextGang = s.nextGang := rfl
@[simp] theorem State.setCtxAt_tenants (s : State) (c : Nat) (cx : CtxId) (x : Ctx) : (s.setCtxAt c cx x).tenants = s.tenants := rfl
@[simp] theorem State.setCtxAt_queues (s : State) (c : Nat) (cx : CtxId) (x : Ctx) : (s.setCtxAt c cx x).queues = s.queues := rfl
@[simp] theorem State.setCtxAt_dtq (s : State) (c : Nat) (cx : CtxId) (x : Ctx) : (s.setCtxAt c cx x).dtq = s.dtq := rfl
@[simp] theorem State.setCtxAt_dtc (s : State) (c : Nat) (cx : CtxId) (x : Ctx) : (s.setCtxAt c cx x).dtc = s.dtc := rfl
@[simp] theorem State.setCtxAt_rcls (s : State) (c : Nat) (cx : CtxId) (x : Ctx) : (s.setCtxAt c cx x).rcls = s.rcls := rfl
@[simp] theorem State.setCtxAt_dtqBad (s : State) (c : Nat) (cx : CtxId) (x : Ctx) : (s.setCtxAt c cx x).dtqBad = s.dtqBad := rfl
@[simp] theorem State.setCtxAt_dtqIn (s : State) (c : Nat) (cx : CtxId) (x : Ctx) : (s.setCtxAt c cx x).dtqIn = s.dtqIn := rfl
@[simp] theorem State.setCtxAt_dtcIn (s : State) (c : Nat) (cx : CtxId) (x : Ctx) : (s.setCtxAt c cx x).dtcIn = s.dtcIn := rfl
@[simp] theorem State.setCtxAt_rclsIn (s : State) (c : Nat) (cx : CtxId) (x : Ctx) : (s.setCtxAt c cx x).rclsIn = s.rclsIn := rfl
@[simp] theorem State.setCtxAt_dtqNew (s : State) (c : Nat) (cx : CtxId) (x : Ctx) : (s.setCtxAt c cx x).dtqNew = s.dtqNew := rfl
@[simp] theorem State.setCtxAt_roomFor (s : State) (c : Nat) (cx : CtxId) (x : Ctx) : (s.setCtxAt c cx x).roomFor = s.roomFor := rfl
@[simp] theorem State.setCtxAt_vpass (s : State) (c : Nat) (cx : CtxId) (x : Ctx) : (s.setCtxAt c cx x).vpass = s.vpass := rfl
@[simp] theorem State.setCtxAt_hostMem (s : State) (c : Nat) (cx : CtxId) (x : Ctx) : (s.setCtxAt c cx x).hostMem = s.hostMem := rfl
@[simp] theorem State.setCtxAt_replies (s : State) (c : Nat) (cx : CtxId) (x : Ctx) : (s.setCtxAt c cx x).replies = s.replies := rfl
@[simp] theorem State.setCtxAt_cmdReplies (s : State) (c : Nat) (cx : CtxId) (x : Ctx) : (s.setCtxAt c cx x).cmdReplies = s.cmdReplies := rfl
@[simp] theorem State.setCtxAt_nodeId (s : State) (c : Nat) (cx : CtxId) (x : Ctx) : (s.setCtxAt c cx x).nodeId = s.nodeId := rfl
@[simp] theorem State.setCtxAt_ports (s : State) (c : Nat) (cx : CtxId) (x : Ctx) : (s.setCtxAt c cx x).ports = s.ports := rfl
@[simp] theorem State.setCtxAt_mods (s : State) (c : Nat) (cx : CtxId) (x : Ctx) : (s.setCtxAt c cx x).mods = s.mods := rfl
@[simp] theorem State.setCtxAt_peers (s : State) (c : Nat) (cx : CtxId) (x : Ctx) : (s.setCtxAt c cx x).peers = s.peers := rfl
@[simp] theorem State.setCtxAt_farStrands (s : State) (c : Nat) (cx : CtxId) (x : Ctx) : (s.setCtxAt c cx x).farStrands = s.farStrands := rfl
@[simp] theorem State.setCtxAt_farColls (s : State) (c : Nat) (cx : CtxId) (x : Ctx) : (s.setCtxAt c cx x).farColls = s.farColls := rfl
@[simp] theorem State.setCtxAt_dieMap (s : State) (c : Nat) (cx : CtxId) (x : Ctx) : (s.setCtxAt c cx x).dieMap = s.dieMap := rfl
@[simp] theorem State.setCtxAt_failed (s : State) (c : Nat) (cx : CtxId) (x : Ctx) : (s.setCtxAt c cx x).failed = s.failed := rfl
@[simp] theorem State.setCtxAt_sites (s : State) (c : Nat) (cx : CtxId) (x : Ctx) : (s.setCtxAt c cx x).sites = s.sites := rfl
@[simp] theorem State.setCtxAt_tileMap (s : State) (c : Nat) (cx : CtxId) (x : Ctx) : (s.setCtxAt c cx x).tileMap = s.tileMap := rfl
@[simp] theorem State.setCtxAt_tilesUsed (s : State) (c : Nat) (cx : CtxId) (x : Ctx) : (s.setCtxAt c cx x).tilesUsed = s.tilesUsed := rfl
@[simp] theorem State.setCtxAt_keys (s : State) (c : Nat) (cx : CtxId) (x : Ctx) : (s.setCtxAt c cx x).keys = s.keys := rfl
@[simp] theorem State.setCtxAt_image (s : State) (c : Nat) (cx : CtxId) (x : Ctx) : (s.setCtxAt c cx x).image = s.image := rfl
@[simp] theorem State.setCtxAt_booted (s : State) (c : Nat) (cx : CtxId) (x : Ctx) : (s.setCtxAt c cx x).booted = s.booted := rfl
@[simp] theorem State.setCtxAt_svn (s : State) (c : Nat) (cx : CtxId) (x : Ctx) : (s.setCtxAt c cx x).svn = s.svn := rfl
@[simp] theorem State.setCtxAt_minSvn (s : State) (c : Nat) (cx : CtxId) (x : Ctx) : (s.setCtxAt c cx x).minSvn = s.minSvn := rfl
@[simp] theorem State.setCtxAt_lcs (s : State) (c : Nat) (cx : CtxId) (x : Ctx) : (s.setCtxAt c cx x).lcs = s.lcs := rfl
@[simp] theorem State.setCtxAt_fuses (s : State) (c : Nat) (cx : CtxId) (x : Ctx) : (s.setCtxAt c cx x).fuses = s.fuses := rfl
@[simp] theorem State.setCtxAt_dbg (s : State) (c : Nat) (cx : CtxId) (x : Ctx) : (s.setCtxAt c cx x).dbg = s.dbg := rfl
@[simp] theorem State.setCtxAt_meas (s : State) (c : Nat) (cx : CtxId) (x : Ctx) : (s.setCtxAt c cx x).meas = s.meas := rfl
@[simp] theorem State.setCtxAt_chal (s : State) (c : Nat) (cx : CtxId) (x : Ctx) : (s.setCtxAt c cx x).chal = s.chal := rfl
@[simp] theorem State.setCtxAt_scrbPer (s : State) (c : Nat) (cx : CtxId) (x : Ctx) : (s.setCtxAt c cx x).scrbPer = s.scrbPer := rfl
@[simp] theorem State.setCtxAt_scrbEn (s : State) (c : Nat) (cx : CtxId) (x : Ctx) : (s.setCtxAt c cx x).scrbEn = s.scrbEn := rfl
@[simp] theorem State.setCtxAt_scrbPass (s : State) (c : Nat) (cx : CtxId) (x : Ctx) : (s.setCtxAt c cx x).scrbPass = s.scrbPass := rfl
@[simp] theorem State.setCtxAt_scrubPos (s : State) (c : Nat) (cx : CtxId) (x : Ctx) : (s.setCtxAt c cx x).scrubPos = s.scrubPos := rfl
@[simp] theorem State.setCtxAt_rowsMoved (s : State) (c : Nat) (cx : CtxId) (x : Ctx) : (s.setCtxAt c cx x).rowsMoved = s.rowsMoved := rfl
@[simp] theorem State.setCtxAt_chanMoved (s : State) (c : Nat) (cx : CtxId) (x : Ctx) : (s.setCtxAt c cx x).chanMoved = s.chanMoved := rfl
@[simp] theorem State.setCtxAt_retired (s : State) (c : Nat) (cx : CtxId) (x : Ctx) : (s.setCtxAt c cx x).retired = s.retired := rfl
@[simp] theorem State.setCtxAt_flagged (s : State) (c : Nat) (cx : CtxId) (x : Ctx) : (s.setCtxAt c cx x).flagged = s.flagged := rfl
@[simp] theorem State.setCtxAt_rowErrs (s : State) (c : Nat) (cx : CtxId) (x : Ctx) : (s.setCtxAt c cx x).rowErrs = s.rowErrs := rfl
@[simp] theorem State.setCtxAt_sramErrs (s : State) (c : Nat) (cx : CtxId) (x : Ctx) : (s.setCtxAt c cx x).sramErrs = s.sramErrs := rfl
@[simp] theorem State.setCtxAt_demand (s : State) (c : Nat) (cx : CtxId) (x : Ctx) : (s.setCtxAt c cx x).demand = s.demand := rfl
@[simp] theorem State.setCtxAt_logRing (s : State) (c : Nat) (cx : CtxId) (x : Ctx) : (s.setCtxAt c cx x).logRing = s.logRing := rfl
@[simp] theorem State.setCtxAt_logSeq (s : State) (c : Nat) (cx : CtxId) (x : Ctx) : (s.setCtxAt c cx x).logSeq = s.logSeq := rfl
@[simp] theorem State.setCtxAt_logDrop (s : State) (c : Nat) (cx : CtxId) (x : Ctx) : (s.setCtxAt c cx x).logDrop = s.logDrop := rfl
@[simp] theorem State.setCtxAt_powered (s : State) (c : Nat) (cx : CtxId) (x : Ctx) : (s.setCtxAt c cx x).powered = s.powered := rfl
@[simp] theorem State.setCtxAt_plim (s : State) (c : Nat) (cx : CtxId) (x : Ctx) : (s.setCtxAt c cx x).plim = s.plim := rfl
@[simp] theorem State.setCtxAt_tlim (s : State) (c : Nat) (cx : CtxId) (x : Ctx) : (s.setCtxAt c cx x).tlim = s.tlim := rfl
@[simp] theorem State.setCtxAt_temp (s : State) (c : Nat) (cx : CtxId) (x : Ctx) : (s.setCtxAt c cx x).temp = s.temp := rfl
@[simp] theorem State.setCtxAt_watts (s : State) (c : Nat) (cx : CtxId) (x : Ctx) : (s.setCtxAt c cx x).watts = s.watts := rfl
@[simp] theorem State.setCtxAt_thermal (s : State) (c : Nat) (cx : CtxId) (x : Ctx) : (s.setCtxAt c cx x).thermal = s.thermal := rfl
@[simp] theorem State.setCtxAt_dbgOut (s : State) (c : Nat) (cx : CtxId) (x : Ctx) : (s.setCtxAt c cx x).dbgOut = s.dbgOut := rfl
@[simp] theorem State.setCtxAt_freeN (s : State) (c : Nat) (cx : CtxId) (x : Ctx) : (s.setCtxAt c cx x).freeN = s.freeN := rfl

/-! ### setGang -/

@[simp] theorem State.setGang_cores (s : State) (g : Nat) (x : Gang) : (s.setGang g x).cores = s.cores := rfl
@[simp] theorem State.setGang_focus (s : State) (g : Nat) (x : Gang) : (s.setGang g x).focus = s.focus := rfl
@[simp] theorem State.setGang_cx (s : State) (g : Nat) (x : Gang) : (s.setGang g x).cx = s.cx := rfl
@[simp] theorem State.setGang_iss (s : State) (g : Nat) (x : Gang) : (s.setGang g x).iss = s.iss := rfl
@[simp] theorem State.setGang_agenda (s : State) (g : Nat) (x : Gang) : (s.setGang g x).agenda = s.agenda := rfl
@[simp] theorem State.setGang_mem (s : State) (g : Nat) (x : Gang) : (s.setGang g x).mem = s.mem := rfl
@[simp] theorem State.setGang_lineErr (s : State) (g : Nat) (x : Gang) : (s.setGang g x).lineErr = s.lineErr := rfl
@[simp] theorem State.setGang_tags (s : State) (g : Nat) (x : Gang) : (s.setGang g x).tags = s.tags := rfl
@[simp] theorem State.setGang_frameGeo (s : State) (g : Nat) (x : Gang) : (s.setGang g x).frameGeo = s.frameGeo := rfl
@[simp] theorem State.setGang_rel (s : State) (g : Nat) (x : Gang) : (s.setGang g x).rel = s.rel := rfl
@[simp] theorem State.setGang_unripe (s : State) (g : Nat) (x : Gang) : (s.setGang g x).unripe = s.unripe := rfl
@[simp] theorem State.setGang_lastW (s : State) (g : Nat) (x : Gang) : (s.setGang g x).lastW = s.lastW := rfl
@[simp] theorem State.setGang_agentSeen (s : State) (g : Nat) (x : Gang) : (s.setGang g x).agentSeen = s.agentSeen := rfl
@[simp] theorem State.setGang_counts (s : State) (g : Nat) (x : Gang) : (s.setGang g x).counts = s.counts := rfl
@[simp] theorem State.setGang_dies (s : State) (g : Nat) (x : Gang) : (s.setGang g x).dies = s.dies := rfl
@[simp] theorem State.setGang_stripes (s : State) (g : Nat) (x : Gang) : (s.setGang g x).stripes = s.stripes := rfl
@[simp] theorem State.setGang_geot (s : State) (g : Nat) (x : Gang) : (s.setGang g x).geot = s.geot := rfl
@[simp] theorem State.setGang_nextGang (s : State) (g : Nat) (x : Gang) : (s.setGang g x).nextGang = s.nextGang := rfl
@[simp] theorem State.setGang_tenants (s : State) (g : Nat) (x : Gang) : (s.setGang g x).tenants = s.tenants := rfl
@[simp] theorem State.setGang_queues (s : State) (g : Nat) (x : Gang) : (s.setGang g x).queues = s.queues := rfl
@[simp] theorem State.setGang_dtq (s : State) (g : Nat) (x : Gang) : (s.setGang g x).dtq = s.dtq := rfl
@[simp] theorem State.setGang_dtc (s : State) (g : Nat) (x : Gang) : (s.setGang g x).dtc = s.dtc := rfl
@[simp] theorem State.setGang_rcls (s : State) (g : Nat) (x : Gang) : (s.setGang g x).rcls = s.rcls := rfl
@[simp] theorem State.setGang_dtqBad (s : State) (g : Nat) (x : Gang) : (s.setGang g x).dtqBad = s.dtqBad := rfl
@[simp] theorem State.setGang_dtqIn (s : State) (g : Nat) (x : Gang) : (s.setGang g x).dtqIn = s.dtqIn := rfl
@[simp] theorem State.setGang_dtcIn (s : State) (g : Nat) (x : Gang) : (s.setGang g x).dtcIn = s.dtcIn := rfl
@[simp] theorem State.setGang_rclsIn (s : State) (g : Nat) (x : Gang) : (s.setGang g x).rclsIn = s.rclsIn := rfl
@[simp] theorem State.setGang_dtqNew (s : State) (g : Nat) (x : Gang) : (s.setGang g x).dtqNew = s.dtqNew := rfl
@[simp] theorem State.setGang_roomFor (s : State) (g : Nat) (x : Gang) : (s.setGang g x).roomFor = s.roomFor := rfl
@[simp] theorem State.setGang_vpass (s : State) (g : Nat) (x : Gang) : (s.setGang g x).vpass = s.vpass := rfl
@[simp] theorem State.setGang_hostMem (s : State) (g : Nat) (x : Gang) : (s.setGang g x).hostMem = s.hostMem := rfl
@[simp] theorem State.setGang_replies (s : State) (g : Nat) (x : Gang) : (s.setGang g x).replies = s.replies := rfl
@[simp] theorem State.setGang_cmdReplies (s : State) (g : Nat) (x : Gang) : (s.setGang g x).cmdReplies = s.cmdReplies := rfl
@[simp] theorem State.setGang_nodeId (s : State) (g : Nat) (x : Gang) : (s.setGang g x).nodeId = s.nodeId := rfl
@[simp] theorem State.setGang_ports (s : State) (g : Nat) (x : Gang) : (s.setGang g x).ports = s.ports := rfl
@[simp] theorem State.setGang_mods (s : State) (g : Nat) (x : Gang) : (s.setGang g x).mods = s.mods := rfl
@[simp] theorem State.setGang_peers (s : State) (g : Nat) (x : Gang) : (s.setGang g x).peers = s.peers := rfl
@[simp] theorem State.setGang_farStrands (s : State) (g : Nat) (x : Gang) : (s.setGang g x).farStrands = s.farStrands := rfl
@[simp] theorem State.setGang_farColls (s : State) (g : Nat) (x : Gang) : (s.setGang g x).farColls = s.farColls := rfl
@[simp] theorem State.setGang_dieMap (s : State) (g : Nat) (x : Gang) : (s.setGang g x).dieMap = s.dieMap := rfl
@[simp] theorem State.setGang_failed (s : State) (g : Nat) (x : Gang) : (s.setGang g x).failed = s.failed := rfl
@[simp] theorem State.setGang_sites (s : State) (g : Nat) (x : Gang) : (s.setGang g x).sites = s.sites := rfl
@[simp] theorem State.setGang_tileMap (s : State) (g : Nat) (x : Gang) : (s.setGang g x).tileMap = s.tileMap := rfl
@[simp] theorem State.setGang_tilesUsed (s : State) (g : Nat) (x : Gang) : (s.setGang g x).tilesUsed = s.tilesUsed := rfl
@[simp] theorem State.setGang_keys (s : State) (g : Nat) (x : Gang) : (s.setGang g x).keys = s.keys := rfl
@[simp] theorem State.setGang_image (s : State) (g : Nat) (x : Gang) : (s.setGang g x).image = s.image := rfl
@[simp] theorem State.setGang_booted (s : State) (g : Nat) (x : Gang) : (s.setGang g x).booted = s.booted := rfl
@[simp] theorem State.setGang_svn (s : State) (g : Nat) (x : Gang) : (s.setGang g x).svn = s.svn := rfl
@[simp] theorem State.setGang_minSvn (s : State) (g : Nat) (x : Gang) : (s.setGang g x).minSvn = s.minSvn := rfl
@[simp] theorem State.setGang_lcs (s : State) (g : Nat) (x : Gang) : (s.setGang g x).lcs = s.lcs := rfl
@[simp] theorem State.setGang_fuses (s : State) (g : Nat) (x : Gang) : (s.setGang g x).fuses = s.fuses := rfl
@[simp] theorem State.setGang_dbg (s : State) (g : Nat) (x : Gang) : (s.setGang g x).dbg = s.dbg := rfl
@[simp] theorem State.setGang_meas (s : State) (g : Nat) (x : Gang) : (s.setGang g x).meas = s.meas := rfl
@[simp] theorem State.setGang_chal (s : State) (g : Nat) (x : Gang) : (s.setGang g x).chal = s.chal := rfl
@[simp] theorem State.setGang_scrbPer (s : State) (g : Nat) (x : Gang) : (s.setGang g x).scrbPer = s.scrbPer := rfl
@[simp] theorem State.setGang_scrbEn (s : State) (g : Nat) (x : Gang) : (s.setGang g x).scrbEn = s.scrbEn := rfl
@[simp] theorem State.setGang_scrbPass (s : State) (g : Nat) (x : Gang) : (s.setGang g x).scrbPass = s.scrbPass := rfl
@[simp] theorem State.setGang_scrubPos (s : State) (g : Nat) (x : Gang) : (s.setGang g x).scrubPos = s.scrubPos := rfl
@[simp] theorem State.setGang_rowsMoved (s : State) (g : Nat) (x : Gang) : (s.setGang g x).rowsMoved = s.rowsMoved := rfl
@[simp] theorem State.setGang_chanMoved (s : State) (g : Nat) (x : Gang) : (s.setGang g x).chanMoved = s.chanMoved := rfl
@[simp] theorem State.setGang_retired (s : State) (g : Nat) (x : Gang) : (s.setGang g x).retired = s.retired := rfl
@[simp] theorem State.setGang_flagged (s : State) (g : Nat) (x : Gang) : (s.setGang g x).flagged = s.flagged := rfl
@[simp] theorem State.setGang_rowErrs (s : State) (g : Nat) (x : Gang) : (s.setGang g x).rowErrs = s.rowErrs := rfl
@[simp] theorem State.setGang_sramErrs (s : State) (g : Nat) (x : Gang) : (s.setGang g x).sramErrs = s.sramErrs := rfl
@[simp] theorem State.setGang_demand (s : State) (g : Nat) (x : Gang) : (s.setGang g x).demand = s.demand := rfl
@[simp] theorem State.setGang_logRing (s : State) (g : Nat) (x : Gang) : (s.setGang g x).logRing = s.logRing := rfl
@[simp] theorem State.setGang_logSeq (s : State) (g : Nat) (x : Gang) : (s.setGang g x).logSeq = s.logSeq := rfl
@[simp] theorem State.setGang_logDrop (s : State) (g : Nat) (x : Gang) : (s.setGang g x).logDrop = s.logDrop := rfl
@[simp] theorem State.setGang_powered (s : State) (g : Nat) (x : Gang) : (s.setGang g x).powered = s.powered := rfl
@[simp] theorem State.setGang_plim (s : State) (g : Nat) (x : Gang) : (s.setGang g x).plim = s.plim := rfl
@[simp] theorem State.setGang_tlim (s : State) (g : Nat) (x : Gang) : (s.setGang g x).tlim = s.tlim := rfl
@[simp] theorem State.setGang_temp (s : State) (g : Nat) (x : Gang) : (s.setGang g x).temp = s.temp := rfl
@[simp] theorem State.setGang_watts (s : State) (g : Nat) (x : Gang) : (s.setGang g x).watts = s.watts := rfl
@[simp] theorem State.setGang_thermal (s : State) (g : Nat) (x : Gang) : (s.setGang g x).thermal = s.thermal := rfl
@[simp] theorem State.setGang_dbgOut (s : State) (g : Nat) (x : Gang) : (s.setGang g x).dbgOut = s.dbgOut := rfl
@[simp] theorem State.setGang_freeN (s : State) (g : Nat) (x : Gang) : (s.setGang g x).freeN = s.freeN := rfl

/-! ### setTenant -/

@[simp] theorem State.setTenant_cores (s : State) (t : Nat) (x : Tenant) : (s.setTenant t x).cores = s.cores := rfl
@[simp] theorem State.setTenant_focus (s : State) (t : Nat) (x : Tenant) : (s.setTenant t x).focus = s.focus := rfl
@[simp] theorem State.setTenant_cx (s : State) (t : Nat) (x : Tenant) : (s.setTenant t x).cx = s.cx := rfl
@[simp] theorem State.setTenant_iss (s : State) (t : Nat) (x : Tenant) : (s.setTenant t x).iss = s.iss := rfl
@[simp] theorem State.setTenant_agenda (s : State) (t : Nat) (x : Tenant) : (s.setTenant t x).agenda = s.agenda := rfl
@[simp] theorem State.setTenant_mem (s : State) (t : Nat) (x : Tenant) : (s.setTenant t x).mem = s.mem := rfl
@[simp] theorem State.setTenant_lineErr (s : State) (t : Nat) (x : Tenant) : (s.setTenant t x).lineErr = s.lineErr := rfl
@[simp] theorem State.setTenant_tags (s : State) (t : Nat) (x : Tenant) : (s.setTenant t x).tags = s.tags := rfl
@[simp] theorem State.setTenant_frameGeo (s : State) (t : Nat) (x : Tenant) : (s.setTenant t x).frameGeo = s.frameGeo := rfl
@[simp] theorem State.setTenant_rel (s : State) (t : Nat) (x : Tenant) : (s.setTenant t x).rel = s.rel := rfl
@[simp] theorem State.setTenant_unripe (s : State) (t : Nat) (x : Tenant) : (s.setTenant t x).unripe = s.unripe := rfl
@[simp] theorem State.setTenant_lastW (s : State) (t : Nat) (x : Tenant) : (s.setTenant t x).lastW = s.lastW := rfl
@[simp] theorem State.setTenant_agentSeen (s : State) (t : Nat) (x : Tenant) : (s.setTenant t x).agentSeen = s.agentSeen := rfl
@[simp] theorem State.setTenant_counts (s : State) (t : Nat) (x : Tenant) : (s.setTenant t x).counts = s.counts := rfl
@[simp] theorem State.setTenant_dies (s : State) (t : Nat) (x : Tenant) : (s.setTenant t x).dies = s.dies := rfl
@[simp] theorem State.setTenant_stripes (s : State) (t : Nat) (x : Tenant) : (s.setTenant t x).stripes = s.stripes := rfl
@[simp] theorem State.setTenant_geot (s : State) (t : Nat) (x : Tenant) : (s.setTenant t x).geot = s.geot := rfl
@[simp] theorem State.setTenant_gangs (s : State) (t : Nat) (x : Tenant) : (s.setTenant t x).gangs = s.gangs := rfl
@[simp] theorem State.setTenant_nextGang (s : State) (t : Nat) (x : Tenant) : (s.setTenant t x).nextGang = s.nextGang := rfl
@[simp] theorem State.setTenant_queues (s : State) (t : Nat) (x : Tenant) : (s.setTenant t x).queues = s.queues := rfl
@[simp] theorem State.setTenant_dtq (s : State) (t : Nat) (x : Tenant) : (s.setTenant t x).dtq = s.dtq := rfl
@[simp] theorem State.setTenant_dtc (s : State) (t : Nat) (x : Tenant) : (s.setTenant t x).dtc = s.dtc := rfl
@[simp] theorem State.setTenant_rcls (s : State) (t : Nat) (x : Tenant) : (s.setTenant t x).rcls = s.rcls := rfl
@[simp] theorem State.setTenant_dtqBad (s : State) (t : Nat) (x : Tenant) : (s.setTenant t x).dtqBad = s.dtqBad := rfl
@[simp] theorem State.setTenant_dtqIn (s : State) (t : Nat) (x : Tenant) : (s.setTenant t x).dtqIn = s.dtqIn := rfl
@[simp] theorem State.setTenant_dtcIn (s : State) (t : Nat) (x : Tenant) : (s.setTenant t x).dtcIn = s.dtcIn := rfl
@[simp] theorem State.setTenant_rclsIn (s : State) (t : Nat) (x : Tenant) : (s.setTenant t x).rclsIn = s.rclsIn := rfl
@[simp] theorem State.setTenant_dtqNew (s : State) (t : Nat) (x : Tenant) : (s.setTenant t x).dtqNew = s.dtqNew := rfl
@[simp] theorem State.setTenant_roomFor (s : State) (t : Nat) (x : Tenant) : (s.setTenant t x).roomFor = s.roomFor := rfl
@[simp] theorem State.setTenant_vpass (s : State) (t : Nat) (x : Tenant) : (s.setTenant t x).vpass = s.vpass := rfl
@[simp] theorem State.setTenant_hostMem (s : State) (t : Nat) (x : Tenant) : (s.setTenant t x).hostMem = s.hostMem := rfl
@[simp] theorem State.setTenant_replies (s : State) (t : Nat) (x : Tenant) : (s.setTenant t x).replies = s.replies := rfl
@[simp] theorem State.setTenant_cmdReplies (s : State) (t : Nat) (x : Tenant) : (s.setTenant t x).cmdReplies = s.cmdReplies := rfl
@[simp] theorem State.setTenant_nodeId (s : State) (t : Nat) (x : Tenant) : (s.setTenant t x).nodeId = s.nodeId := rfl
@[simp] theorem State.setTenant_ports (s : State) (t : Nat) (x : Tenant) : (s.setTenant t x).ports = s.ports := rfl
@[simp] theorem State.setTenant_mods (s : State) (t : Nat) (x : Tenant) : (s.setTenant t x).mods = s.mods := rfl
@[simp] theorem State.setTenant_peers (s : State) (t : Nat) (x : Tenant) : (s.setTenant t x).peers = s.peers := rfl
@[simp] theorem State.setTenant_farStrands (s : State) (t : Nat) (x : Tenant) : (s.setTenant t x).farStrands = s.farStrands := rfl
@[simp] theorem State.setTenant_farColls (s : State) (t : Nat) (x : Tenant) : (s.setTenant t x).farColls = s.farColls := rfl
@[simp] theorem State.setTenant_dieMap (s : State) (t : Nat) (x : Tenant) : (s.setTenant t x).dieMap = s.dieMap := rfl
@[simp] theorem State.setTenant_failed (s : State) (t : Nat) (x : Tenant) : (s.setTenant t x).failed = s.failed := rfl
@[simp] theorem State.setTenant_sites (s : State) (t : Nat) (x : Tenant) : (s.setTenant t x).sites = s.sites := rfl
@[simp] theorem State.setTenant_tileMap (s : State) (t : Nat) (x : Tenant) : (s.setTenant t x).tileMap = s.tileMap := rfl
@[simp] theorem State.setTenant_tilesUsed (s : State) (t : Nat) (x : Tenant) : (s.setTenant t x).tilesUsed = s.tilesUsed := rfl
@[simp] theorem State.setTenant_keys (s : State) (t : Nat) (x : Tenant) : (s.setTenant t x).keys = s.keys := rfl
@[simp] theorem State.setTenant_image (s : State) (t : Nat) (x : Tenant) : (s.setTenant t x).image = s.image := rfl
@[simp] theorem State.setTenant_booted (s : State) (t : Nat) (x : Tenant) : (s.setTenant t x).booted = s.booted := rfl
@[simp] theorem State.setTenant_svn (s : State) (t : Nat) (x : Tenant) : (s.setTenant t x).svn = s.svn := rfl
@[simp] theorem State.setTenant_minSvn (s : State) (t : Nat) (x : Tenant) : (s.setTenant t x).minSvn = s.minSvn := rfl
@[simp] theorem State.setTenant_lcs (s : State) (t : Nat) (x : Tenant) : (s.setTenant t x).lcs = s.lcs := rfl
@[simp] theorem State.setTenant_fuses (s : State) (t : Nat) (x : Tenant) : (s.setTenant t x).fuses = s.fuses := rfl
@[simp] theorem State.setTenant_dbg (s : State) (t : Nat) (x : Tenant) : (s.setTenant t x).dbg = s.dbg := rfl
@[simp] theorem State.setTenant_meas (s : State) (t : Nat) (x : Tenant) : (s.setTenant t x).meas = s.meas := rfl
@[simp] theorem State.setTenant_chal (s : State) (t : Nat) (x : Tenant) : (s.setTenant t x).chal = s.chal := rfl
@[simp] theorem State.setTenant_scrbPer (s : State) (t : Nat) (x : Tenant) : (s.setTenant t x).scrbPer = s.scrbPer := rfl
@[simp] theorem State.setTenant_scrbEn (s : State) (t : Nat) (x : Tenant) : (s.setTenant t x).scrbEn = s.scrbEn := rfl
@[simp] theorem State.setTenant_scrbPass (s : State) (t : Nat) (x : Tenant) : (s.setTenant t x).scrbPass = s.scrbPass := rfl
@[simp] theorem State.setTenant_scrubPos (s : State) (t : Nat) (x : Tenant) : (s.setTenant t x).scrubPos = s.scrubPos := rfl
@[simp] theorem State.setTenant_rowsMoved (s : State) (t : Nat) (x : Tenant) : (s.setTenant t x).rowsMoved = s.rowsMoved := rfl
@[simp] theorem State.setTenant_chanMoved (s : State) (t : Nat) (x : Tenant) : (s.setTenant t x).chanMoved = s.chanMoved := rfl
@[simp] theorem State.setTenant_retired (s : State) (t : Nat) (x : Tenant) : (s.setTenant t x).retired = s.retired := rfl
@[simp] theorem State.setTenant_flagged (s : State) (t : Nat) (x : Tenant) : (s.setTenant t x).flagged = s.flagged := rfl
@[simp] theorem State.setTenant_rowErrs (s : State) (t : Nat) (x : Tenant) : (s.setTenant t x).rowErrs = s.rowErrs := rfl
@[simp] theorem State.setTenant_sramErrs (s : State) (t : Nat) (x : Tenant) : (s.setTenant t x).sramErrs = s.sramErrs := rfl
@[simp] theorem State.setTenant_demand (s : State) (t : Nat) (x : Tenant) : (s.setTenant t x).demand = s.demand := rfl
@[simp] theorem State.setTenant_logRing (s : State) (t : Nat) (x : Tenant) : (s.setTenant t x).logRing = s.logRing := rfl
@[simp] theorem State.setTenant_logSeq (s : State) (t : Nat) (x : Tenant) : (s.setTenant t x).logSeq = s.logSeq := rfl
@[simp] theorem State.setTenant_logDrop (s : State) (t : Nat) (x : Tenant) : (s.setTenant t x).logDrop = s.logDrop := rfl
@[simp] theorem State.setTenant_powered (s : State) (t : Nat) (x : Tenant) : (s.setTenant t x).powered = s.powered := rfl
@[simp] theorem State.setTenant_plim (s : State) (t : Nat) (x : Tenant) : (s.setTenant t x).plim = s.plim := rfl
@[simp] theorem State.setTenant_tlim (s : State) (t : Nat) (x : Tenant) : (s.setTenant t x).tlim = s.tlim := rfl
@[simp] theorem State.setTenant_temp (s : State) (t : Nat) (x : Tenant) : (s.setTenant t x).temp = s.temp := rfl
@[simp] theorem State.setTenant_watts (s : State) (t : Nat) (x : Tenant) : (s.setTenant t x).watts = s.watts := rfl
@[simp] theorem State.setTenant_thermal (s : State) (t : Nat) (x : Tenant) : (s.setTenant t x).thermal = s.thermal := rfl
@[simp] theorem State.setTenant_dbgOut (s : State) (t : Nat) (x : Tenant) : (s.setTenant t x).dbgOut = s.dbgOut := rfl
@[simp] theorem State.setTenant_freeN (s : State) (t : Nat) (x : Tenant) : (s.setTenant t x).freeN = s.freeN := rfl

/-! ### setDie -/

@[simp] theorem State.setDie_cores (s : State) (d : Nat) (x : Die) : (s.setDie d x).cores = s.cores := rfl
@[simp] theorem State.setDie_focus (s : State) (d : Nat) (x : Die) : (s.setDie d x).focus = s.focus := rfl
@[simp] theorem State.setDie_cx (s : State) (d : Nat) (x : Die) : (s.setDie d x).cx = s.cx := rfl
@[simp] theorem State.setDie_iss (s : State) (d : Nat) (x : Die) : (s.setDie d x).iss = s.iss := rfl
@[simp] theorem State.setDie_agenda (s : State) (d : Nat) (x : Die) : (s.setDie d x).agenda = s.agenda := rfl
@[simp] theorem State.setDie_mem (s : State) (d : Nat) (x : Die) : (s.setDie d x).mem = s.mem := rfl
@[simp] theorem State.setDie_lineErr (s : State) (d : Nat) (x : Die) : (s.setDie d x).lineErr = s.lineErr := rfl
@[simp] theorem State.setDie_tags (s : State) (d : Nat) (x : Die) : (s.setDie d x).tags = s.tags := rfl
@[simp] theorem State.setDie_frameGeo (s : State) (d : Nat) (x : Die) : (s.setDie d x).frameGeo = s.frameGeo := rfl
@[simp] theorem State.setDie_rel (s : State) (d : Nat) (x : Die) : (s.setDie d x).rel = s.rel := rfl
@[simp] theorem State.setDie_unripe (s : State) (d : Nat) (x : Die) : (s.setDie d x).unripe = s.unripe := rfl
@[simp] theorem State.setDie_lastW (s : State) (d : Nat) (x : Die) : (s.setDie d x).lastW = s.lastW := rfl
@[simp] theorem State.setDie_agentSeen (s : State) (d : Nat) (x : Die) : (s.setDie d x).agentSeen = s.agentSeen := rfl
@[simp] theorem State.setDie_counts (s : State) (d : Nat) (x : Die) : (s.setDie d x).counts = s.counts := rfl
@[simp] theorem State.setDie_stripes (s : State) (d : Nat) (x : Die) : (s.setDie d x).stripes = s.stripes := rfl
@[simp] theorem State.setDie_geot (s : State) (d : Nat) (x : Die) : (s.setDie d x).geot = s.geot := rfl
@[simp] theorem State.setDie_gangs (s : State) (d : Nat) (x : Die) : (s.setDie d x).gangs = s.gangs := rfl
@[simp] theorem State.setDie_nextGang (s : State) (d : Nat) (x : Die) : (s.setDie d x).nextGang = s.nextGang := rfl
@[simp] theorem State.setDie_tenants (s : State) (d : Nat) (x : Die) : (s.setDie d x).tenants = s.tenants := rfl
@[simp] theorem State.setDie_queues (s : State) (d : Nat) (x : Die) : (s.setDie d x).queues = s.queues := rfl
@[simp] theorem State.setDie_dtq (s : State) (d : Nat) (x : Die) : (s.setDie d x).dtq = s.dtq := rfl
@[simp] theorem State.setDie_dtc (s : State) (d : Nat) (x : Die) : (s.setDie d x).dtc = s.dtc := rfl
@[simp] theorem State.setDie_rcls (s : State) (d : Nat) (x : Die) : (s.setDie d x).rcls = s.rcls := rfl
@[simp] theorem State.setDie_dtqBad (s : State) (d : Nat) (x : Die) : (s.setDie d x).dtqBad = s.dtqBad := rfl
@[simp] theorem State.setDie_dtqIn (s : State) (d : Nat) (x : Die) : (s.setDie d x).dtqIn = s.dtqIn := rfl
@[simp] theorem State.setDie_dtcIn (s : State) (d : Nat) (x : Die) : (s.setDie d x).dtcIn = s.dtcIn := rfl
@[simp] theorem State.setDie_rclsIn (s : State) (d : Nat) (x : Die) : (s.setDie d x).rclsIn = s.rclsIn := rfl
@[simp] theorem State.setDie_dtqNew (s : State) (d : Nat) (x : Die) : (s.setDie d x).dtqNew = s.dtqNew := rfl
@[simp] theorem State.setDie_roomFor (s : State) (d : Nat) (x : Die) : (s.setDie d x).roomFor = s.roomFor := rfl
@[simp] theorem State.setDie_vpass (s : State) (d : Nat) (x : Die) : (s.setDie d x).vpass = s.vpass := rfl
@[simp] theorem State.setDie_hostMem (s : State) (d : Nat) (x : Die) : (s.setDie d x).hostMem = s.hostMem := rfl
@[simp] theorem State.setDie_replies (s : State) (d : Nat) (x : Die) : (s.setDie d x).replies = s.replies := rfl
@[simp] theorem State.setDie_cmdReplies (s : State) (d : Nat) (x : Die) : (s.setDie d x).cmdReplies = s.cmdReplies := rfl
@[simp] theorem State.setDie_nodeId (s : State) (d : Nat) (x : Die) : (s.setDie d x).nodeId = s.nodeId := rfl
@[simp] theorem State.setDie_ports (s : State) (d : Nat) (x : Die) : (s.setDie d x).ports = s.ports := rfl
@[simp] theorem State.setDie_mods (s : State) (d : Nat) (x : Die) : (s.setDie d x).mods = s.mods := rfl
@[simp] theorem State.setDie_peers (s : State) (d : Nat) (x : Die) : (s.setDie d x).peers = s.peers := rfl
@[simp] theorem State.setDie_farStrands (s : State) (d : Nat) (x : Die) : (s.setDie d x).farStrands = s.farStrands := rfl
@[simp] theorem State.setDie_farColls (s : State) (d : Nat) (x : Die) : (s.setDie d x).farColls = s.farColls := rfl
@[simp] theorem State.setDie_dieMap (s : State) (d : Nat) (x : Die) : (s.setDie d x).dieMap = s.dieMap := rfl
@[simp] theorem State.setDie_failed (s : State) (d : Nat) (x : Die) : (s.setDie d x).failed = s.failed := rfl
@[simp] theorem State.setDie_sites (s : State) (d : Nat) (x : Die) : (s.setDie d x).sites = s.sites := rfl
@[simp] theorem State.setDie_tileMap (s : State) (d : Nat) (x : Die) : (s.setDie d x).tileMap = s.tileMap := rfl
@[simp] theorem State.setDie_tilesUsed (s : State) (d : Nat) (x : Die) : (s.setDie d x).tilesUsed = s.tilesUsed := rfl
@[simp] theorem State.setDie_keys (s : State) (d : Nat) (x : Die) : (s.setDie d x).keys = s.keys := rfl
@[simp] theorem State.setDie_image (s : State) (d : Nat) (x : Die) : (s.setDie d x).image = s.image := rfl
@[simp] theorem State.setDie_booted (s : State) (d : Nat) (x : Die) : (s.setDie d x).booted = s.booted := rfl
@[simp] theorem State.setDie_svn (s : State) (d : Nat) (x : Die) : (s.setDie d x).svn = s.svn := rfl
@[simp] theorem State.setDie_minSvn (s : State) (d : Nat) (x : Die) : (s.setDie d x).minSvn = s.minSvn := rfl
@[simp] theorem State.setDie_lcs (s : State) (d : Nat) (x : Die) : (s.setDie d x).lcs = s.lcs := rfl
@[simp] theorem State.setDie_fuses (s : State) (d : Nat) (x : Die) : (s.setDie d x).fuses = s.fuses := rfl
@[simp] theorem State.setDie_dbg (s : State) (d : Nat) (x : Die) : (s.setDie d x).dbg = s.dbg := rfl
@[simp] theorem State.setDie_meas (s : State) (d : Nat) (x : Die) : (s.setDie d x).meas = s.meas := rfl
@[simp] theorem State.setDie_chal (s : State) (d : Nat) (x : Die) : (s.setDie d x).chal = s.chal := rfl
@[simp] theorem State.setDie_scrbPer (s : State) (d : Nat) (x : Die) : (s.setDie d x).scrbPer = s.scrbPer := rfl
@[simp] theorem State.setDie_scrbEn (s : State) (d : Nat) (x : Die) : (s.setDie d x).scrbEn = s.scrbEn := rfl
@[simp] theorem State.setDie_scrbPass (s : State) (d : Nat) (x : Die) : (s.setDie d x).scrbPass = s.scrbPass := rfl
@[simp] theorem State.setDie_scrubPos (s : State) (d : Nat) (x : Die) : (s.setDie d x).scrubPos = s.scrubPos := rfl
@[simp] theorem State.setDie_rowsMoved (s : State) (d : Nat) (x : Die) : (s.setDie d x).rowsMoved = s.rowsMoved := rfl
@[simp] theorem State.setDie_chanMoved (s : State) (d : Nat) (x : Die) : (s.setDie d x).chanMoved = s.chanMoved := rfl
@[simp] theorem State.setDie_retired (s : State) (d : Nat) (x : Die) : (s.setDie d x).retired = s.retired := rfl
@[simp] theorem State.setDie_flagged (s : State) (d : Nat) (x : Die) : (s.setDie d x).flagged = s.flagged := rfl
@[simp] theorem State.setDie_rowErrs (s : State) (d : Nat) (x : Die) : (s.setDie d x).rowErrs = s.rowErrs := rfl
@[simp] theorem State.setDie_sramErrs (s : State) (d : Nat) (x : Die) : (s.setDie d x).sramErrs = s.sramErrs := rfl
@[simp] theorem State.setDie_demand (s : State) (d : Nat) (x : Die) : (s.setDie d x).demand = s.demand := rfl
@[simp] theorem State.setDie_logRing (s : State) (d : Nat) (x : Die) : (s.setDie d x).logRing = s.logRing := rfl
@[simp] theorem State.setDie_logSeq (s : State) (d : Nat) (x : Die) : (s.setDie d x).logSeq = s.logSeq := rfl
@[simp] theorem State.setDie_logDrop (s : State) (d : Nat) (x : Die) : (s.setDie d x).logDrop = s.logDrop := rfl
@[simp] theorem State.setDie_powered (s : State) (d : Nat) (x : Die) : (s.setDie d x).powered = s.powered := rfl
@[simp] theorem State.setDie_plim (s : State) (d : Nat) (x : Die) : (s.setDie d x).plim = s.plim := rfl
@[simp] theorem State.setDie_tlim (s : State) (d : Nat) (x : Die) : (s.setDie d x).tlim = s.tlim := rfl
@[simp] theorem State.setDie_temp (s : State) (d : Nat) (x : Die) : (s.setDie d x).temp = s.temp := rfl
@[simp] theorem State.setDie_watts (s : State) (d : Nat) (x : Die) : (s.setDie d x).watts = s.watts := rfl
@[simp] theorem State.setDie_thermal (s : State) (d : Nat) (x : Die) : (s.setDie d x).thermal = s.thermal := rfl
@[simp] theorem State.setDie_dbgOut (s : State) (d : Nat) (x : Die) : (s.setDie d x).dbgOut = s.dbgOut := rfl
@[simp] theorem State.setDie_freeN (s : State) (d : Nat) (x : Die) : (s.setDie d x).freeN = s.freeN := rfl

/-! ### A core's fields after one of its contexts is replaced -/

@[simp] theorem Core.setCtx_prim (k : Core) (cx : CtxId) (x : Ctx) : (k.setCtx cx x).prim = k.prim := by
  cases cx <;> rfl
@[simp] theorem Core.setCtx_primSet (k : Core) (cx : CtxId) (x : Ctx) : (k.setCtx cx x).primSet = k.primSet := by
  cases cx <;> rfl
@[simp] theorem Core.setCtx_secbnd (k : Core) (cx : CtxId) (x : Ctx) : (k.setCtx cx x).secbnd = k.secbnd := by
  cases cx <;> rfl
@[simp] theorem Core.setCtx_starve (k : Core) (cx : CtxId) (x : Ctx) : (k.setCtx cx x).starve = k.starve := by
  cases cx <;> rfl
@[simp] theorem Core.setCtx_bubble (k : Core) (cx : CtxId) (x : Ctx) : (k.setCtx cx x).bubble = k.bubble := by
  cases cx <;> rfl
@[simp] theorem Core.setCtx_primWas (k : Core) (cx : CtxId) (x : Ctx) : (k.setCtx cx x).primWas = k.primWas := by
  cases cx <;> rfl
@[simp] theorem Core.setCtx_parked (k : Core) (cx : CtxId) (x : Ctx) : (k.setCtx cx x).parked = k.parked := by
  cases cx <;> rfl
@[simp] theorem Core.setCtx_serving (k : Core) (cx : CtxId) (x : Ctx) : (k.setCtx cx x).serving = k.serving := by
  cases cx <;> rfl
@[simp] theorem Core.setCtx_tess (k : Core) (cx : CtxId) (x : Ctx) : (k.setCtx cx x).tess = k.tess := by
  cases cx <;> rfl
@[simp] theorem Core.setCtx_acm (k : Core) (cx : CtxId) (x : Ctx) : (k.setCtx cx x).acm = k.acm := by
  cases cx <;> rfl
@[simp] theorem Core.setCtx_lintel (k : Core) (cx : CtxId) (x : Ctx) : (k.setCtx cx x).lintel = k.lintel := by
  cases cx <;> rfl
@[simp] theorem Core.setCtx_badTess (k : Core) (cx : CtxId) (x : Ctx) : (k.setCtx cx x).badTess = k.badTess := by
  cases cx <;> rfl
@[simp] theorem Core.setCtx_softTess (k : Core) (cx : CtxId) (x : Ctx) : (k.setCtx cx x).softTess = k.softTess := by
  cases cx <;> rfl
@[simp] theorem Core.setCtx_badAcm (k : Core) (cx : CtxId) (x : Ctx) : (k.setCtx cx x).badAcm = k.badAcm := by
  cases cx <;> rfl
@[simp] theorem Core.setCtx_badLintel (k : Core) (cx : CtxId) (x : Ctx) : (k.setCtx cx x).badLintel = k.badLintel := by
  cases cx <;> rfl
@[simp] theorem Core.setCtx_badStore (k : Core) (cx : CtxId) (x : Ctx) : (k.setCtx cx x).badStore = k.badStore := by
  cases cx <;> rfl
@[simp] theorem Core.setCtx_soft (k : Core) (cx : CtxId) (x : Ctx) : (k.setCtx cx x).soft = k.soft := by
  cases cx <;> rfl
@[simp] theorem Core.setCtx_ce (k : Core) (cx : CtxId) (x : Ctx) : (k.setCtx cx x).ce = k.ce := by
  cases cx <;> rfl
@[simp] theorem Core.setCtx_badIc (k : Core) (cx : CtxId) (x : Ctx) : (k.setCtx cx x).badIc = k.badIc := by
  cases cx <;> rfl
@[simp] theorem Core.setCtx_accs (k : Core) (cx : CtxId) (x : Ctx) : (k.setCtx cx x).accs = k.accs := by
  cases cx <;> rfl
@[simp] theorem Core.setCtx_delayed (k : Core) (cx : CtxId) (x : Ctx) : (k.setCtx cx x).delayed = k.delayed := by
  cases cx <;> rfl
@[simp] theorem Core.setCtx_nextId (k : Core) (cx : CtxId) (x : Ctx) : (k.setCtx cx x).nextId = k.nextId := by
  cases cx <;> rfl
@[simp] theorem Core.setCtx_claims (k : Core) (cx : CtxId) (x : Ctx) : (k.setCtx cx x).claims = k.claims := by
  cases cx <;> rfl
@[simp] theorem Core.setCtx_claimAt (k : Core) (cx : CtxId) (x : Ctx) : (k.setCtx cx x).claimAt = k.claimAt := by
  cases cx <;> rfl
@[simp] theorem Core.setCtx_primMask (k : Core) (cx : CtxId) (x : Ctx) : (k.setCtx cx x).primMask = k.primMask := by
  cases cx <;> rfl
@[simp] theorem Core.setCtx_primAt (k : Core) (cx : CtxId) (x : Ctx) : (k.setCtx cx x).primAt = k.primAt := by
  cases cx <;> rfl
@[simp] theorem Core.setCtx_ops (k : Core) (cx : CtxId) (x : Ctx) : (k.setCtx cx x).ops = k.ops := by
  cases cx <;> rfl
@[simp] theorem Core.setCtx_opOrder (k : Core) (cx : CtxId) (x : Ctx) : (k.setCtx cx x).opOrder = k.opOrder := by
  cases cx <;> rfl
@[simp] theorem Core.setCtx_grants (k : Core) (cx : CtxId) (x : Ctx) : (k.setCtx cx x).grants = k.grants := by
  cases cx <;> rfl
@[simp] theorem Core.setCtx_lastGrant (k : Core) (cx : CtxId) (x : Ctx) : (k.setCtx cx x).lastGrant = k.lastGrant := by
  cases cx <;> rfl
@[simp] theorem Core.setCtx_hods (k : Core) (cx : CtxId) (x : Ctx) : (k.setCtx cx x).hods = k.hods := by
  cases cx <;> rfl
@[simp] theorem Core.setCtx_ltt (k : Core) (cx : CtxId) (x : Ctx) : (k.setCtx cx x).ltt = k.ltt := by
  cases cx <;> rfl
@[simp] theorem Core.setCtx_store (k : Core) (cx : CtxId) (x : Ctx) : (k.setCtx cx x).store = k.store := by
  cases cx <;> rfl
@[simp] theorem Core.setCtx_mxcfg (k : Core) (cx : CtxId) (x : Ctx) : (k.setCtx cx x).mxcfg = k.mxcfg := by
  cases cx <;> rfl
@[simp] theorem Core.setCtx_mxUnchk (k : Core) (cx : CtxId) (x : Ctx) : (k.setCtx cx x).mxUnchk = k.mxUnchk := by
  cases cx <;> rfl
@[simp] theorem Core.setCtx_mxRepl (k : Core) (cx : CtxId) (x : Ctx) : (k.setCtx cx x).mxRepl = k.mxRepl := by
  cases cx <;> rfl
@[simp] theorem Core.setCtx_mx (k : Core) (cx : CtxId) (x : Ctx) : (k.setCtx cx x).mx = k.mx := by
  cases cx <;> rfl
@[simp] theorem Core.setCtx_latch (k : Core) (cx : CtxId) (x : Ctx) : (k.setCtx cx x).latch = k.latch := by
  cases cx <;> rfl
@[simp] theorem Core.setCtx_halfRow (k : Core) (cx : CtxId) (x : Ctx) : (k.setCtx cx x).halfRow = k.halfRow := by
  cases cx <;> rfl
@[simp] theorem Core.setCtx_bay (k : Core) (cx : CtxId) (x : Ctx) : (k.setCtx cx x).bay = k.bay := by
  cases cx <;> rfl
@[simp] theorem Core.setCtx_hvb (k : Core) (cx : CtxId) (x : Ctx) : (k.setCtx cx x).hvb = k.hvb := by
  cases cx <;> rfl
@[simp] theorem Core.setCtx_intp (k : Core) (cx : CtxId) (x : Ctx) : (k.setCtx cx x).intp = k.intp := by
  cases cx <;> rfl
@[simp] theorem Core.setCtx_intm (k : Core) (cx : CtxId) (x : Ctx) : (k.setCtx cx x).intm = k.intm := by
  cases cx <;> rfl
@[simp] theorem Core.setCtx_ingress (k : Core) (cx : CtxId) (x : Ctx) : (k.setCtx cx x).ingress = k.ingress := by
  cases cx <;> rfl
@[simp] theorem Core.setCtx_alarm (k : Core) (cx : CtxId) (x : Ctx) : (k.setCtx cx x).alarm = k.alarm := by
  cases cx <;> rfl
@[simp] theorem Core.setCtx_quantum (k : Core) (cx : CtxId) (x : Ctx) : (k.setCtx cx x).quantum = k.quantum := by
  cases cx <;> rfl
@[simp] theorem Core.setCtx_secnt (k : Core) (cx : CtxId) (x : Ctx) : (k.setCtx cx x).secnt = k.secnt := by
  cases cx <;> rfl
@[simp] theorem Core.setCtx_trctl (k : Core) (cx : CtxId) (x : Ctx) : (k.setCtx cx x).trctl = k.trctl := by
  cases cx <;> rfl
@[simp] theorem Core.setCtx_trrb (k : Core) (cx : CtxId) (x : Ctx) : (k.setCtx cx x).trrb = k.trrb := by
  cases cx <;> rfl
@[simp] theorem Core.setCtx_trFault (k : Core) (cx : CtxId) (x : Ctx) : (k.setCtx cx x).trFault = k.trFault := by
  cases cx <;> rfl
@[simp] theorem Core.setCtx_trDrop (k : Core) (cx : CtxId) (x : Ctx) : (k.setCtx cx x).trDrop = k.trDrop := by
  cases cx <;> rfl
@[simp] theorem Core.setCtx_trWas (k : Core) (cx : CtxId) (x : Ctx) : (k.setCtx cx x).trWas = k.trWas := by
  cases cx <;> rfl
@[simp] theorem Core.setCtx_due (k : Core) (cx : CtxId) (x : Ctx) : (k.setCtx cx x).due = k.due := by
  cases cx <;> rfl
@[simp] theorem Core.setCtx_tally (k : Core) (cx : CtxId) (x : Ctx) : (k.setCtx cx x).tally = k.tally := by
  cases cx <;> rfl
@[simp] theorem Core.setCtx_pmcsel (k : Core) (cx : CtxId) (x : Ctx) : (k.setCtx cx x).pmcsel = k.pmcsel := by
  cases cx <;> rfl
@[simp] theorem Core.setCtx_pmc (k : Core) (cx : CtxId) (x : Ctx) : (k.setCtx cx x).pmc = k.pmc := by
  cases cx <;> rfl
@[simp] theorem Core.setCtx_mldrAt (k : Core) (cx : CtxId) (x : Ctx) : (k.setCtx cx x).mldrAt = k.mldrAt := by
  cases cx <;> rfl
@[simp] theorem Core.setCtx_icache (k : Core) (cx : CtxId) (x : Ctx) : (k.setCtx cx x).icache = k.icache := by
  cases cx <;> rfl

/-! ### Reading a numbered family after an update -/

@[simp] theorem State.core_setCore (s : State) (c : Nat) (k : Core) : (s.setCore c k).core c = k :=
  Tbl.get_set_same _ _ _ _

theorem State.core_setCore_other (s : State) (c d : Nat) (k : Core) (h : d ≠ c) : (s.setCore c k).core d = s.core d :=
  Tbl.get_set_other _ _ _ _ _ h

@[simp] theorem State.kore_setKore (s : State) (k : Core) : (s.setKore k).kore = k := Tbl.get_set_same _ _ _ _

theorem State.core_setKore_other (s : State) (d : Nat) (k : Core) (h : d ≠ s.focus) : (s.setKore k).core d = s.core d :=
  Tbl.get_set_other _ _ _ _ _ h

@[simp] theorem Core.ctx_setCtx (k : Core) (cx : CtxId) (x : Ctx) : (k.setCtx cx x).ctx cx = x := by
  cases cx <;> rfl

theorem Core.ctx_setCtx_other (k : Core) (cx cy : CtxId) (x : Ctx) (h : cy ≠ cx) : (k.setCtx cx x).ctx cy = k.ctx cy := by
  cases cx <;> cases cy <;> first | rfl | exact absurd rfl h

@[simp] theorem Core.setCtx_setCtx (k : Core) (cx : CtxId) (x y : Ctx) : (k.setCtx cx x).setCtx cx y = k.setCtx cx y := by
  cases cx <;> rfl

@[simp] theorem Core.setCtx_ctx (k : Core) (cx : CtxId) : k.setCtx cx (k.ctx cx) = k := by
  cases cx <;> rfl

@[simp] theorem State.kore_setMe (s : State) (x : Ctx) : (s.setMe x).kore = s.kore.setCtx s.cx x :=
  Tbl.get_set_same _ _ _ _

@[simp] theorem State.me_setMe (s : State) (x : Ctx) : (s.setMe x).me = x := by
  simp [State.me]

theorem State.core_setMe_other (s : State) (d : Nat) (x : Ctx) (h : d ≠ s.focus) : (s.setMe x).core d = s.core d :=
  Tbl.get_set_other _ _ _ _ _ h

@[simp] theorem State.gang_setGang (s : State) (g : Nat) (x : Gang) : (s.setGang g x).gang g = x :=
  Tbl.get_set_same _ _ _ _

@[simp] theorem State.tenant_setTenant (s : State) (t : Nat) (x : Tenant) : (s.setTenant t x).tenant t = x :=
  Tbl.get_set_same _ _ _ _

@[simp] theorem State.die_setDie (s : State) (d : Nat) (x : Die) : (s.setDie d x).die d = x :=
  Tbl.get_set_same _ _ _ _

@[simp] theorem State.core_setIss (s : State) (l : Latch) (c : Nat) : (s.setIss l).core c = s.core c := rfl
@[simp] theorem State.kore_setIss (s : State) (l : Latch) : (s.setIss l).kore = s.kore := rfl
@[simp] theorem State.me_setIss (s : State) (l : Latch) : (s.setIss l).me = s.me := rfl
@[simp] theorem State.iss_setIss (s : State) (l : Latch) : (s.setIss l).iss = l := rfl
@[simp] theorem State.gang_setIss (s : State) (l : Latch) (g : Nat) : (s.setIss l).gang g = s.gang g := rfl
@[simp] theorem State.core_setGang (s : State) (g c : Nat) (x : Gang) : (s.setGang g x).core c = s.core c := rfl
@[simp] theorem State.core_setTenant (s : State) (t c : Nat) (x : Tenant) : (s.setTenant t x).core c = s.core c := rfl
@[simp] theorem State.core_setDie (s : State) (d c : Nat) (x : Die) : (s.setDie d x).core c = s.core c := rfl
@[simp] theorem State.gang_setCore (s : State) (c g : Nat) (k : Core) : (s.setCore c k).gang g = s.gang g := rfl
@[simp] theorem State.gang_setMe (s : State) (x : Ctx) (g : Nat) : (s.setMe x).gang g = s.gang g := rfl

/-- The part with only its cores changed reads alike through any two ways of replacing the context in focus. -/
theorem State.setMe_eq (s : State) (x : Ctx) : s.setMe x = { s with cores := (s.setMe x).cores } := rfl

end Sys2Proof.Machine
end

