-- ==== Sys2Proof/Laws/Ops.lean ====
section
/-! SUPPORT. What each shared operation of a meaning can do, said once. -/

namespace Sys2Proof.Machine

open Sys2Proof.Safety Sys2Proof.Laws

set_option Elab.async false

/-! ### Ends of a meaning -/

theorem State.done_eq (s : State) : s.done = .next (s.setIss { s.iss with out := .issued }) := rfl

theorem State.hold_eq (s : State) (r : Nat) : s.hold r = .next (s.setIss { s.iss with out := .held r }) := rfl

theorem State.whenOn_on {s : State} {h : Hdr} (k : State → Out) (g : s.guardOn h = true) : s.whenOn h k = k s := by
  simp [State.whenOn, g]

theorem State.whenOn_off {s : State} {h : Hdr} (k : State → Out) (g : s.guardOn h = false) : s.whenOn h k = s.done := by
  simp [State.whenOn, g]

/-- A destination with room goes on to its instruction's effect (R14, R26, R34). -/
theorem State.dest_room {s : State} {key land : Nat} {entry : Bool} (k : State → Out) (r : Room s key entry land) :
    s.dest key land entry k = k s := by
  unfold State.dest
  rcases r with r | ⟨r1, r2⟩
  · simp [r]
  · by_cases h0 : key = 0
    · simp [h0]
    · have e1 : (entry && decide (Config.pwqDepth ≤ s.me.pwq.length)) = false := by
        cases he : entry
        · rfl
        · have := r1 he
          simp
          omega
      have e2 : (s.me.dwt && s.me.collides key land) = false := by
        cases hd : s.me.dwt
        · rfl
        · cases hc : s.me.collides key land
          · rfl
          · exact absurd ⟨hd, hc⟩ r2
      simp [h0, e1, e2]

/-! ### Faces and registers (R13 to R20) -/

@[simp] theorem Two.hid_setHid (t : Two) (v : Vec) : (t.setHid v).hid = v := by
  unfold Two.setHid Two.hid
  split <;> simp_all

@[simp] theorem Two.vis_setHid (t : Two) (v : Vec) : (t.setHid v).vis = t.vis := by
  unfold Two.setHid Two.vis
  split <;> simp_all

@[simp] theorem Two.sel_setHid (t : Two) (v : Vec) : (t.setHid v).sel = t.sel := by
  unfold Two.setHid
  split <;> rfl

@[simp] theorem Two.vis_stamp (t : Two) (q : Option (BitVec 32)) : ({ t with stamp := q } : Two).vis = t.vis := rfl
@[simp] theorem Two.hid_stamp (t : Two) (q : Option (BitVec 32)) : ({ t with stamp := q } : Two).hid = t.hid := rfl
@[simp] theorem Two.vis_w (t : Two) (b : Bool) : ({ t with w := b } : Two).vis = t.vis := rfl
@[simp] theorem Two.hid_w (t : Two) (b : Bool) : ({ t with w := b } : Two).hid = t.hid := rfl

@[simp] theorem Ctx.two_setTwo (x : Ctx) (key : Nat) (t : Two) : (x.setTwo key t).two key = t :=
  Tbl.get_set_same _ _ _ _

theorem Ctx.two_setTwo_other (x : Ctx) (key k : Nat) (t : Two) (h : k ≠ key) : (x.setTwo key t).two k = x.two k :=
  Tbl.get_set_other _ _ _ _ _ h

/-- A context's registers read by key alone. -/
theorem Ctx.two_congr {x y : Ctx} (h : x.regs = y.regs) (k : Nat) : x.two k = y.two k := by
  simp [Ctx.two, h]

/-- A landing changes registers only. -/
theorem Ctx.landIn_eq (x : Ctx) (key : Nat) (v : Vec) (lanes : Pred) (stamp : BitVec 32) :
    x.landIn key v lanes stamp = { x with regs := (x.landIn key v lanes stamp).regs } := by
  unfold Ctx.landIn
  split <;> rfl

theorem Ctx.landIn_two_other (x : Ctx) (key k : Nat) (v : Vec) (lanes : Pred) (stamp : BitVec 32) (h : k ≠ key) :
    (x.landIn key v lanes stamp).two k = x.two k := by
  unfold Ctx.landIn
  split
  · rfl
  · exact Ctx.two_setTwo_other _ _ _ _ h

theorem Ctx.landIn_vis (x : Ctx) (key : Nat) (v : Vec) (lanes : Pred) (stamp : BitVec 32) :
    ((x.landIn key v lanes stamp).two key).vis = (x.two key).vis := by
  unfold Ctx.landIn
  split
  · rfl
  · rw [Ctx.two_setTwo]
    exact Two.vis_setHid _ _

/-- What the hidden face holds after a value arrives (R28, R32, R37). -/
theorem Ctx.landIn_hid (x : Ctx) (key : Nat) (v : Vec) (lanes : Pred) (stamp : BitVec 32) :
    ((x.landIn key v lanes stamp).two key).hid =
      if x.overtaken key stamp then (x.two key).hid
      else mergeFor key lanes v (x.two key).vis := by
  unfold Ctx.landIn
  split
  · rfl
  · rw [Ctx.two_setTwo]
    exact Two.hid_setHid _ _

/-! ### A fixed-latency result (R14, R18, R25, R26, R33) -/

theorem Ctx.writeReg_zero (x : Ctx) (v : Vec) (lanes : Pred) (land ready : Nat) : x.writeReg 0 v lanes land ready = x := by
  simp [Ctx.writeReg]

/-- With LAND n, n > 0, a result enters the queue and no register changes (R25, R26). -/
theorem Ctx.writeReg_later (x : Ctx) (key : Nat) (v : Vec) (lanes : Pred) (land ready : Nat) (hk : key ≠ 0)
    (hl : land ≠ 0) : x.writeReg key v lanes land ready =
      { x with dw := x.dw || x.collides key land,
               pwq := x.pwq ++ [{ reg := key, rem := land, val := some v, ready := ready, stamp := x.stamp,
                                  lanes := lanes }] } := by
  simp [Ctx.writeReg, hk, hl]

/-- With LAND 0 a result lands in the hidden face of its register, which becomes due (R18, R33). -/
theorem Ctx.writeReg_now (x : Ctx) (key : Nat) (v : Vec) (lanes : Pred) (ready : Nat) (hk : key ≠ 0) :
    ∃ y : Ctx, x.writeReg key v lanes 0 ready = y
      ∧ (y.two key).hid = (if x.overtaken key x.stamp then (x.two key).hid else mergeFor key lanes v (x.two key).vis)
      ∧ (y.two key).vis = (x.two key).vis ∧ (y.two key).w = true
      ∧ (∀ k, k ≠ key → y.two k = x.two k)
      ∧ y = { x with regs := y.regs, dw := x.dw || x.collides key 0, ready := max x.ready ready } := by
  let z : Ctx := { x with dw := x.dw || x.collides key 0 }
  let y := z.landIn key v lanes x.stamp
  have hy : y = { z with regs := y.regs } := Ctx.landIn_eq z key v lanes x.stamp
  refine ⟨_, rfl, ?_⟩
  have e : x.writeReg key v lanes 0 ready
      = { (y.setTwo key { (y.two key) with w := true }) with ready := max y.ready ready } := by
    simp [Ctx.writeReg, hk, y, z]
  have hr : y.ready = x.ready := by rw [hy]
  rw [e]
  have two : ∀ (c : Ctx) (r k : Nat), ({ c with ready := r } : Ctx).two k = c.two k := fun _ _ _ => rfl
  refine ⟨?_, ?_, ?_, ?_, ?_⟩
  · rw [two, Ctx.two_setTwo, Two.hid_w]
    exact Ctx.landIn_hid z key v lanes x.stamp
  · rw [two, Ctx.two_setTwo, Two.vis_w]
    exact Ctx.landIn_vis z key v lanes x.stamp
  · rw [two, Ctx.two_setTwo]
  · intro k h
    rw [two, Ctx.two_setTwo_other _ _ _ _ h]
    exact Ctx.landIn_two_other z key k v lanes x.stamp h
  · rw [hr]
    exact congrArg (fun c : Ctx => { (c.setTwo key { (y.two key) with w := true }) with ready := max x.ready ready }) hy

/-! ### The context in focus alone changes -/

/-- Replacing the context in focus, and the issue latch, touches nothing else of the part. -/
theorem keepsCore_setMe (s : State) (y : Ctx) (l : Latch) : KeepsCore s ((s.setMe y).setIss l) where
  cores := fun c h => State.core_setMe_other s c y h
  part := rfl
  core := by
    show ((s.setMe y).kore.setCtx s.cx s.me) = s.kore
    simp [State.me]

theorem keepsMemory_setMe (s : State) (y : Ctx) (l : Latch) : KeepsMemory s ((s.setMe y).setIss l) := by
  have key : ∀ c, ((s.setMe y).core c).tess = (s.core c).tess ∧ ((s.setMe y).core c).acm = (s.core c).acm
      ∧ ((s.setMe y).core c).lintel = (s.core c).lintel := by
    intro c
    by_cases h : c = s.focus
    · subst h
      have e : (s.setMe y).core s.focus = s.kore.setCtx s.cx y := State.kore_setMe s y
      rw [e]
      simp [State.kore]
    · rw [State.core_setMe_other s c y h]
      simp
  exact ⟨fun _ => rfl, fun _ => rfl, fun c a => congrArg (Mem.byte · a) (key c).1,
    fun c a => congrArg (Mem.byte · a) (key c).2.1, fun c a => congrArg (Mem.byte · a) (key c).2.2⟩

/-- The context in focus after it has been replaced, whatever the issue latch. -/
@[simp] theorem State.me_after (s : State) (y : Ctx) (l : Latch) : ((s.setMe y).setIss l).me = y :=
  State.me_setMe s y

theorem writesOnly_setMe {keys : List Nat} {s : State} {y : Ctx} (l : Latch)
    (hr : ∀ key, key ∉ keys → y.two key = s.me.two key)
    (hc : { y with regs := s.me.regs, pwq := s.me.pwq, dw := s.me.dw, ready := s.me.ready } = s.me) :
    WritesOnly keys s ((s.setMe y).setIss l) where
  toKeepsCore := keepsCore_setMe s y l
  memory := keepsMemory_setMe s y l
  regs := by simpa using hr
  context := by
    rw [State.me_after]
    exact hc

/-- A fixed-latency result with room in the queue: the instruction issues, its register takes the value as R14, R18 and
R25 say, and nothing else changes. -/
theorem State.putReg_ok (s : State) (key : Nat) (v : Vec) (lanes : Pred) (land lat : Nat)
    (r : Room s key (decide (0 < land)) land) :
    ∃ t, s.putReg key v lanes land lat = .next t ∧ t.iss.out = .issued ∧ TakesResult key v lanes land lat s t
      ∧ WritesOnly [key] s t := by
  unfold State.putReg
  rw [State.dest_room _ r]
  refine ⟨_, rfl, rfl, ?_⟩
  by_cases hk : key = 0
  · subst hk
    rw [Ctx.writeReg_zero]
    exact ⟨⟨fun _ => State.me_after _ _ _, fun h => absurd rfl h, fun h => absurd rfl h, fun h => absurd rfl h⟩,
      writesOnly_setMe _ (fun _ _ => rfl) rfl⟩
  · by_cases hl : land = 0
    · subst hl
      obtain ⟨y, hy, h1, h2, h3, h4, h5⟩ := Ctx.writeReg_now s.me key v lanes (s.me.clock + lat) hk
      rw [hy]
      have hm := State.me_after s y { (s.setMe y).iss with out := .issued }
      refine ⟨⟨fun h => absurd h hk, fun _ _ => ?_, fun _ h => absurd rfl h, fun _ => ?_⟩,
        writesOnly_setMe _ (fun k hn => h4 k (by simpa using hn)) ?_⟩
      · refine ⟨hm.symm ▸ h1, hm.symm ▸ h2, hm.symm ▸ h3, by rw [hm, h5], by rw [hm, h5]⟩
      · rw [hm, h5]
      · rw [h5]
    · rw [Ctx.writeReg_later _ _ _ _ _ _ hk hl]
      have hm := fun y => State.me_after s y { (s.setMe y).iss with out := .issued }
      refine ⟨⟨fun h => absurd h hk, fun _ h => absurd h hl, fun _ _ => ?_, fun _ => ?_⟩,
        writesOnly_setMe _ (fun _ _ => rfl) rfl⟩
      · exact (hm _).symm ▸ ⟨rfl, rfl, rfl⟩
      · exact (hm _).symm ▸ rfl

/-! ### The image of a context (R397) -/

@[simp] theorem Mem.bytes_length (m : Mem) : ∀ a k : Nat, (Mem.bytes m a k).length = k
  | _, 0 => rfl
  | a, k + 1 => congrArg Nat.succ (Mem.bytes_length m (a + 1) k)

@[simp] theorem Dyn.bytes_length (d : Dyn) : d.bytes.length = 32 := by simp [Dyn.bytes]

@[simp] theorem fillBytes_length (f : Option Fill) : (fillBytes f).length = 160 := by
  cases f with
  | none => exact List.length_replicate
  | some f =>
    simp only [fillBytes]
    split
    · exact List.length_replicate
    · simp only [List.length_take, List.length_append, natToBytes_length, List.length_replicate]
      omega

/-- The image of a context with nothing pending and nothing written in its phase stays within the fixed areas. -/
theorem Ctx.image_length (x : Ctx) (hp : x.pwq = []) (hw : x.writtenKeys = []) (hl : x.lineRecords = []) :
    x.image.length ≤ 0xA000 := by
  simp only [Ctx.image, hp, hw, hl, List.map_nil, List.filter_nil, List.flatMap_nil, List.nil_append, List.append_nil,
    List.flatten_nil, List.length_take, List.length_append, List.length_flatMap, List.length_replicate, natToBytes_length,
    Mem.bytes_length, Dyn.bytes_length, fillBytes_length, List.map_const', List.sum_replicate, List.length_range,
    List.length_cons, List.length_nil]
  exact Nat.le_trans (Nat.min_le_left _ _) (by simp)

end Sys2Proof.Machine
end

