-- ==== Sys2Proof/Laws/PerInstr.lean ====
section
/-! SUPPORT. One statement for every instruction of the opcode table, and its proof for each constructor: its bits
decode to it (`Encodes`). -/

namespace Sys2Proof.Laws

set_option Elab.async false

/-- The bits of a well-formed instruction decode to it; an event of the part has no bits (R57 to R77, R193, R417, R436). -/
def Encodes.Statement (i : Instr) : Prop :=
  if i.source = .event then encode i = [] else i.wf = true → decode i.source (encode i) = .ok i

/-- A slot instruction whose word the slot's map reads back. -/
theorem slot_ok {i : Instr} {sl : Slot} {w : Word32} (hs : i.source = .slot sl)
    (he : encode i = natToBytes 4 (encodeWord i).toNat) (hw : encodeWord i = w) (hr : rawSlot sl w = .ok i) :
    Encodes.Statement i := by
  have hb : BitVec.ofNat 32 (bytesToNat (natToBytes 4 w.toNat)) = w := by
    apply BitVec.eq_of_toNat_eq
    have := w.isLt
    rw [bytesToNat_natToBytes, BitVec.toNat_ofNat]
    omega
  simp only [Encodes.Statement, hs, reduceCtorEq, if_false]
  intro hwf
  simp [decode, he, hw, hb, decodeSlot, hr, hwf]

/-- A micro-operation whose word the routine map reads back. -/
theorem uop_ok {i : Instr} {n : Nat} (hs : i.source = .routine) (he : encode i = natToBytes 8 (encodeUop i).toNat)
    (hw : encodeUop i = BitVec.ofNat 64 n) (hr : rawUop (BitVec.ofNat 64 n) = .ok i) : Encodes.Statement i := by
  have hb : ∀ w : Word64, BitVec.ofNat 64 (bytesToNat (natToBytes 8 w.toNat)) = w := by
    intro w
    apply BitVec.eq_of_toNat_eq
    have := w.isLt
    rw [bytesToNat_natToBytes, BitVec.toNat_ofNat]
    omega
  simp only [Encodes.Statement, hs, reduceCtorEq, if_false]
  intro hwf
  simp only [decode, he, natToBytes_length, if_true, decodeUop, hw, hb, hr, hwf, beq_self_eq_true, Bool.and_true]

/-- An event has no bits. -/
theorem event_ok {i : Instr} (hs : i.source = .event) (he : encode i = []) : Encodes.Statement i := by
  simp only [Encodes.Statement, hs, he, if_true]

/-- A host message that the decoder reads back from its bytes. -/
theorem msg_ok {i : Instr} (t : Nat) (m : HostMsg) (hs : i.source = .message) (he : encode i = msgBytes t m)
    (hd : i.wf = true → decodeMsg (msgBytes t m) = .ok i) : Encodes.Statement i := by
  simp only [Encodes.Statement, hs, reduceCtorEq, if_false, he, decode]
  exact hd

/-- A control command that the decoder reads back from its bytes. -/
theorem cmd_ok {i : Instr} (t : Nat) (m : HostCmd) (hs : i.source = .command) (he : encode i = cmdBytes t m)
    (hd : decodeCmd (cmdBytes t m) = .ok i) : Encodes.Statement i := by
  simp only [Encodes.Statement, hs, reduceCtorEq, if_false, he, decode]
  exact fun _ => hd

theorem Encodes.nop : Encodes.Statement .nop :=
  slot_ok rfl rfl rfl rfl

theorem Encodes.add (h : Hdr) (d : BitVec 5) (a : BitVec 5) (b : BitVec 5) : Encodes.Statement (.add h d a b) := by
  have b_d := d.isLt
  have b_a := a.isLt
  have b_b := b.isLt
  generalize hp : d.toNat * 8192 + a.toNat * 256 + b.toNat * 8 = pw
  have f_d := bits_of 13 pw d (by omega)
  have f_a := bits_of 8 pw a (by omega)
  have f_b := bits_of 3 pw b (by omega)
  have sel : pw / 1 % 8 = 0 := by omega
  refine slot_ok (w := slotWord 0x1 h pw) rfl rfl (by rw [← hp]; rfl) ?_
  rw [rawSlot_s (by decide) (by decide) (by omega)]
  simp only [rawS, f_d, f_a, f_b, sel]

theorem Encodes.sub (h : Hdr) (d : BitVec 5) (a : BitVec 5) (b : BitVec 5) : Encodes.Statement (.sub h d a b) := by
  have b_d := d.isLt
  have b_a := a.isLt
  have b_b := b.isLt
  generalize hp : d.toNat * 8192 + a.toNat * 256 + b.toNat * 8 + 1 = pw
  have f_d := bits_of 13 pw d (by omega)
  have f_a := bits_of 8 pw a (by omega)
  have f_b := bits_of 3 pw b (by omega)
  have sel : pw / 1 % 8 = 1 := by omega
  refine slot_ok (w := slotWord 0x1 h pw) rfl rfl (by rw [← hp]; rfl) ?_
  rw [rawSlot_s (by decide) (by decide) (by omega)]
  simp only [rawS, f_d, f_a, f_b, sel]

theorem Encodes.and (h : Hdr) (d : BitVec 5) (a : BitVec 5) (b : BitVec 5) : Encodes.Statement (.and h d a b) := by
  have b_d := d.isLt
  have b_a := a.isLt
  have b_b := b.isLt
  generalize hp : d.toNat * 8192 + a.toNat * 256 + b.toNat * 8 + 2 = pw
  have f_d := bits_of 13 pw d (by omega)
  have f_a := bits_of 8 pw a (by omega)
  have f_b := bits_of 3 pw b (by omega)
  have sel : pw / 1 % 8 = 2 := by omega
  refine slot_ok (w := slotWord 0x1 h pw) rfl rfl (by rw [← hp]; rfl) ?_
  rw [rawSlot_s (by decide) (by decide) (by omega)]
  simp only [rawS, f_d, f_a, f_b, sel]

theorem Encodes.or (h : Hdr) (d : BitVec 5) (a : BitVec 5) (b : BitVec 5) : Encodes.Statement (.or h d a b) := by
  have b_d := d.isLt
  have b_a := a.isLt
  have b_b := b.isLt
  generalize hp : d.toNat * 8192 + a.toNat * 256 + b.toNat * 8 + 3 = pw
  have f_d := bits_of 13 pw d (by omega)
  have f_a := bits_of 8 pw a (by omega)
  have f_b := bits_of 3 pw b (by omega)
  have sel : pw / 1 % 8 = 3 := by omega
  refine slot_ok (w := slotWord 0x1 h pw) rfl rfl (by rw [← hp]; rfl) ?_
  rw [rawSlot_s (by decide) (by decide) (by omega)]
  simp only [rawS, f_d, f_a, f_b, sel]

theorem Encodes.xor (h : Hdr) (d : BitVec 5) (a : BitVec 5) (b : BitVec 5) : Encodes.Statement (.xor h d a b) := by
  have b_d := d.isLt
  have b_a := a.isLt
  have b_b := b.isLt
  generalize hp : d.toNat * 8192 + a.toNat * 256 + b.toNat * 8 + 4 = pw
  have f_d := bits_of 13 pw d (by omega)
  have f_a := bits_of 8 pw a (by omega)
  have f_b := bits_of 3 pw b (by omega)
  have sel : pw / 1 % 8 = 4 := by omega
  refine slot_ok (w := slotWord 0x1 h pw) rfl rfl (by rw [← hp]; rfl) ?_
  rw [rawSlot_s (by decide) (by decide) (by omega)]
  simp only [rawS, f_d, f_a, f_b, sel]

theorem Encodes.andn (h : Hdr) (d : BitVec 5) (a : BitVec 5) (b : BitVec 5) : Encodes.Statement (.andn h d a b) := by
  have b_d := d.isLt
  have b_a := a.isLt
  have b_b := b.isLt
  generalize hp : d.toNat * 8192 + a.toNat * 256 + b.toNat * 8 + 5 = pw
  have f_d := bits_of 13 pw d (by omega)
  have f_a := bits_of 8 pw a (by omega)
  have f_b := bits_of 3 pw b (by omega)
  have sel : pw / 1 % 8 = 5 := by omega
  refine slot_ok (w := slotWord 0x1 h pw) rfl rfl (by rw [← hp]; rfl) ?_
  rw [rawSlot_s (by decide) (by decide) (by omega)]
  simp only [rawS, f_d, f_a, f_b, sel]

theorem Encodes.shl (h : Hdr) (d : BitVec 5) (a : BitVec 5) (b : BitVec 5) : Encodes.Statement (.shl h d a b) := by
  have b_d := d.isLt
  have b_a := a.isLt
  have b_b := b.isLt
  generalize hp : d.toNat * 8192 + a.toNat * 256 + b.toNat * 8 + 6 = pw
  have f_d := bits_of 13 pw d (by omega)
  have f_a := bits_of 8 pw a (by omega)
  have f_b := bits_of 3 pw b (by omega)
  have sel : pw / 1 % 8 = 6 := by omega
  refine slot_ok (w := slotWord 0x1 h pw) rfl rfl (by rw [← hp]; rfl) ?_
  rw [rawSlot_s (by decide) (by decide) (by omega)]
  simp only [rawS, f_d, f_a, f_b, sel]

theorem Encodes.shr (h : Hdr) (d : BitVec 5) (a : BitVec 5) (b : BitVec 5) : Encodes.Statement (.shr h d a b) := by
  have b_d := d.isLt
  have b_a := a.isLt
  have b_b := b.isLt
  generalize hp : d.toNat * 8192 + a.toNat * 256 + b.toNat * 8 + 7 = pw
  have f_d := bits_of 13 pw d (by omega)
  have f_a := bits_of 8 pw a (by omega)
  have f_b := bits_of 3 pw b (by omega)
  have sel : pw / 1 % 8 = 7 := by omega
  refine slot_ok (w := slotWord 0x1 h pw) rfl rfl (by rw [← hp]; rfl) ?_
  rw [rawSlot_s (by decide) (by decide) (by omega)]
  simp only [rawS, f_d, f_a, f_b, sel]

theorem Encodes.sar (h : Hdr) (d : BitVec 5) (a : BitVec 5) (b : BitVec 5) : Encodes.Statement (.sar h d a b) := by
  have b_d := d.isLt
  have b_a := a.isLt
  have b_b := b.isLt
  generalize hp : d.toNat * 8192 + a.toNat * 256 + b.toNat * 8 = pw
  have f_d := bits_of 13 pw d (by omega)
  have f_a := bits_of 8 pw a (by omega)
  have f_b := bits_of 3 pw b (by omega)
  have sel : pw / 1 % 8 = 0 := by omega
  refine slot_ok (w := slotWord 0x2 h pw) rfl rfl (by rw [← hp]; rfl) ?_
  rw [rawSlot_s (by decide) (by decide) (by omega)]
  simp only [rawS, f_d, f_a, f_b, sel]

theorem Encodes.rol (h : Hdr) (d : BitVec 5) (a : BitVec 5) (b : BitVec 5) : Encodes.Statement (.rol h d a b) := by
  have b_d := d.isLt
  have b_a := a.isLt
  have b_b := b.isLt
  generalize hp : d.toNat * 8192 + a.toNat * 256 + b.toNat * 8 + 1 = pw
  have f_d := bits_of 13 pw d (by omega)
  have f_a := bits_of 8 pw a (by omega)
  have f_b := bits_of 3 pw b (by omega)
  have sel : pw / 1 % 8 = 1 := by omega
  refine slot_ok (w := slotWord 0x2 h pw) rfl rfl (by rw [← hp]; rfl) ?_
  rw [rawSlot_s (by decide) (by decide) (by omega)]
  simp only [rawS, f_d, f_a, f_b, sel]

theorem Encodes.mins (h : Hdr) (d : BitVec 5) (a : BitVec 5) (b : BitVec 5) : Encodes.Statement (.mins h d a b) := by
  have b_d := d.isLt
  have b_a := a.isLt
  have b_b := b.isLt
  generalize hp : d.toNat * 8192 + a.toNat * 256 + b.toNat * 8 + 2 = pw
  have f_d := bits_of 13 pw d (by omega)
  have f_a := bits_of 8 pw a (by omega)
  have f_b := bits_of 3 pw b (by omega)
  have sel : pw / 1 % 8 = 2 := by omega
  refine slot_ok (w := slotWord 0x2 h pw) rfl rfl (by rw [← hp]; rfl) ?_
  rw [rawSlot_s (by decide) (by decide) (by omega)]
  simp only [rawS, f_d, f_a, f_b, sel]

theorem Encodes.maxs (h : Hdr) (d : BitVec 5) (a : BitVec 5) (b : BitVec 5) : Encodes.Statement (.maxs h d a b) := by
  have b_d := d.isLt
  have b_a := a.isLt
  have b_b := b.isLt
  generalize hp : d.toNat * 8192 + a.toNat * 256 + b.toNat * 8 + 3 = pw
  have f_d := bits_of 13 pw d (by omega)
  have f_a := bits_of 8 pw a (by omega)
  have f_b := bits_of 3 pw b (by omega)
  have sel : pw / 1 % 8 = 3 := by omega
  refine slot_ok (w := slotWord 0x2 h pw) rfl rfl (by rw [← hp]; rfl) ?_
  rw [rawSlot_s (by decide) (by decide) (by omega)]
  simp only [rawS, f_d, f_a, f_b, sel]

theorem Encodes.minu (h : Hdr) (d : BitVec 5) (a : BitVec 5) (b : BitVec 5) : Encodes.Statement (.minu h d a b) := by
  have b_d := d.isLt
  have b_a := a.isLt
  have b_b := b.isLt
  generalize hp : d.toNat * 8192 + a.toNat * 256 + b.toNat * 8 + 4 = pw
  have f_d := bits_of 13 pw d (by omega)
  have f_a := bits_of 8 pw a (by omega)
  have f_b := bits_of 3 pw b (by omega)
  have sel : pw / 1 % 8 = 4 := by omega
  refine slot_ok (w := slotWord 0x2 h pw) rfl rfl (by rw [← hp]; rfl) ?_
  rw [rawSlot_s (by decide) (by decide) (by omega)]
  simp only [rawS, f_d, f_a, f_b, sel]

theorem Encodes.maxu (h : Hdr) (d : BitVec 5) (a : BitVec 5) (b : BitVec 5) : Encodes.Statement (.maxu h d a b) := by
  have b_d := d.isLt
  have b_a := a.isLt
  have b_b := b.isLt
  generalize hp : d.toNat * 8192 + a.toNat * 256 + b.toNat * 8 + 5 = pw
  have f_d := bits_of 13 pw d (by omega)
  have f_a := bits_of 8 pw a (by omega)
  have f_b := bits_of 3 pw b (by omega)
  have sel : pw / 1 % 8 = 5 := by omega
  refine slot_ok (w := slotWord 0x2 h pw) rfl rfl (by rw [← hp]; rfl) ?_
  rw [rawSlot_s (by decide) (by decide) (by omega)]
  simp only [rawS, f_d, f_a, f_b, sel]

theorem Encodes.mul (h : Hdr) (d : BitVec 5) (a : BitVec 5) (b : BitVec 5) : Encodes.Statement (.mul h d a b) := by
  have b_d := d.isLt
  have b_a := a.isLt
  have b_b := b.isLt
  generalize hp : d.toNat * 8192 + a.toNat * 256 + b.toNat * 8 = pw
  have f_d := bits_of 13 pw d (by omega)
  have f_a := bits_of 8 pw a (by omega)
  have f_b := bits_of 3 pw b (by omega)
  have sel : pw / 1 % 8 = 0 := by omega
  refine slot_ok (w := slotWord 0x3 h pw) rfl rfl (by rw [← hp]; rfl) ?_
  rw [rawSlot_s (by decide) (by decide) (by omega)]
  simp only [rawS, f_d, f_a, f_b, sel]

theorem Encodes.mulhs (h : Hdr) (d : BitVec 5) (a : BitVec 5) (b : BitVec 5) : Encodes.Statement (.mulhs h d a b) := by
  have b_d := d.isLt
  have b_a := a.isLt
  have b_b := b.isLt
  generalize hp : d.toNat * 8192 + a.toNat * 256 + b.toNat * 8 + 1 = pw
  have f_d := bits_of 13 pw d (by omega)
  have f_a := bits_of 8 pw a (by omega)
  have f_b := bits_of 3 pw b (by omega)
  have sel : pw / 1 % 8 = 1 := by omega
  refine slot_ok (w := slotWord 0x3 h pw) rfl rfl (by rw [← hp]; rfl) ?_
  rw [rawSlot_s (by decide) (by decide) (by omega)]
  simp only [rawS, f_d, f_a, f_b, sel]

theorem Encodes.mulhu (h : Hdr) (d : BitVec 5) (a : BitVec 5) (b : BitVec 5) : Encodes.Statement (.mulhu h d a b) := by
  have b_d := d.isLt
  have b_a := a.isLt
  have b_b := b.isLt
  generalize hp : d.toNat * 8192 + a.toNat * 256 + b.toNat * 8 + 2 = pw
  have f_d := bits_of 13 pw d (by omega)
  have f_a := bits_of 8 pw a (by omega)
  have f_b := bits_of 3 pw b (by omega)
  have sel : pw / 1 % 8 = 2 := by omega
  refine slot_ok (w := slotWord 0x3 h pw) rfl rfl (by rw [← hp]; rfl) ?_
  rw [rawSlot_s (by decide) (by decide) (by omega)]
  simp only [rawS, f_d, f_a, f_b, sel]

theorem Encodes.divs (h : Hdr) (d : BitVec 5) (a : BitVec 5) (b : BitVec 5) : Encodes.Statement (.divs h d a b) := by
  have b_d := d.isLt
  have b_a := a.isLt
  have b_b := b.isLt
  generalize hp : d.toNat * 8192 + a.toNat * 256 + b.toNat * 8 + 3 = pw
  have f_d := bits_of 13 pw d (by omega)
  have f_a := bits_of 8 pw a (by omega)
  have f_b := bits_of 3 pw b (by omega)
  have sel : pw / 1 % 8 = 3 := by omega
  refine slot_ok (w := slotWord 0x3 h pw) rfl rfl (by rw [← hp]; rfl) ?_
  rw [rawSlot_s (by decide) (by decide) (by omega)]
  simp only [rawS, f_d, f_a, f_b, sel]

theorem Encodes.divu (h : Hdr) (d : BitVec 5) (a : BitVec 5) (b : BitVec 5) : Encodes.Statement (.divu h d a b) := by
  have b_d := d.isLt
  have b_a := a.isLt
  have b_b := b.isLt
  generalize hp : d.toNat * 8192 + a.toNat * 256 + b.toNat * 8 + 4 = pw
  have f_d := bits_of 13 pw d (by omega)
  have f_a := bits_of 8 pw a (by omega)
  have f_b := bits_of 3 pw b (by omega)
  have sel : pw / 1 % 8 = 4 := by omega
  refine slot_ok (w := slotWord 0x3 h pw) rfl rfl (by rw [← hp]; rfl) ?_
  rw [rawSlot_s (by decide) (by decide) (by omega)]
  simp only [rawS, f_d, f_a, f_b, sel]

theorem Encodes.rems (h : Hdr) (d : BitVec 5) (a : BitVec 5) (b : BitVec 5) : Encodes.Statement (.rems h d a b) := by
  have b_d := d.isLt
  have b_a := a.isLt
  have b_b := b.isLt
  generalize hp : d.toNat * 8192 + a.toNat * 256 + b.toNat * 8 + 5 = pw
  have f_d := bits_of 13 pw d (by omega)
  have f_a := bits_of 8 pw a (by omega)
  have f_b := bits_of 3 pw b (by omega)
  have sel : pw / 1 % 8 = 5 := by omega
  refine slot_ok (w := slotWord 0x3 h pw) rfl rfl (by rw [← hp]; rfl) ?_
  rw [rawSlot_s (by decide) (by decide) (by omega)]
  simp only [rawS, f_d, f_a, f_b, sel]

theorem Encodes.remu (h : Hdr) (d : BitVec 5) (a : BitVec 5) (b : BitVec 5) : Encodes.Statement (.remu h d a b) := by
  have b_d := d.isLt
  have b_a := a.isLt
  have b_b := b.isLt
  generalize hp : d.toNat * 8192 + a.toNat * 256 + b.toNat * 8 + 6 = pw
  have f_d := bits_of 13 pw d (by omega)
  have f_a := bits_of 8 pw a (by omega)
  have f_b := bits_of 3 pw b (by omega)
  have sel : pw / 1 % 8 = 6 := by omega
  refine slot_ok (w := slotWord 0x3 h pw) rfl rfl (by rw [← hp]; rfl) ?_
  rw [rawSlot_s (by decide) (by decide) (by omega)]
  simp only [rawS, f_d, f_a, f_b, sel]

theorem Encodes.mov (h : Hdr) (d : BitVec 5) (a : BitVec 5) : Encodes.Statement (.mov h d a) := by
  have b_d := d.isLt
  have b_a := a.isLt
  generalize hp : d.toNat * 8192 + a.toNat * 256 = pw
  have f_d := bits_of 13 pw d (by omega)
  have f_a := bits_of 8 pw a (by omega)
  have sel : pw / 8 % 32 = 0 := by omega
  refine slot_ok (w := slotWord 0x4 h pw) rfl rfl (by rw [← hp]; rfl) ?_
  rw [rawSlot_s (by decide) (by decide) (by omega)]
  simp only [rawS, f_d, f_a, sel]

theorem Encodes.clz (h : Hdr) (d : BitVec 5) (a : BitVec 5) : Encodes.Statement (.clz h d a) := by
  have b_d := d.isLt
  have b_a := a.isLt
  generalize hp : d.toNat * 8192 + a.toNat * 256 + 8 = pw
  have f_d := bits_of 13 pw d (by omega)
  have f_a := bits_of 8 pw a (by omega)
  have sel : pw / 8 % 32 = 1 := by omega
  refine slot_ok (w := slotWord 0x4 h pw) rfl rfl (by rw [← hp]; rfl) ?_
  rw [rawSlot_s (by decide) (by decide) (by omega)]
  simp only [rawS, f_d, f_a, sel]

theorem Encodes.ctz (h : Hdr) (d : BitVec 5) (a : BitVec 5) : Encodes.Statement (.ctz h d a) := by
  have b_d := d.isLt
  have b_a := a.isLt
  generalize hp : d.toNat * 8192 + a.toNat * 256 + 16 = pw
  have f_d := bits_of 13 pw d (by omega)
  have f_a := bits_of 8 pw a (by omega)
  have sel : pw / 8 % 32 = 2 := by omega
  refine slot_ok (w := slotWord 0x4 h pw) rfl rfl (by rw [← hp]; rfl) ?_
  rw [rawSlot_s (by decide) (by decide) (by omega)]
  simp only [rawS, f_d, f_a, sel]

theorem Encodes.popc (h : Hdr) (d : BitVec 5) (a : BitVec 5) : Encodes.Statement (.popc h d a) := by
  have b_d := d.isLt
  have b_a := a.isLt
  generalize hp : d.toNat * 8192 + a.toNat * 256 + 24 = pw
  have f_d := bits_of 13 pw d (by omega)
  have f_a := bits_of 8 pw a (by omega)
  have sel : pw / 8 % 32 = 3 := by omega
  refine slot_ok (w := slotWord 0x4 h pw) rfl rfl (by rw [← hp]; rfl) ?_
  rw [rawSlot_s (by decide) (by decide) (by omega)]
  simp only [rawS, f_d, f_a, sel]

theorem Encodes.brev (h : Hdr) (d : BitVec 5) (a : BitVec 5) : Encodes.Statement (.brev h d a) := by
  have b_d := d.isLt
  have b_a := a.isLt
  generalize hp : d.toNat * 8192 + a.toNat * 256 + 32 = pw
  have f_d := bits_of 13 pw d (by omega)
  have f_a := bits_of 8 pw a (by omega)
  have sel : pw / 8 % 32 = 4 := by omega
  refine slot_ok (w := slotWord 0x4 h pw) rfl rfl (by rw [← hp]; rfl) ?_
  rw [rawSlot_s (by decide) (by decide) (by omega)]
  simp only [rawS, f_d, f_a, sel]

theorem Encodes.sextb (h : Hdr) (d : BitVec 5) (a : BitVec 5) : Encodes.Statement (.sextb h d a) := by
  have b_d := d.isLt
  have b_a := a.isLt
  generalize hp : d.toNat * 8192 + a.toNat * 256 + 40 = pw
  have f_d := bits_of 13 pw d (by omega)
  have f_a := bits_of 8 pw a (by omega)
  have sel : pw / 8 % 32 = 5 := by omega
  refine slot_ok (w := slotWord 0x4 h pw) rfl rfl (by rw [← hp]; rfl) ?_
  rw [rawSlot_s (by decide) (by decide) (by omega)]
  simp only [rawS, f_d, f_a, sel]

theorem Encodes.sexth (h : Hdr) (d : BitVec 5) (a : BitVec 5) : Encodes.Statement (.sexth h d a) := by
  have b_d := d.isLt
  have b_a := a.isLt
  generalize hp : d.toNat * 8192 + a.toNat * 256 + 48 = pw
  have f_d := bits_of 13 pw d (by omega)
  have f_a := bits_of 8 pw a (by omega)
  have sel : pw / 8 % 32 = 6 := by omega
  refine slot_ok (w := slotWord 0x4 h pw) rfl rfl (by rw [← hp]; rfl) ?_
  rw [rawSlot_s (by decide) (by decide) (by omega)]
  simp only [rawS, f_d, f_a, sel]

theorem Encodes.sextw (h : Hdr) (d : BitVec 5) (a : BitVec 5) : Encodes.Statement (.sextw h d a) := by
  have b_d := d.isLt
  have b_a := a.isLt
  generalize hp : d.toNat * 8192 + a.toNat * 256 + 56 = pw
  have f_d := bits_of 13 pw d (by omega)
  have f_a := bits_of 8 pw a (by omega)
  have sel : pw / 8 % 32 = 7 := by omega
  refine slot_ok (w := slotWord 0x4 h pw) rfl rfl (by rw [← hp]; rfl) ?_
  rw [rawSlot_s (by decide) (by decide) (by omega)]
  simp only [rawS, f_d, f_a, sel]

theorem Encodes.zextb (h : Hdr) (d : BitVec 5) (a : BitVec 5) : Encodes.Statement (.zextb h d a) := by
  have b_d := d.isLt
  have b_a := a.isLt
  generalize hp : d.toNat * 8192 + a.toNat * 256 + 64 = pw
  have f_d := bits_of 13 pw d (by omega)
  have f_a := bits_of 8 pw a (by omega)
  have sel : pw / 8 % 32 = 8 := by omega
  refine slot_ok (w := slotWord 0x4 h pw) rfl rfl (by rw [← hp]; rfl) ?_
  rw [rawSlot_s (by decide) (by decide) (by omega)]
  simp only [rawS, f_d, f_a, sel]

theorem Encodes.zexth (h : Hdr) (d : BitVec 5) (a : BitVec 5) : Encodes.Statement (.zexth h d a) := by
  have b_d := d.isLt
  have b_a := a.isLt
  generalize hp : d.toNat * 8192 + a.toNat * 256 + 72 = pw
  have f_d := bits_of 13 pw d (by omega)
  have f_a := bits_of 8 pw a (by omega)
  have sel : pw / 8 % 32 = 9 := by omega
  refine slot_ok (w := slotWord 0x4 h pw) rfl rfl (by rw [← hp]; rfl) ?_
  rw [rawSlot_s (by decide) (by decide) (by omega)]
  simp only [rawS, f_d, f_a, sel]

theorem Encodes.zextw (h : Hdr) (d : BitVec 5) (a : BitVec 5) : Encodes.Statement (.zextw h d a) := by
  have b_d := d.isLt
  have b_a := a.isLt
  generalize hp : d.toNat * 8192 + a.toNat * 256 + 80 = pw
  have f_d := bits_of 13 pw d (by omega)
  have f_a := bits_of 8 pw a (by omega)
  have sel : pw / 8 % 32 = 10 := by omega
  refine slot_ok (w := slotWord 0x4 h pw) rfl rfl (by rw [← hp]; rfl) ?_
  rw [rawSlot_s (by decide) (by decide) (by omega)]
  simp only [rawS, f_d, f_a, sel]

theorem Encodes.lea (h : Hdr) (d : BitVec 5) (a : BitVec 5) (b : BitVec 5) (s : BitVec 3) : Encodes.Statement (.lea h d a b s) := by
  have b_d := d.isLt
  have b_a := a.isLt
  have b_b := b.isLt
  have b_s := s.isLt
  generalize hp : d.toNat * 8192 + a.toNat * 256 + b.toNat * 8 + s.toNat = pw
  have f_d := bits_of 13 pw d (by omega)
  have f_a := bits_of 8 pw a (by omega)
  have f_b := bits_of 3 pw b (by omega)
  have f_s := bits_of 0 pw s (by omega)
  refine slot_ok (w := slotWord 0x5 h pw) rfl rfl (by rw [← hp]; rfl) ?_
  rw [rawSlot_s (by decide) (by decide) (by omega)]
  simp only [rawS, f_d, f_a, f_b, f_s]

theorem Encodes.cmpEq (h : Hdr) (d : BitVec 4) (a : BitVec 5) (b : BitVec 5) : Encodes.Statement (.cmpEq h d a b) := by
  have b_d := d.isLt
  have b_a := a.isLt
  have b_b := b.isLt
  generalize hp : d.toNat * 8192 + a.toNat * 256 + b.toNat * 8 = pw
  have f_d := bits_of 13 pw d (by omega)
  have f_a := bits_of 8 pw a (by omega)
  have f_b := bits_of 3 pw b (by omega)
  have sel : pw / 1 % 8 = 0 := by omega
  refine slot_ok (w := slotWord 0x6 h pw) rfl rfl (by rw [← hp]; rfl) ?_
  rw [rawSlot_s (by decide) (by decide) (by omega)]
  simp only [rawS, f_d, f_a, f_b, sel]

theorem Encodes.cmpNe (h : Hdr) (d : BitVec 4) (a : BitVec 5) (b : BitVec 5) : Encodes.Statement (.cmpNe h d a b) := by
  have b_d := d.isLt
  have b_a := a.isLt
  have b_b := b.isLt
  generalize hp : d.toNat * 8192 + a.toNat * 256 + b.toNat * 8 + 1 = pw
  have f_d := bits_of 13 pw d (by omega)
  have f_a := bits_of 8 pw a (by omega)
  have f_b := bits_of 3 pw b (by omega)
  have sel : pw / 1 % 8 = 1 := by omega
  refine slot_ok (w := slotWord 0x6 h pw) rfl rfl (by rw [← hp]; rfl) ?_
  rw [rawSlot_s (by decide) (by decide) (by omega)]
  simp only [rawS, f_d, f_a, f_b, sel]

theorem Encodes.cmpLts (h : Hdr) (d : BitVec 4) (a : BitVec 5) (b : BitVec 5) : Encodes.Statement (.cmpLts h d a b) := by
  have b_d := d.isLt
  have b_a := a.isLt
  have b_b := b.isLt
  generalize hp : d.toNat * 8192 + a.toNat * 256 + b.toNat * 8 + 2 = pw
  have f_d := bits_of 13 pw d (by omega)
  have f_a := bits_of 8 pw a (by omega)
  have f_b := bits_of 3 pw b (by omega)
  have sel : pw / 1 % 8 = 2 := by omega
  refine slot_ok (w := slotWord 0x6 h pw) rfl rfl (by rw [← hp]; rfl) ?_
  rw [rawSlot_s (by decide) (by decide) (by omega)]
  simp only [rawS, f_d, f_a, f_b, sel]

theorem Encodes.cmpLtu (h : Hdr) (d : BitVec 4) (a : BitVec 5) (b : BitVec 5) : Encodes.Statement (.cmpLtu h d a b) := by
  have b_d := d.isLt
  have b_a := a.isLt
  have b_b := b.isLt
  generalize hp : d.toNat * 8192 + a.toNat * 256 + b.toNat * 8 + 3 = pw
  have f_d := bits_of 13 pw d (by omega)
  have f_a := bits_of 8 pw a (by omega)
  have f_b := bits_of 3 pw b (by omega)
  have sel : pw / 1 % 8 = 3 := by omega
  refine slot_ok (w := slotWord 0x6 h pw) rfl rfl (by rw [← hp]; rfl) ?_
  rw [rawSlot_s (by decide) (by decide) (by omega)]
  simp only [rawS, f_d, f_a, f_b, sel]

theorem Encodes.cmpLes (h : Hdr) (d : BitVec 4) (a : BitVec 5) (b : BitVec 5) : Encodes.Statement (.cmpLes h d a b) := by
  have b_d := d.isLt
  have b_a := a.isLt
  have b_b := b.isLt
  generalize hp : d.toNat * 8192 + a.toNat * 256 + b.toNat * 8 + 4 = pw
  have f_d := bits_of 13 pw d (by omega)
  have f_a := bits_of 8 pw a (by omega)
  have f_b := bits_of 3 pw b (by omega)
  have sel : pw / 1 % 8 = 4 := by omega
  refine slot_ok (w := slotWord 0x6 h pw) rfl rfl (by rw [← hp]; rfl) ?_
  rw [rawSlot_s (by decide) (by decide) (by omega)]
  simp only [rawS, f_d, f_a, f_b, sel]

theorem Encodes.cmpLeu (h : Hdr) (d : BitVec 4) (a : BitVec 5) (b : BitVec 5) : Encodes.Statement (.cmpLeu h d a b) := by
  have b_d := d.isLt
  have b_a := a.isLt
  have b_b := b.isLt
  generalize hp : d.toNat * 8192 + a.toNat * 256 + b.toNat * 8 + 5 = pw
  have f_d := bits_of 13 pw d (by omega)
  have f_a := bits_of 8 pw a (by omega)
  have f_b := bits_of 3 pw b (by omega)
  have sel : pw / 1 % 8 = 5 := by omega
  refine slot_ok (w := slotWord 0x6 h pw) rfl rfl (by rw [← hp]; rfl) ?_
  rw [rawSlot_s (by decide) (by decide) (by omega)]
  simp only [rawS, f_d, f_a, f_b, sel]

theorem Encodes.addi (h : Hdr) (d : BitVec 5) (a : BitVec 5) (i : BitVec 8) : Encodes.Statement (.addi h d a i) := by
  have b_d := d.isLt
  have b_a := a.isLt
  have b_i := i.isLt
  generalize hp : d.toNat * 8192 + a.toNat * 256 + i.toNat = pw
  have f_d := bits_of 13 pw d (by omega)
  have f_a := bits_of 8 pw a (by omega)
  have f_i := bits_of 0 pw i (by omega)
  refine slot_ok (w := slotWord 0x8 h pw) rfl rfl (by rw [← hp]; rfl) ?_
  rw [rawSlot_s (by decide) (by decide) (by omega)]
  simp only [rawS, f_d, f_a, f_i]

theorem Encodes.andi (h : Hdr) (d : BitVec 5) (a : BitVec 5) (i : BitVec 8) : Encodes.Statement (.andi h d a i) := by
  have b_d := d.isLt
  have b_a := a.isLt
  have b_i := i.isLt
  generalize hp : d.toNat * 8192 + a.toNat * 256 + i.toNat = pw
  have f_d := bits_of 13 pw d (by omega)
  have f_a := bits_of 8 pw a (by omega)
  have f_i := bits_of 0 pw i (by omega)
  refine slot_ok (w := slotWord 0x9 h pw) rfl rfl (by rw [← hp]; rfl) ?_
  rw [rawSlot_s (by decide) (by decide) (by omega)]
  simp only [rawS, f_d, f_a, f_i]

theorem Encodes.ori (h : Hdr) (d : BitVec 5) (a : BitVec 5) (i : BitVec 8) : Encodes.Statement (.ori h d a i) := by
  have b_d := d.isLt
  have b_a := a.isLt
  have b_i := i.isLt
  generalize hp : d.toNat * 8192 + a.toNat * 256 + i.toNat = pw
  have f_d := bits_of 13 pw d (by omega)
  have f_a := bits_of 8 pw a (by omega)
  have f_i := bits_of 0 pw i (by omega)
  refine slot_ok (w := slotWord 0xa h pw) rfl rfl (by rw [← hp]; rfl) ?_
  rw [rawSlot_s (by decide) (by decide) (by omega)]
  simp only [rawS, f_d, f_a, f_i]

theorem Encodes.xori (h : Hdr) (d : BitVec 5) (a : BitVec 5) (i : BitVec 8) : Encodes.Statement (.xori h d a i) := by
  have b_d := d.isLt
  have b_a := a.isLt
  have b_i := i.isLt
  generalize hp : d.toNat * 8192 + a.toNat * 256 + i.toNat = pw
  have f_d := bits_of 13 pw d (by omega)
  have f_a := bits_of 8 pw a (by omega)
  have f_i := bits_of 0 pw i (by omega)
  refine slot_ok (w := slotWord 0xb h pw) rfl rfl (by rw [← hp]; rfl) ?_
  rw [rawSlot_s (by decide) (by decide) (by omega)]
  simp only [rawS, f_d, f_a, f_i]

theorem Encodes.shli (h : Hdr) (d : BitVec 5) (a : BitVec 5) (i : BitVec 8) : Encodes.Statement (.shli h d a i) := by
  have b_d := d.isLt
  have b_a := a.isLt
  have b_i := i.isLt
  generalize hp : d.toNat * 8192 + a.toNat * 256 + i.toNat = pw
  have f_d := bits_of 13 pw d (by omega)
  have f_a := bits_of 8 pw a (by omega)
  have f_i := bits_of 0 pw i (by omega)
  refine slot_ok (w := slotWord 0xc h pw) rfl rfl (by rw [← hp]; rfl) ?_
  rw [rawSlot_s (by decide) (by decide) (by omega)]
  simp only [rawS, f_d, f_a, f_i]

theorem Encodes.shri (h : Hdr) (d : BitVec 5) (a : BitVec 5) (i : BitVec 8) : Encodes.Statement (.shri h d a i) := by
  have b_d := d.isLt
  have b_a := a.isLt
  have b_i := i.isLt
  generalize hp : d.toNat * 8192 + a.toNat * 256 + i.toNat = pw
  have f_d := bits_of 13 pw d (by omega)
  have f_a := bits_of 8 pw a (by omega)
  have f_i := bits_of 0 pw i (by omega)
  refine slot_ok (w := slotWord 0xd h pw) rfl rfl (by rw [← hp]; rfl) ?_
  rw [rawSlot_s (by decide) (by decide) (by omega)]
  simp only [rawS, f_d, f_a, f_i]

theorem Encodes.sari (h : Hdr) (d : BitVec 5) (a : BitVec 5) (i : BitVec 8) : Encodes.Statement (.sari h d a i) := by
  have b_d := d.isLt
  have b_a := a.isLt
  have b_i := i.isLt
  generalize hp : d.toNat * 8192 + a.toNat * 256 + i.toNat = pw
  have f_d := bits_of 13 pw d (by omega)
  have f_a := bits_of 8 pw a (by omega)
  have f_i := bits_of 0 pw i (by omega)
  refine slot_ok (w := slotWord 0xe h pw) rfl rfl (by rw [← hp]; rfl) ?_
  rw [rawSlot_s (by decide) (by decide) (by omega)]
  simp only [rawS, f_d, f_a, f_i]

theorem Encodes.cmpeqi (h : Hdr) (d : BitVec 4) (a : BitVec 5) (i : BitVec 8) : Encodes.Statement (.cmpeqi h d a i) := by
  have b_d := d.isLt
  have b_a := a.isLt
  have b_i := i.isLt
  generalize hp : d.toNat * 8192 + a.toNat * 256 + i.toNat = pw
  have f_d := bits_of 13 pw d (by omega)
  have f_a := bits_of 8 pw a (by omega)
  have f_i := bits_of 0 pw i (by omega)
  refine slot_ok (w := slotWord 0xf h pw) rfl rfl (by rw [← hp]; rfl) ?_
  rw [rawSlot_s (by decide) (by decide) (by omega)]
  simp only [rawS, f_d, f_a, f_i]

theorem Encodes.cmplti (h : Hdr) (d : BitVec 4) (a : BitVec 5) (i : BitVec 8) : Encodes.Statement (.cmplti h d a i) := by
  have b_d := d.isLt
  have b_a := a.isLt
  have b_i := i.isLt
  generalize hp : d.toNat * 8192 + a.toNat * 256 + i.toNat = pw
  have f_d := bits_of 13 pw d (by omega)
  have f_a := bits_of 8 pw a (by omega)
  have f_i := bits_of 0 pw i (by omega)
  refine slot_ok (w := slotWord 0x10 h pw) rfl rfl (by rw [← hp]; rfl) ?_
  rw [rawSlot_s (by decide) (by decide) (by omega)]
  simp only [rawS, f_d, f_a, f_i]

theorem Encodes.cmpltui (h : Hdr) (d : BitVec 4) (a : BitVec 5) (i : BitVec 8) : Encodes.Statement (.cmpltui h d a i) := by
  have b_d := d.isLt
  have b_a := a.isLt
  have b_i := i.isLt
  generalize hp : d.toNat * 8192 + a.toNat * 256 + i.toNat = pw
  have f_d := bits_of 13 pw d (by omega)
  have f_a := bits_of 8 pw a (by omega)
  have f_i := bits_of 0 pw i (by omega)
  refine slot_ok (w := slotWord 0x11 h pw) rfl rfl (by rw [← hp]; rfl) ?_
  rw [rawSlot_s (by decide) (by decide) (by omega)]
  simp only [rawS, f_d, f_a, f_i]

theorem Encodes.ldi (h : Hdr) (d : BitVec 5) (i : BitVec 13) : Encodes.Statement (.ldi h d i) := by
  have b_d := d.isLt
  have b_i := i.isLt
  generalize hp : d.toNat * 8192 + i.toNat = pw
  have f_d := bits_of 13 pw d (by omega)
  have f_i := bits_of 0 pw i (by omega)
  refine slot_ok (w := slotWord 0x12 h pw) rfl rfl (by rw [← hp]; rfl) ?_
  rw [rawSlot_s (by decide) (by decide) (by omega)]
  simp only [rawS, f_d, f_i]

theorem Encodes.lds (h : Hdr) (t : BitVec 5) (a : BitVec 5) (w : BitVec 3) (o : BitVec 5) : Encodes.Statement (.lds h t a w o) := by
  have b_t := t.isLt
  have b_a := a.isLt
  have b_w := w.isLt
  have b_o := o.isLt
  generalize hp : t.toNat * 8192 + a.toNat * 256 + w.toNat * 32 + o.toNat = pw
  have f_t := bits_of 13 pw t (by omega)
  have f_a := bits_of 8 pw a (by omega)
  have f_w := bits_of 5 pw w (by omega)
  have f_o := bits_of 0 pw o (by omega)
  refine slot_ok (w := slotWord 0x13 h pw) rfl rfl (by rw [← hp]; rfl) ?_
  rw [rawSlot_s (by decide) (by decide) (by omega)]
  simp only [rawS, f_t, f_a, f_w, f_o]

theorem Encodes.sts (h : Hdr) (t : BitVec 5) (a : BitVec 5) (w : BitVec 3) (o : BitVec 5) : Encodes.Statement (.sts h t a w o) := by
  have b_t := t.isLt
  have b_a := a.isLt
  have b_w := w.isLt
  have b_o := o.isLt
  generalize hp : t.toNat * 8192 + a.toNat * 256 + w.toNat * 32 + o.toNat = pw
  have f_t := bits_of 13 pw t (by omega)
  have f_a := bits_of 8 pw a (by omega)
  have f_w := bits_of 5 pw w (by omega)
  have f_o := bits_of 0 pw o (by omega)
  refine slot_ok (w := slotWord 0x14 h pw) rfl rfl (by rw [← hp]; rfl) ?_
  rw [rawSlot_s (by decide) (by decide) (by omega)]
  simp only [rawS, f_t, f_a, f_w, f_o]

theorem Encodes.pand (h : Hdr) (d : BitVec 4) (a : BitVec 4) (b : BitVec 4) : Encodes.Statement (.pand h d a b) := by
  have b_d := d.isLt
  have b_a := a.isLt
  have b_b := b.isLt
  generalize hp : d.toNat * 8192 + a.toNat * 256 + b.toNat * 8 = pw
  have f_d := bits_of 13 pw d (by omega)
  have f_a := bits_of 8 pw a (by omega)
  have f_b := bits_of 3 pw b (by omega)
  have sel : pw / 1 % 8 = 0 := by omega
  refine slot_ok (w := slotWord 0x15 h pw) rfl rfl (by rw [← hp]; rfl) ?_
  rw [rawSlot_s (by decide) (by decide) (by omega)]
  simp only [rawS, f_d, f_a, f_b, sel]

theorem Encodes.por (h : Hdr) (d : BitVec 4) (a : BitVec 4) (b : BitVec 4) : Encodes.Statement (.por h d a b) := by
  have b_d := d.isLt
  have b_a := a.isLt
  have b_b := b.isLt
  generalize hp : d.toNat * 8192 + a.toNat * 256 + b.toNat * 8 + 1 = pw
  have f_d := bits_of 13 pw d (by omega)
  have f_a := bits_of 8 pw a (by omega)
  have f_b := bits_of 3 pw b (by omega)
  have sel : pw / 1 % 8 = 1 := by omega
  refine slot_ok (w := slotWord 0x15 h pw) rfl rfl (by rw [← hp]; rfl) ?_
  rw [rawSlot_s (by decide) (by decide) (by omega)]
  simp only [rawS, f_d, f_a, f_b, sel]

theorem Encodes.pxor (h : Hdr) (d : BitVec 4) (a : BitVec 4) (b : BitVec 4) : Encodes.Statement (.pxor h d a b) := by
  have b_d := d.isLt
  have b_a := a.isLt
  have b_b := b.isLt
  generalize hp : d.toNat * 8192 + a.toNat * 256 + b.toNat * 8 + 2 = pw
  have f_d := bits_of 13 pw d (by omega)
  have f_a := bits_of 8 pw a (by omega)
  have f_b := bits_of 3 pw b (by omega)
  have sel : pw / 1 % 8 = 2 := by omega
  refine slot_ok (w := slotWord 0x15 h pw) rfl rfl (by rw [← hp]; rfl) ?_
  rw [rawSlot_s (by decide) (by decide) (by omega)]
  simp only [rawS, f_d, f_a, f_b, sel]

theorem Encodes.pandn (h : Hdr) (d : BitVec 4) (a : BitVec 4) (b : BitVec 4) : Encodes.Statement (.pandn h d a b) := by
  have b_d := d.isLt
  have b_a := a.isLt
  have b_b := b.isLt
  generalize hp : d.toNat * 8192 + a.toNat * 256 + b.toNat * 8 + 3 = pw
  have f_d := bits_of 13 pw d (by omega)
  have f_a := bits_of 8 pw a (by omega)
  have f_b := bits_of 3 pw b (by omega)
  have sel : pw / 1 % 8 = 3 := by omega
  refine slot_ok (w := slotWord 0x15 h pw) rfl rfl (by rw [← hp]; rfl) ?_
  rw [rawSlot_s (by decide) (by decide) (by omega)]
  simp only [rawS, f_d, f_a, f_b, sel]

theorem Encodes.pnot (h : Hdr) (d : BitVec 4) (a : BitVec 4) : Encodes.Statement (.pnot h d a) := by
  have b_d := d.isLt
  have b_a := a.isLt
  generalize hp : d.toNat * 8192 + a.toNat * 256 + 4 = pw
  have f_d := bits_of 13 pw d (by omega)
  have f_a := bits_of 8 pw a (by omega)
  have sel : pw / 1 % 8 = 4 := by omega
  refine slot_ok (w := slotWord 0x15 h pw) rfl rfl (by rw [← hp]; rfl) ?_
  rw [rawSlot_s (by decide) (by decide) (by omega)]
  simp only [rawS, f_d, f_a, sel]

theorem Encodes.pset (h : Hdr) (d : BitVec 4) : Encodes.Statement (.pset h d) := by
  have b_d := d.isLt
  generalize hp : d.toNat * 8192 + 5 = pw
  have f_d := bits_of 13 pw d (by omega)
  have sel : pw / 1 % 8 = 5 := by omega
  refine slot_ok (w := slotWord 0x15 h pw) rfl rfl (by rw [← hp]; rfl) ?_
  rw [rawSlot_s (by decide) (by decide) (by omega)]
  simp only [rawS, f_d, sel]

theorem Encodes.pclr (h : Hdr) (d : BitVec 4) : Encodes.Statement (.pclr h d) := by
  have b_d := d.isLt
  generalize hp : d.toNat * 8192 + 6 = pw
  have f_d := bits_of 13 pw d (by omega)
  have sel : pw / 1 % 8 = 6 := by omega
  refine slot_ok (w := slotWord 0x15 h pw) rfl rfl (by rw [← hp]; rfl) ?_
  rw [rawSlot_s (by decide) (by decide) (by omega)]
  simp only [rawS, f_d, sel]

theorem Encodes.pfrom (h : Hdr) (d : BitVec 4) (a : BitVec 5) : Encodes.Statement (.pfrom h d a) := by
  have b_d := d.isLt
  have b_a := a.isLt
  generalize hp : d.toNat * 8192 + a.toNat * 256 + 7 = pw
  have f_d := bits_of 13 pw d (by omega)
  have f_a := bits_of 8 pw a (by omega)
  have sel : pw / 1 % 8 = 7 := by omega
  refine slot_ok (w := slotWord 0x15 h pw) rfl rfl (by rw [← hp]; rfl) ?_
  rw [rawSlot_s (by decide) (by decide) (by omega)]
  simp only [rawS, f_d, f_a, sel]

theorem Encodes.pcnt (h : Hdr) (d : BitVec 5) (a : BitVec 4) : Encodes.Statement (.pcnt h d a) := by
  have b_d := d.isLt
  have b_a := a.isLt
  generalize hp : d.toNat * 8192 + a.toNat * 256 = pw
  have f_d := bits_of 13 pw d (by omega)
  have f_a := bits_of 8 pw a (by omega)
  have sel : pw / 1 % 8 = 0 := by omega
  refine slot_ok (w := slotWord 0x16 h pw) rfl rfl (by rw [← hp]; rfl) ?_
  rw [rawSlot_s (by decide) (by decide) (by omega)]
  simp only [rawS, f_d, f_a, sel]

theorem Encodes.pfirst (h : Hdr) (d : BitVec 5) (a : BitVec 4) : Encodes.Statement (.pfirst h d a) := by
  have b_d := d.isLt
  have b_a := a.isLt
  generalize hp : d.toNat * 8192 + a.toNat * 256 + 1 = pw
  have f_d := bits_of 13 pw d (by omega)
  have f_a := bits_of 8 pw a (by omega)
  have sel : pw / 1 % 8 = 1 := by omega
  refine slot_ok (w := slotWord 0x16 h pw) rfl rfl (by rw [← hp]; rfl) ?_
  rw [rawSlot_s (by decide) (by decide) (by omega)]
  simp only [rawS, f_d, f_a, sel]

theorem Encodes.br (h : Hdr) (o : BitVec 18) : Encodes.Statement (.br h o) := by
  have b_o := o.isLt
  generalize hp : o.toNat = pw
  have f_o := bits_of 0 pw o (by omega)
  refine slot_ok (w := slotWord 0x18 h pw) rfl rfl (by rw [← hp]; rfl) ?_
  rw [rawSlot_s (by decide) (by decide) (by omega)]
  simp only [rawS, f_o]

theorem Encodes.call (h : Hdr) (o : BitVec 18) : Encodes.Statement (.call h o) := by
  have b_o := o.isLt
  generalize hp : o.toNat = pw
  have f_o := bits_of 0 pw o (by omega)
  refine slot_ok (w := slotWord 0x19 h pw) rfl rfl (by rw [← hp]; rfl) ?_
  rw [rawSlot_s (by decide) (by decide) (by omega)]
  simp only [rawS, f_o]

theorem Encodes.bri (h : Hdr) (a : BitVec 5) : Encodes.Statement (.bri h a) := by
  have b_a := a.isLt
  generalize hp : a.toNat * 256 = pw
  have f_a := bits_of 8 pw a (by omega)
  refine slot_ok (w := slotWord 0x1a h pw) rfl rfl (by rw [← hp]; rfl) ?_
  rw [rawSlot_s (by decide) (by decide) (by omega)]
  simp only [rawS, f_a]

theorem Encodes.calli (h : Hdr) (a : BitVec 5) : Encodes.Statement (.calli h a) := by
  have b_a := a.isLt
  generalize hp : a.toNat * 256 = pw
  have f_a := bits_of 8 pw a (by omega)
  refine slot_ok (w := slotWord 0x1b h pw) rfl rfl (by rw [← hp]; rfl) ?_
  rw [rawSlot_s (by decide) (by decide) (by omega)]
  simp only [rawS, f_a]

theorem Encodes.ret (h : Hdr) : Encodes.Statement (.ret h) := by
  refine slot_ok (w := slotWord 0x1c h 0) rfl rfl rfl ?_
  rw [rawSlot_s (by decide) (by decide) (by omega)]
  simp only [rawS]

theorem Encodes.lset (h : Hdr) (d : BitVec 2) (a : BitVec 5) : Encodes.Statement (.lset h d a) := by
  have b_d := d.isLt
  have b_a := a.isLt
  generalize hp : d.toNat * 8192 + a.toNat * 256 = pw
  have f_d := bits_of 13 pw d (by omega)
  have f_a := bits_of 8 pw a (by omega)
  refine slot_ok (w := slotWord 0x1d h pw) rfl rfl (by rw [← hp]; rfl) ?_
  rw [rawSlot_s (by decide) (by decide) (by omega)]
  simp only [rawS, f_d, f_a]

theorem Encodes.lseti (h : Hdr) (d : BitVec 2) (i : BitVec 13) : Encodes.Statement (.lseti h d i) := by
  have b_d := d.isLt
  have b_i := i.isLt
  generalize hp : d.toNat * 8192 + i.toNat = pw
  have f_d := bits_of 13 pw d (by omega)
  have f_i := bits_of 0 pw i (by omega)
  refine slot_ok (w := slotWord 0x1e h pw) rfl rfl (by rw [← hp]; rfl) ?_
  rw [rawSlot_s (by decide) (by decide) (by omega)]
  simp only [rawS, f_d, f_i]

theorem Encodes.ltset (h : Hdr) (i : BitVec 13) : Encodes.Statement (.ltset h i) := by
  have b_i := i.isLt
  generalize hp : i.toNat = pw
  have f_i := bits_of 0 pw i (by omega)
  refine slot_ok (w := slotWord 0x1f h pw) rfl rfl (by rw [← hp]; rfl) ?_
  rw [rawSlot_s (by decide) (by decide) (by omega)]
  simp only [rawS, f_i]

theorem Encodes.loopf (h : Hdr) (c : BitVec 2) (o : BitVec 16) : Encodes.Statement (.loopf h c o) := by
  have b_c := c.isLt
  have b_o := o.isLt
  generalize hp : c.toNat * 65536 + o.toNat = pw
  have f_c := bits_of 16 pw c (by omega)
  have f_o := bits_of 0 pw o (by omega)
  refine slot_ok (w := slotWord 0x20 h pw) rfl rfl (by rw [← hp]; rfl) ?_
  rw [rawSlot_s (by decide) (by decide) (by omega)]
  simp only [rawS, f_c, f_o]

theorem Encodes.loop (h : Hdr) (c : BitVec 2) (o : BitVec 16) : Encodes.Statement (.loop h c o) := by
  have b_c := c.isLt
  have b_o := o.isLt
  generalize hp : c.toNat * 65536 + o.toNat = pw
  have f_c := bits_of 16 pw c (by omega)
  have f_o := bits_of 0 pw o (by omega)
  refine slot_ok (w := slotWord 0x21 h pw) rfl rfl (by rw [← hp]; rfl) ?_
  rw [rawSlot_s (by decide) (by decide) (by omega)]
  simp only [rawS, f_c, f_o]

theorem Encodes.movlrRead (h : Hdr) (d : BitVec 5) : Encodes.Statement (.movlrRead h d) := by
  have b_d := d.isLt
  generalize hp : d.toNat * 8192 = pw
  have f_d := bits_of 13 pw d (by omega)
  have sel : pw / 1 % 8 = 0 := by omega
  refine slot_ok (w := slotWord 0x22 h pw) rfl rfl (by rw [← hp]; rfl) ?_
  rw [rawSlot_s (by decide) (by decide) (by omega)]
  simp only [rawS, f_d, sel]

theorem Encodes.movlrWrite (h : Hdr) (a : BitVec 5) : Encodes.Statement (.movlrWrite h a) := by
  have b_a := a.isLt
  generalize hp : a.toNat * 256 + 1 = pw
  have f_a := bits_of 8 pw a (by omega)
  have sel : pw / 1 % 8 = 1 := by omega
  refine slot_ok (w := slotWord 0x22 h pw) rfl rfl (by rw [← hp]; rfl) ?_
  rw [rawSlot_s (by decide) (by decide) (by omega)]
  simp only [rawS, f_a, sel]

theorem Encodes.vadd (un : VUnit) (h : Hdr) (d : BitVec 5) (a : BitVec 5) (b : BitVec 5) (t : BitVec 3) : Encodes.Statement (.vadd un h d a b t) := by
  have b_d := d.isLt
  have b_a := a.isLt
  have b_b := b.isLt
  have b_t := t.isLt
  generalize hp : d.toNat * 8192 + a.toNat * 256 + b.toNat * 8 + t.toNat = pw
  have f_d := bits_of 13 pw d (by omega)
  have f_a := bits_of 8 pw a (by omega)
  have f_b := bits_of 3 pw b (by omega)
  have f_t := bits_of 0 pw t (by omega)
  refine slot_ok (w := slotWord 0x1 h pw) rfl rfl (by rw [← hp]; rfl) ?_
  rw [rawSlot_v un (by decide) (by decide) (by omega)]
  simp only [rawV, f_d, f_a, f_b, f_t]

theorem Encodes.vsub (un : VUnit) (h : Hdr) (d : BitVec 5) (a : BitVec 5) (b : BitVec 5) (t : BitVec 3) : Encodes.Statement (.vsub un h d a b t) := by
  have b_d := d.isLt
  have b_a := a.isLt
  have b_b := b.isLt
  have b_t := t.isLt
  generalize hp : d.toNat * 8192 + a.toNat * 256 + b.toNat * 8 + t.toNat = pw
  have f_d := bits_of 13 pw d (by omega)
  have f_a := bits_of 8 pw a (by omega)
  have f_b := bits_of 3 pw b (by omega)
  have f_t := bits_of 0 pw t (by omega)
  refine slot_ok (w := slotWord 0x2 h pw) rfl rfl (by rw [← hp]; rfl) ?_
  rw [rawSlot_v un (by decide) (by decide) (by omega)]
  simp only [rawV, f_d, f_a, f_b, f_t]

theorem Encodes.vmul (un : VUnit) (h : Hdr) (d : BitVec 5) (a : BitVec 5) (b : BitVec 5) (t : BitVec 3) : Encodes.Statement (.vmul un h d a b t) := by
  have b_d := d.isLt
  have b_a := a.isLt
  have b_b := b.isLt
  have b_t := t.isLt
  generalize hp : d.toNat * 8192 + a.toNat * 256 + b.toNat * 8 + t.toNat = pw
  have f_d := bits_of 13 pw d (by omega)
  have f_a := bits_of 8 pw a (by omega)
  have f_b := bits_of 3 pw b (by omega)
  have f_t := bits_of 0 pw t (by omega)
  refine slot_ok (w := slotWord 0x3 h pw) rfl rfl (by rw [← hp]; rfl) ?_
  rw [rawSlot_v un (by decide) (by decide) (by omega)]
  simp only [rawV, f_d, f_a, f_b, f_t]

theorem Encodes.vmulhs (un : VUnit) (h : Hdr) (d : BitVec 5) (a : BitVec 5) (b : BitVec 5) (t : BitVec 3) : Encodes.Statement (.vmulhs un h d a b t) := by
  have b_d := d.isLt
  have b_a := a.isLt
  have b_b := b.isLt
  have b_t := t.isLt
  generalize hp : d.toNat * 8192 + a.toNat * 256 + b.toNat * 8 + t.toNat = pw
  have f_d := bits_of 13 pw d (by omega)
  have f_a := bits_of 8 pw a (by omega)
  have f_b := bits_of 3 pw b (by omega)
  have f_t := bits_of 0 pw t (by omega)
  refine slot_ok (w := slotWord 0x4 h pw) rfl rfl (by rw [← hp]; rfl) ?_
  rw [rawSlot_v un (by decide) (by decide) (by omega)]
  simp only [rawV, f_d, f_a, f_b, f_t]

theorem Encodes.vmulhu (un : VUnit) (h : Hdr) (d : BitVec 5) (a : BitVec 5) (b : BitVec 5) (t : BitVec 3) : Encodes.Statement (.vmulhu un h d a b t) := by
  have b_d := d.isLt
  have b_a := a.isLt
  have b_b := b.isLt
  have b_t := t.isLt
  generalize hp : d.toNat * 8192 + a.toNat * 256 + b.toNat * 8 + t.toNat = pw
  have f_d := bits_of 13 pw d (by omega)
  have f_a := bits_of 8 pw a (by omega)
  have f_b := bits_of 3 pw b (by omega)
  have f_t := bits_of 0 pw t (by omega)
  refine slot_ok (w := slotWord 0x5 h pw) rfl rfl (by rw [← hp]; rfl) ?_
  rw [rawSlot_v un (by decide) (by decide) (by omega)]
  simp only [rawV, f_d, f_a, f_b, f_t]

theorem Encodes.vand (un : VUnit) (h : Hdr) (d : BitVec 5) (a : BitVec 5) (b : BitVec 5) (t : BitVec 3) : Encodes.Statement (.vand un h d a b t) := by
  have b_d := d.isLt
  have b_a := a.isLt
  have b_b := b.isLt
  have b_t := t.isLt
  generalize hp : d.toNat * 8192 + a.toNat * 256 + b.toNat * 8 + t.toNat = pw
  have f_d := bits_of 13 pw d (by omega)
  have f_a := bits_of 8 pw a (by omega)
  have f_b := bits_of 3 pw b (by omega)
  have f_t := bits_of 0 pw t (by omega)
  refine slot_ok (w := slotWord 0x6 h pw) rfl rfl (by rw [← hp]; rfl) ?_
  rw [rawSlot_v un (by decide) (by decide) (by omega)]
  simp only [rawV, f_d, f_a, f_b, f_t]

theorem Encodes.vor (un : VUnit) (h : Hdr) (d : BitVec 5) (a : BitVec 5) (b : BitVec 5) (t : BitVec 3) : Encodes.Statement (.vor un h d a b t) := by
  have b_d := d.isLt
  have b_a := a.isLt
  have b_b := b.isLt
  have b_t := t.isLt
  generalize hp : d.toNat * 8192 + a.toNat * 256 + b.toNat * 8 + t.toNat = pw
  have f_d := bits_of 13 pw d (by omega)
  have f_a := bits_of 8 pw a (by omega)
  have f_b := bits_of 3 pw b (by omega)
  have f_t := bits_of 0 pw t (by omega)
  refine slot_ok (w := slotWord 0x7 h pw) rfl rfl (by rw [← hp]; rfl) ?_
  rw [rawSlot_v un (by decide) (by decide) (by omega)]
  simp only [rawV, f_d, f_a, f_b, f_t]

theorem Encodes.vxor (un : VUnit) (h : Hdr) (d : BitVec 5) (a : BitVec 5) (b : BitVec 5) (t : BitVec 3) : Encodes.Statement (.vxor un h d a b t) := by
  have b_d := d.isLt
  have b_a := a.isLt
  have b_b := b.isLt
  have b_t := t.isLt
  generalize hp : d.toNat * 8192 + a.toNat * 256 + b.toNat * 8 + t.toNat = pw
  have f_d := bits_of 13 pw d (by omega)
  have f_a := bits_of 8 pw a (by omega)
  have f_b := bits_of 3 pw b (by omega)
  have f_t := bits_of 0 pw t (by omega)
  refine slot_ok (w := slotWord 0x8 h pw) rfl rfl (by rw [← hp]; rfl) ?_
  rw [rawSlot_v un (by decide) (by decide) (by omega)]
  simp only [rawV, f_d, f_a, f_b, f_t]

theorem Encodes.vshl (un : VUnit) (h : Hdr) (d : BitVec 5) (a : BitVec 5) (b : BitVec 5) (t : BitVec 3) : Encodes.Statement (.vshl un h d a b t) := by
  have b_d := d.isLt
  have b_a := a.isLt
  have b_b := b.isLt
  have b_t := t.isLt
  generalize hp : d.toNat * 8192 + a.toNat * 256 + b.toNat * 8 + t.toNat = pw
  have f_d := bits_of 13 pw d (by omega)
  have f_a := bits_of 8 pw a (by omega)
  have f_b := bits_of 3 pw b (by omega)
  have f_t := bits_of 0 pw t (by omega)
  refine slot_ok (w := slotWord 0x9 h pw) rfl rfl (by rw [← hp]; rfl) ?_
  rw [rawSlot_v un (by decide) (by decide) (by omega)]
  simp only [rawV, f_d, f_a, f_b, f_t]

theorem Encodes.vshr (un : VUnit) (h : Hdr) (d : BitVec 5) (a : BitVec 5) (b : BitVec 5) (t : BitVec 3) : Encodes.Statement (.vshr un h d a b t) := by
  have b_d := d.isLt
  have b_a := a.isLt
  have b_b := b.isLt
  have b_t := t.isLt
  generalize hp : d.toNat * 8192 + a.toNat * 256 + b.toNat * 8 + t.toNat = pw
  have f_d := bits_of 13 pw d (by omega)
  have f_a := bits_of 8 pw a (by omega)
  have f_b := bits_of 3 pw b (by omega)
  have f_t := bits_of 0 pw t (by omega)
  refine slot_ok (w := slotWord 0xa h pw) rfl rfl (by rw [← hp]; rfl) ?_
  rw [rawSlot_v un (by decide) (by decide) (by omega)]
  simp only [rawV, f_d, f_a, f_b, f_t]

theorem Encodes.vsar (un : VUnit) (h : Hdr) (d : BitVec 5) (a : BitVec 5) (b : BitVec 5) (t : BitVec 3) : Encodes.Statement (.vsar un h d a b t) := by
  have b_d := d.isLt
  have b_a := a.isLt
  have b_b := b.isLt
  have b_t := t.isLt
  generalize hp : d.toNat * 8192 + a.toNat * 256 + b.toNat * 8 + t.toNat = pw
  have f_d := bits_of 13 pw d (by omega)
  have f_a := bits_of 8 pw a (by omega)
  have f_b := bits_of 3 pw b (by omega)
  have f_t := bits_of 0 pw t (by omega)
  refine slot_ok (w := slotWord 0xb h pw) rfl rfl (by rw [← hp]; rfl) ?_
  rw [rawSlot_v un (by decide) (by decide) (by omega)]
  simp only [rawV, f_d, f_a, f_b, f_t]

theorem Encodes.vmins (un : VUnit) (h : Hdr) (d : BitVec 5) (a : BitVec 5) (b : BitVec 5) (t : BitVec 3) : Encodes.Statement (.vmins un h d a b t) := by
  have b_d := d.isLt
  have b_a := a.isLt
  have b_b := b.isLt
  have b_t := t.isLt
  generalize hp : d.toNat * 8192 + a.toNat * 256 + b.toNat * 8 + t.toNat = pw
  have f_d := bits_of 13 pw d (by omega)
  have f_a := bits_of 8 pw a (by omega)
  have f_b := bits_of 3 pw b (by omega)
  have f_t := bits_of 0 pw t (by omega)
  refine slot_ok (w := slotWord 0xc h pw) rfl rfl (by rw [← hp]; rfl) ?_
  rw [rawSlot_v un (by decide) (by decide) (by omega)]
  simp only [rawV, f_d, f_a, f_b, f_t]

theorem Encodes.vmaxs (un : VUnit) (h : Hdr) (d : BitVec 5) (a : BitVec 5) (b : BitVec 5) (t : BitVec 3) : Encodes.Statement (.vmaxs un h d a b t) := by
  have b_d := d.isLt
  have b_a := a.isLt
  have b_b := b.isLt
  have b_t := t.isLt
  generalize hp : d.toNat * 8192 + a.toNat * 256 + b.toNat * 8 + t.toNat = pw
  have f_d := bits_of 13 pw d (by omega)
  have f_a := bits_of 8 pw a (by omega)
  have f_b := bits_of 3 pw b (by omega)
  have f_t := bits_of 0 pw t (by omega)
  refine slot_ok (w := slotWord 0xd h pw) rfl rfl (by rw [← hp]; rfl) ?_
  rw [rawSlot_v un (by decide) (by decide) (by omega)]
  simp only [rawV, f_d, f_a, f_b, f_t]

theorem Encodes.vminu (un : VUnit) (h : Hdr) (d : BitVec 5) (a : BitVec 5) (b : BitVec 5) (t : BitVec 3) : Encodes.Statement (.vminu un h d a b t) := by
  have b_d := d.isLt
  have b_a := a.isLt
  have b_b := b.isLt
  have b_t := t.isLt
  generalize hp : d.toNat * 8192 + a.toNat * 256 + b.toNat * 8 + t.toNat = pw
  have f_d := bits_of 13 pw d (by omega)
  have f_a := bits_of 8 pw a (by omega)
  have f_b := bits_of 3 pw b (by omega)
  have f_t := bits_of 0 pw t (by omega)
  refine slot_ok (w := slotWord 0xe h pw) rfl rfl (by rw [← hp]; rfl) ?_
  rw [rawSlot_v un (by decide) (by decide) (by omega)]
  simp only [rawV, f_d, f_a, f_b, f_t]

theorem Encodes.vmaxu (un : VUnit) (h : Hdr) (d : BitVec 5) (a : BitVec 5) (b : BitVec 5) (t : BitVec 3) : Encodes.Statement (.vmaxu un h d a b t) := by
  have b_d := d.isLt
  have b_a := a.isLt
  have b_b := b.isLt
  have b_t := t.isLt
  generalize hp : d.toNat * 8192 + a.toNat * 256 + b.toNat * 8 + t.toNat = pw
  have f_d := bits_of 13 pw d (by omega)
  have f_a := bits_of 8 pw a (by omega)
  have f_b := bits_of 3 pw b (by omega)
  have f_t := bits_of 0 pw t (by omega)
  refine slot_ok (w := slotWord 0xf h pw) rfl rfl (by rw [← hp]; rfl) ?_
  rw [rawSlot_v un (by decide) (by decide) (by omega)]
  simp only [rawV, f_d, f_a, f_b, f_t]

theorem Encodes.vabs (un : VUnit) (h : Hdr) (d : BitVec 5) (a : BitVec 5) (t : BitVec 3) : Encodes.Statement (.vabs un h d a t) := by
  have b_d := d.isLt
  have b_a := a.isLt
  have b_t := t.isLt
  generalize hp : d.toNat * 8192 + a.toNat * 256 + t.toNat = pw
  have f_d := bits_of 13 pw d (by omega)
  have f_a := bits_of 8 pw a (by omega)
  have f_t := bits_of 0 pw t (by omega)
  refine slot_ok (w := slotWord 0x10 h pw) rfl rfl (by rw [← hp]; rfl) ?_
  rw [rawSlot_v un (by decide) (by decide) (by omega)]
  simp only [rawV, f_d, f_a, f_t]

theorem Encodes.vld (un : VUnit) (h : Hdr) (t : BitVec 5) (a : BitVec 5) (b : BitVec 5) (m : BitVec 3) : Encodes.Statement (.vld un h t a b m) := by
  have b_t := t.isLt
  have b_a := a.isLt
  have b_b := b.isLt
  have b_m := m.isLt
  generalize hp : t.toNat * 8192 + a.toNat * 256 + b.toNat * 8 + m.toNat = pw
  have f_t := bits_of 13 pw t (by omega)
  have f_a := bits_of 8 pw a (by omega)
  have f_b := bits_of 3 pw b (by omega)
  have f_m := bits_of 0 pw m (by omega)
  refine slot_ok (w := slotWord 0x11 h pw) rfl rfl (by rw [← hp]; rfl) ?_
  rw [rawSlot_v un (by decide) (by decide) (by omega)]
  simp only [rawV, f_t, f_a, f_b, f_m]

theorem Encodes.vcmpeq (un : VUnit) (h : Hdr) (d : BitVec 4) (a : BitVec 5) (b : BitVec 5) (t : BitVec 3) : Encodes.Statement (.vcmpeq un h d a b t) := by
  have b_d := d.isLt
  have b_a := a.isLt
  have b_b := b.isLt
  have b_t := t.isLt
  generalize hp : d.toNat * 8192 + a.toNat * 256 + b.toNat * 8 + t.toNat = pw
  have f_d := bits_of 13 pw d (by omega)
  have f_a := bits_of 8 pw a (by omega)
  have f_b := bits_of 3 pw b (by omega)
  have f_t := bits_of 0 pw t (by omega)
  refine slot_ok (w := slotWord 0x12 h pw) rfl rfl (by rw [← hp]; rfl) ?_
  rw [rawSlot_v un (by decide) (by decide) (by omega)]
  simp only [rawV, f_d, f_a, f_b, f_t]

theorem Encodes.vcmplts (un : VUnit) (h : Hdr) (d : BitVec 4) (a : BitVec 5) (b : BitVec 5) (t : BitVec 3) : Encodes.Statement (.vcmplts un h d a b t) := by
  have b_d := d.isLt
  have b_a := a.isLt
  have b_b := b.isLt
  have b_t := t.isLt
  generalize hp : d.toNat * 8192 + a.toNat * 256 + b.toNat * 8 + t.toNat = pw
  have f_d := bits_of 13 pw d (by omega)
  have f_a := bits_of 8 pw a (by omega)
  have f_b := bits_of 3 pw b (by omega)
  have f_t := bits_of 0 pw t (by omega)
  refine slot_ok (w := slotWord 0x13 h pw) rfl rfl (by rw [← hp]; rfl) ?_
  rw [rawSlot_v un (by decide) (by decide) (by omega)]
  simp only [rawV, f_d, f_a, f_b, f_t]

theorem Encodes.vcmpltu (un : VUnit) (h : Hdr) (d : BitVec 4) (a : BitVec 5) (b : BitVec 5) (t : BitVec 3) : Encodes.Statement (.vcmpltu un h d a b t) := by
  have b_d := d.isLt
  have b_a := a.isLt
  have b_b := b.isLt
  have b_t := t.isLt
  generalize hp : d.toNat * 8192 + a.toNat * 256 + b.toNat * 8 + t.toNat = pw
  have f_d := bits_of 13 pw d (by omega)
  have f_a := bits_of 8 pw a (by omega)
  have f_b := bits_of 3 pw b (by omega)
  have f_t := bits_of 0 pw t (by omega)
  refine slot_ok (w := slotWord 0x14 h pw) rfl rfl (by rw [← hp]; rfl) ?_
  rw [rawSlot_v un (by decide) (by decide) (by omega)]
  simp only [rawV, f_d, f_a, f_b, f_t]

theorem Encodes.vcmples (un : VUnit) (h : Hdr) (d : BitVec 4) (a : BitVec 5) (b : BitVec 5) (t : BitVec 3) : Encodes.Statement (.vcmples un h d a b t) := by
  have b_d := d.isLt
  have b_a := a.isLt
  have b_b := b.isLt
  have b_t := t.isLt
  generalize hp : d.toNat * 8192 + a.toNat * 256 + b.toNat * 8 + t.toNat = pw
  have f_d := bits_of 13 pw d (by omega)
  have f_a := bits_of 8 pw a (by omega)
  have f_b := bits_of 3 pw b (by omega)
  have f_t := bits_of 0 pw t (by omega)
  refine slot_ok (w := slotWord 0x15 h pw) rfl rfl (by rw [← hp]; rfl) ?_
  rw [rawSlot_v un (by decide) (by decide) (by omega)]
  simp only [rawV, f_d, f_a, f_b, f_t]

theorem Encodes.vsplat (un : VUnit) (h : Hdr) (d : BitVec 5) (a : BitVec 5) (t : BitVec 3) : Encodes.Statement (.vsplat un h d a t) := by
  have b_d := d.isLt
  have b_a := a.isLt
  have b_t := t.isLt
  generalize hp : d.toNat * 8192 + a.toNat * 256 + t.toNat = pw
  have f_d := bits_of 13 pw d (by omega)
  have f_a := bits_of 8 pw a (by omega)
  have f_t := bits_of 0 pw t (by omega)
  refine slot_ok (w := slotWord 0x16 h pw) rfl rfl (by rw [← hp]; rfl) ?_
  rw [rawSlot_v un (by decide) (by decide) (by omega)]
  simp only [rawV, f_d, f_a, f_t]

theorem Encodes.vext (un : VUnit) (h : Hdr) (d : BitVec 5) (a : BitVec 5) (b : BitVec 5) (t : BitVec 3) : Encodes.Statement (.vext un h d a b t) := by
  have b_d := d.isLt
  have b_a := a.isLt
  have b_b := b.isLt
  have b_t := t.isLt
  generalize hp : d.toNat * 8192 + a.toNat * 256 + b.toNat * 8 + t.toNat = pw
  have f_d := bits_of 13 pw d (by omega)
  have f_a := bits_of 8 pw a (by omega)
  have f_b := bits_of 3 pw b (by omega)
  have f_t := bits_of 0 pw t (by omega)
  refine slot_ok (w := slotWord 0x17 h pw) rfl rfl (by rw [← hp]; rfl) ?_
  rw [rawSlot_v un (by decide) (by decide) (by omega)]
  simp only [rawV, f_d, f_a, f_b, f_t]

theorem Encodes.vfadd (un : VUnit) (h : Hdr) (d : BitVec 5) (a : BitVec 5) (b : BitVec 5) (t : BitVec 3) : Encodes.Statement (.vfadd un h d a b t) := by
  have b_d := d.isLt
  have b_a := a.isLt
  have b_b := b.isLt
  have b_t := t.isLt
  generalize hp : d.toNat * 8192 + a.toNat * 256 + b.toNat * 8 + t.toNat = pw
  have f_d := bits_of 13 pw d (by omega)
  have f_a := bits_of 8 pw a (by omega)
  have f_b := bits_of 3 pw b (by omega)
  have f_t := bits_of 0 pw t (by omega)
  refine slot_ok (w := slotWord 0x18 h pw) rfl rfl (by rw [← hp]; rfl) ?_
  rw [rawSlot_v un (by decide) (by decide) (by omega)]
  simp only [rawV, f_d, f_a, f_b, f_t]

theorem Encodes.vfsub (un : VUnit) (h : Hdr) (d : BitVec 5) (a : BitVec 5) (b : BitVec 5) (t : BitVec 3) : Encodes.Statement (.vfsub un h d a b t) := by
  have b_d := d.isLt
  have b_a := a.isLt
  have b_b := b.isLt
  have b_t := t.isLt
  generalize hp : d.toNat * 8192 + a.toNat * 256 + b.toNat * 8 + t.toNat = pw
  have f_d := bits_of 13 pw d (by omega)
  have f_a := bits_of 8 pw a (by omega)
  have f_b := bits_of 3 pw b (by omega)
  have f_t := bits_of 0 pw t (by omega)
  refine slot_ok (w := slotWord 0x19 h pw) rfl rfl (by rw [← hp]; rfl) ?_
  rw [rawSlot_v un (by decide) (by decide) (by omega)]
  simp only [rawV, f_d, f_a, f_b, f_t]

theorem Encodes.vfmul (un : VUnit) (h : Hdr) (d : BitVec 5) (a : BitVec 5) (b : BitVec 5) (t : BitVec 3) : Encodes.Statement (.vfmul un h d a b t) := by
  have b_d := d.isLt
  have b_a := a.isLt
  have b_b := b.isLt
  have b_t := t.isLt
  generalize hp : d.toNat * 8192 + a.toNat * 256 + b.toNat * 8 + t.toNat = pw
  have f_d := bits_of 13 pw d (by omega)
  have f_a := bits_of 8 pw a (by omega)
  have f_b := bits_of 3 pw b (by omega)
  have f_t := bits_of 0 pw t (by omega)
  refine slot_ok (w := slotWord 0x1a h pw) rfl rfl (by rw [← hp]; rfl) ?_
  rw [rawSlot_v un (by decide) (by decide) (by omega)]
  simp only [rawV, f_d, f_a, f_b, f_t]

theorem Encodes.vfma (un : VUnit) (h : Hdr) (d : BitVec 5) (a : BitVec 5) (b : BitVec 5) (t : BitVec 3) : Encodes.Statement (.vfma un h d a b t) := by
  have b_d := d.isLt
  have b_a := a.isLt
  have b_b := b.isLt
  have b_t := t.isLt
  generalize hp : d.toNat * 8192 + a.toNat * 256 + b.toNat * 8 + t.toNat = pw
  have f_d := bits_of 13 pw d (by omega)
  have f_a := bits_of 8 pw a (by omega)
  have f_b := bits_of 3 pw b (by omega)
  have f_t := bits_of 0 pw t (by omega)
  refine slot_ok (w := slotWord 0x1b h pw) rfl rfl (by rw [← hp]; rfl) ?_
  rw [rawSlot_v un (by decide) (by decide) (by omega)]
  simp only [rawV, f_d, f_a, f_b, f_t]

theorem Encodes.vfms (un : VUnit) (h : Hdr) (d : BitVec 5) (a : BitVec 5) (b : BitVec 5) (t : BitVec 3) : Encodes.Statement (.vfms un h d a b t) := by
  have b_d := d.isLt
  have b_a := a.isLt
  have b_b := b.isLt
  have b_t := t.isLt
  generalize hp : d.toNat * 8192 + a.toNat * 256 + b.toNat * 8 + t.toNat = pw
  have f_d := bits_of 13 pw d (by omega)
  have f_a := bits_of 8 pw a (by omega)
  have f_b := bits_of 3 pw b (by omega)
  have f_t := bits_of 0 pw t (by omega)
  refine slot_ok (w := slotWord 0x1c h pw) rfl rfl (by rw [← hp]; rfl) ?_
  rw [rawSlot_v un (by decide) (by decide) (by omega)]
  simp only [rawV, f_d, f_a, f_b, f_t]

theorem Encodes.vfnma (un : VUnit) (h : Hdr) (d : BitVec 5) (a : BitVec 5) (b : BitVec 5) (t : BitVec 3) : Encodes.Statement (.vfnma un h d a b t) := by
  have b_d := d.isLt
  have b_a := a.isLt
  have b_b := b.isLt
  have b_t := t.isLt
  generalize hp : d.toNat * 8192 + a.toNat * 256 + b.toNat * 8 + t.toNat = pw
  have f_d := bits_of 13 pw d (by omega)
  have f_a := bits_of 8 pw a (by omega)
  have f_b := bits_of 3 pw b (by omega)
  have f_t := bits_of 0 pw t (by omega)
  refine slot_ok (w := slotWord 0x1d h pw) rfl rfl (by rw [← hp]; rfl) ?_
  rw [rawSlot_v un (by decide) (by decide) (by omega)]
  simp only [rawV, f_d, f_a, f_b, f_t]

theorem Encodes.vfnms (un : VUnit) (h : Hdr) (d : BitVec 5) (a : BitVec 5) (b : BitVec 5) (t : BitVec 3) : Encodes.Statement (.vfnms un h d a b t) := by
  have b_d := d.isLt
  have b_a := a.isLt
  have b_b := b.isLt
  have b_t := t.isLt
  generalize hp : d.toNat * 8192 + a.toNat * 256 + b.toNat * 8 + t.toNat = pw
  have f_d := bits_of 13 pw d (by omega)
  have f_a := bits_of 8 pw a (by omega)
  have f_b := bits_of 3 pw b (by omega)
  have f_t := bits_of 0 pw t (by omega)
  refine slot_ok (w := slotWord 0x1e h pw) rfl rfl (by rw [← hp]; rfl) ?_
  rw [rawSlot_v un (by decide) (by decide) (by omega)]
  simp only [rawV, f_d, f_a, f_b, f_t]

theorem Encodes.vfmin (un : VUnit) (h : Hdr) (d : BitVec 5) (a : BitVec 5) (b : BitVec 5) (t : BitVec 3) : Encodes.Statement (.vfmin un h d a b t) := by
  have b_d := d.isLt
  have b_a := a.isLt
  have b_b := b.isLt
  have b_t := t.isLt
  generalize hp : d.toNat * 8192 + a.toNat * 256 + b.toNat * 8 + t.toNat = pw
  have f_d := bits_of 13 pw d (by omega)
  have f_a := bits_of 8 pw a (by omega)
  have f_b := bits_of 3 pw b (by omega)
  have f_t := bits_of 0 pw t (by omega)
  refine slot_ok (w := slotWord 0x1f h pw) rfl rfl (by rw [← hp]; rfl) ?_
  rw [rawSlot_v un (by decide) (by decide) (by omega)]
  simp only [rawV, f_d, f_a, f_b, f_t]

theorem Encodes.vfmax (un : VUnit) (h : Hdr) (d : BitVec 5) (a : BitVec 5) (b : BitVec 5) (t : BitVec 3) : Encodes.Statement (.vfmax un h d a b t) := by
  have b_d := d.isLt
  have b_a := a.isLt
  have b_b := b.isLt
  have b_t := t.isLt
  generalize hp : d.toNat * 8192 + a.toNat * 256 + b.toNat * 8 + t.toNat = pw
  have f_d := bits_of 13 pw d (by omega)
  have f_a := bits_of 8 pw a (by omega)
  have f_b := bits_of 3 pw b (by omega)
  have f_t := bits_of 0 pw t (by omega)
  refine slot_ok (w := slotWord 0x20 h pw) rfl rfl (by rw [← hp]; rfl) ?_
  rw [rawSlot_v un (by decide) (by decide) (by omega)]
  simp only [rawV, f_d, f_a, f_b, f_t]

theorem Encodes.vfabs (un : VUnit) (h : Hdr) (d : BitVec 5) (a : BitVec 5) (t : BitVec 3) : Encodes.Statement (.vfabs un h d a t) := by
  have b_d := d.isLt
  have b_a := a.isLt
  have b_t := t.isLt
  generalize hp : d.toNat * 8192 + a.toNat * 256 + t.toNat = pw
  have f_d := bits_of 13 pw d (by omega)
  have f_a := bits_of 8 pw a (by omega)
  have f_t := bits_of 0 pw t (by omega)
  refine slot_ok (w := slotWord 0x21 h pw) rfl rfl (by rw [← hp]; rfl) ?_
  rw [rawSlot_v un (by decide) (by decide) (by omega)]
  simp only [rawV, f_d, f_a, f_t]

theorem Encodes.vfneg (un : VUnit) (h : Hdr) (d : BitVec 5) (a : BitVec 5) (t : BitVec 3) : Encodes.Statement (.vfneg un h d a t) := by
  have b_d := d.isLt
  have b_a := a.isLt
  have b_t := t.isLt
  generalize hp : d.toNat * 8192 + a.toNat * 256 + t.toNat = pw
  have f_d := bits_of 13 pw d (by omega)
  have f_a := bits_of 8 pw a (by omega)
  have f_t := bits_of 0 pw t (by omega)
  refine slot_ok (w := slotWord 0x22 h pw) rfl rfl (by rw [← hp]; rfl) ?_
  rw [rawSlot_v un (by decide) (by decide) (by omega)]
  simp only [rawV, f_d, f_a, f_t]

theorem Encodes.vfcmpeq (un : VUnit) (h : Hdr) (d : BitVec 4) (a : BitVec 5) (b : BitVec 5) (t : BitVec 3) : Encodes.Statement (.vfcmpeq un h d a b t) := by
  have b_d := d.isLt
  have b_a := a.isLt
  have b_b := b.isLt
  have b_t := t.isLt
  generalize hp : d.toNat * 8192 + a.toNat * 256 + b.toNat * 8 + t.toNat = pw
  have f_d := bits_of 13 pw d (by omega)
  have f_a := bits_of 8 pw a (by omega)
  have f_b := bits_of 3 pw b (by omega)
  have f_t := bits_of 0 pw t (by omega)
  refine slot_ok (w := slotWord 0x23 h pw) rfl rfl (by rw [← hp]; rfl) ?_
  rw [rawSlot_v un (by decide) (by decide) (by omega)]
  simp only [rawV, f_d, f_a, f_b, f_t]

theorem Encodes.vfcmplt (un : VUnit) (h : Hdr) (d : BitVec 4) (a : BitVec 5) (b : BitVec 5) (t : BitVec 3) : Encodes.Statement (.vfcmplt un h d a b t) := by
  have b_d := d.isLt
  have b_a := a.isLt
  have b_b := b.isLt
  have b_t := t.isLt
  generalize hp : d.toNat * 8192 + a.toNat * 256 + b.toNat * 8 + t.toNat = pw
  have f_d := bits_of 13 pw d (by omega)
  have f_a := bits_of 8 pw a (by omega)
  have f_b := bits_of 3 pw b (by omega)
  have f_t := bits_of 0 pw t (by omega)
  refine slot_ok (w := slotWord 0x24 h pw) rfl rfl (by rw [← hp]; rfl) ?_
  rw [rawSlot_v un (by decide) (by decide) (by omega)]
  simp only [rawV, f_d, f_a, f_b, f_t]

theorem Encodes.vfcmple (un : VUnit) (h : Hdr) (d : BitVec 4) (a : BitVec 5) (b : BitVec 5) (t : BitVec 3) : Encodes.Statement (.vfcmple un h d a b t) := by
  have b_d := d.isLt
  have b_a := a.isLt
  have b_b := b.isLt
  have b_t := t.isLt
  generalize hp : d.toNat * 8192 + a.toNat * 256 + b.toNat * 8 + t.toNat = pw
  have f_d := bits_of 13 pw d (by omega)
  have f_a := bits_of 8 pw a (by omega)
  have f_b := bits_of 3 pw b (by omega)
  have f_t := bits_of 0 pw t (by omega)
  refine slot_ok (w := slotWord 0x25 h pw) rfl rfl (by rw [← hp]; rfl) ?_
  rw [rawSlot_v un (by decide) (by decide) (by omega)]
  simp only [rawV, f_d, f_a, f_b, f_t]

theorem Encodes.vfclass (un : VUnit) (h : Hdr) (d : BitVec 5) (a : BitVec 5) (t : BitVec 3) : Encodes.Statement (.vfclass un h d a t) := by
  have b_d := d.isLt
  have b_a := a.isLt
  have b_t := t.isLt
  generalize hp : d.toNat * 8192 + a.toNat * 256 + t.toNat = pw
  have f_d := bits_of 13 pw d (by omega)
  have f_a := bits_of 8 pw a (by omega)
  have f_t := bits_of 0 pw t (by omega)
  refine slot_ok (w := slotWord 0x26 h pw) rfl rfl (by rw [← hp]; rfl) ?_
  rw [rawSlot_v un (by decide) (by decide) (by omega)]
  simp only [rawV, f_d, f_a, f_t]

theorem Encodes.viota (un : VUnit) (h : Hdr) (d : BitVec 5) (t : BitVec 3) : Encodes.Statement (.viota un h d t) := by
  have b_d := d.isLt
  have b_t := t.isLt
  generalize hp : d.toNat * 8192 + t.toNat = pw
  have f_d := bits_of 13 pw d (by omega)
  have f_t := bits_of 0 pw t (by omega)
  refine slot_ok (w := slotWord 0x27 h pw) rfl rfl (by rw [← hp]; rfl) ?_
  rw [rawSlot_v un (by decide) (by decide) (by omega)]
  simp only [rawV, f_d, f_t]

theorem Encodes.vcvt (un : VUnit) (h : Hdr) (d : BitVec 5) (a : BitVec 5) (t : BitVec 4) (f : BitVec 4) : Encodes.Statement (.vcvt un h d a t f) := by
  have b_d := d.isLt
  have b_a := a.isLt
  have b_t := t.isLt
  have b_f := f.isLt
  generalize hp : d.toNat * 8192 + a.toNat * 256 + t.toNat * 16 + f.toNat = pw
  have f_d := bits_of 13 pw d (by omega)
  have f_a := bits_of 8 pw a (by omega)
  have f_t := bits_of 4 pw t (by omega)
  have f_f := bits_of 0 pw f (by omega)
  refine slot_ok (w := slotWord 0x28 h pw) rfl rfl (by rw [← hp]; rfl) ?_
  rw [rawSlot_v un (by decide) (by decide) (by omega)]
  simp only [rawV, f_d, f_a, f_t, f_f]

theorem Encodes.vcvts (un : VUnit) (h : Hdr) (d : BitVec 5) (a : BitVec 5) (t : BitVec 4) (f : BitVec 4) : Encodes.Statement (.vcvts un h d a t f) := by
  have b_d := d.isLt
  have b_a := a.isLt
  have b_t := t.isLt
  have b_f := f.isLt
  generalize hp : d.toNat * 8192 + a.toNat * 256 + t.toNat * 16 + f.toNat = pw
  have f_d := bits_of 13 pw d (by omega)
  have f_a := bits_of 8 pw a (by omega)
  have f_t := bits_of 4 pw t (by omega)
  have f_f := bits_of 0 pw f (by omega)
  refine slot_ok (w := slotWord 0x29 h pw) rfl rfl (by rw [← hp]; rfl) ?_
  rw [rawSlot_v un (by decide) (by decide) (by omega)]
  simp only [rawV, f_d, f_a, f_t, f_f]

theorem Encodes.vpack (un : VUnit) (h : Hdr) (d : BitVec 5) (a : BitVec 5) (b : BitVec 5) (t : BitVec 3) : Encodes.Statement (.vpack un h d a b t) := by
  have b_d := d.isLt
  have b_a := a.isLt
  have b_b := b.isLt
  have b_t := t.isLt
  generalize hp : d.toNat * 8192 + a.toNat * 256 + b.toNat * 8 + t.toNat = pw
  have f_d := bits_of 13 pw d (by omega)
  have f_a := bits_of 8 pw a (by omega)
  have f_b := bits_of 3 pw b (by omega)
  have f_t := bits_of 0 pw t (by omega)
  refine slot_ok (w := slotWord 0x2a h pw) rfl rfl (by rw [← hp]; rfl) ?_
  rw [rawSlot_v un (by decide) (by decide) (by omega)]
  simp only [rawV, f_d, f_a, f_b, f_t]

theorem Encodes.vunpkl (un : VUnit) (h : Hdr) (d : BitVec 5) (a : BitVec 5) (t : BitVec 3) : Encodes.Statement (.vunpkl un h d a t) := by
  have b_d := d.isLt
  have b_a := a.isLt
  have b_t := t.isLt
  generalize hp : d.toNat * 8192 + a.toNat * 256 + t.toNat = pw
  have f_d := bits_of 13 pw d (by omega)
  have f_a := bits_of 8 pw a (by omega)
  have f_t := bits_of 0 pw t (by omega)
  refine slot_ok (w := slotWord 0x2b h pw) rfl rfl (by rw [← hp]; rfl) ?_
  rw [rawSlot_v un (by decide) (by decide) (by omega)]
  simp only [rawV, f_d, f_a, f_t]

theorem Encodes.vunpkh (un : VUnit) (h : Hdr) (d : BitVec 5) (a : BitVec 5) (t : BitVec 3) : Encodes.Statement (.vunpkh un h d a t) := by
  have b_d := d.isLt
  have b_a := a.isLt
  have b_t := t.isLt
  generalize hp : d.toNat * 8192 + a.toNat * 256 + t.toNat = pw
  have f_d := bits_of 13 pw d (by omega)
  have f_a := bits_of 8 pw a (by omega)
  have f_t := bits_of 0 pw t (by omega)
  refine slot_ok (w := slotWord 0x2c h pw) rfl rfl (by rw [← hp]; rfl) ?_
  rw [rawSlot_v un (by decide) (by decide) (by omega)]
  simp only [rawV, f_d, f_a, f_t]

theorem Encodes.vqnf (un : VUnit) (h : Hdr) (d : BitVec 5) (a : BitVec 5) (b : BitVec 5) (t : BitVec 3) : Encodes.Statement (.vqnf un h d a b t) := by
  have b_d := d.isLt
  have b_a := a.isLt
  have b_b := b.isLt
  have b_t := t.isLt
  generalize hp : d.toNat * 8192 + a.toNat * 256 + b.toNat * 8 + t.toNat = pw
  have f_d := bits_of 13 pw d (by omega)
  have f_a := bits_of 8 pw a (by omega)
  have f_b := bits_of 3 pw b (by omega)
  have f_t := bits_of 0 pw t (by omega)
  refine slot_ok (w := slotWord 0x2d h pw) rfl rfl (by rw [← hp]; rfl) ?_
  rw [rawSlot_v un (by decide) (by decide) (by omega)]
  simp only [rawV, f_d, f_a, f_b, f_t]

theorem Encodes.vdqnf (un : VUnit) (h : Hdr) (d : BitVec 5) (a : BitVec 5) (b : BitVec 5) (t : BitVec 3) : Encodes.Statement (.vdqnf un h d a b t) := by
  have b_d := d.isLt
  have b_a := a.isLt
  have b_b := b.isLt
  have b_t := t.isLt
  generalize hp : d.toNat * 8192 + a.toNat * 256 + b.toNat * 8 + t.toNat = pw
  have f_d := bits_of 13 pw d (by omega)
  have f_a := bits_of 8 pw a (by omega)
  have f_b := bits_of 3 pw b (by omega)
  have f_t := bits_of 0 pw t (by omega)
  refine slot_ok (w := slotWord 0x2e h pw) rfl rfl (by rw [← hp]; rfl) ?_
  rw [rawSlot_v un (by decide) (by decide) (by omega)]
  simp only [rawV, f_d, f_a, f_b, f_t]

theorem Encodes.vhash (un : VUnit) (h : Hdr) (d : BitVec 5) (a : BitVec 5) (b : BitVec 5) : Encodes.Statement (.vhash un h d a b) := by
  have b_d := d.isLt
  have b_a := a.isLt
  have b_b := b.isLt
  generalize hp : d.toNat * 8192 + a.toNat * 256 + b.toNat * 8 = pw
  have f_d := bits_of 13 pw d (by omega)
  have f_a := bits_of 8 pw a (by omega)
  have f_b := bits_of 3 pw b (by omega)
  refine slot_ok (w := slotWord 0x2f h pw) rfl rfl (by rw [← hp]; rfl) ?_
  rw [rawSlot_v un (by decide) (by decide) (by omega)]
  simp only [rawV, f_d, f_a, f_b]

theorem Encodes.vrcp (un : VUnit) (h : Hdr) (d : BitVec 5) (a : BitVec 5) : Encodes.Statement (.vrcp un h d a) := by
  have b_d := d.isLt
  have b_a := a.isLt
  generalize hp : d.toNat * 8192 + a.toNat * 256 + 6 = pw
  have f_d := bits_of 13 pw d (by omega)
  have f_a := bits_of 8 pw a (by omega)
  refine slot_ok (w := slotWord 0x30 h pw) rfl rfl (by rw [← hp]; rfl) ?_
  rw [rawSlot_v un (by decide) (by decide) (by omega)]
  simp only [rawV, f_d, f_a]

theorem Encodes.vrsq (un : VUnit) (h : Hdr) (d : BitVec 5) (a : BitVec 5) : Encodes.Statement (.vrsq un h d a) := by
  have b_d := d.isLt
  have b_a := a.isLt
  generalize hp : d.toNat * 8192 + a.toNat * 256 + 6 = pw
  have f_d := bits_of 13 pw d (by omega)
  have f_a := bits_of 8 pw a (by omega)
  refine slot_ok (w := slotWord 0x31 h pw) rfl rfl (by rw [← hp]; rfl) ?_
  rw [rawSlot_v un (by decide) (by decide) (by omega)]
  simp only [rawV, f_d, f_a]

theorem Encodes.vsqrt (un : VUnit) (h : Hdr) (d : BitVec 5) (a : BitVec 5) (t : BitVec 1) : Encodes.Statement (.vsqrt un h d a t) := by
  have b_d := d.isLt
  have b_a := a.isLt
  have b_t := t.isLt
  generalize hp : d.toNat * 8192 + a.toNat * 256 + t.toNat + 6 = pw
  have f_d := bits_of 13 pw d (by omega)
  have f_a := bits_of 8 pw a (by omega)
  have f_t := bits_of 0 pw t (by omega)
  refine slot_ok (w := slotWord 0x32 h pw) rfl rfl (by rw [← hp]; rfl) ?_
  rw [rawSlot_v un (by decide) (by decide) (by omega)]
  simp only [rawV, f_d, f_a, f_t]

theorem Encodes.vdiv (un : VUnit) (h : Hdr) (d : BitVec 5) (a : BitVec 5) (b : BitVec 5) (t : BitVec 1) : Encodes.Statement (.vdiv un h d a b t) := by
  have b_d := d.isLt
  have b_a := a.isLt
  have b_b := b.isLt
  have b_t := t.isLt
  generalize hp : d.toNat * 8192 + a.toNat * 256 + b.toNat * 8 + t.toNat + 6 = pw
  have f_d := bits_of 13 pw d (by omega)
  have f_a := bits_of 8 pw a (by omega)
  have f_b := bits_of 3 pw b (by omega)
  have f_t := bits_of 0 pw t (by omega)
  refine slot_ok (w := slotWord 0x33 h pw) rfl rfl (by rw [← hp]; rfl) ?_
  rw [rawSlot_v un (by decide) (by decide) (by omega)]
  simp only [rawV, f_d, f_a, f_b, f_t]

theorem Encodes.vexp2 (un : VUnit) (h : Hdr) (d : BitVec 5) (a : BitVec 5) : Encodes.Statement (.vexp2 un h d a) := by
  have b_d := d.isLt
  have b_a := a.isLt
  generalize hp : d.toNat * 8192 + a.toNat * 256 + 6 = pw
  have f_d := bits_of 13 pw d (by omega)
  have f_a := bits_of 8 pw a (by omega)
  refine slot_ok (w := slotWord 0x34 h pw) rfl rfl (by rw [← hp]; rfl) ?_
  rw [rawSlot_v un (by decide) (by decide) (by omega)]
  simp only [rawV, f_d, f_a]

theorem Encodes.vlog2 (un : VUnit) (h : Hdr) (d : BitVec 5) (a : BitVec 5) : Encodes.Statement (.vlog2 un h d a) := by
  have b_d := d.isLt
  have b_a := a.isLt
  generalize hp : d.toNat * 8192 + a.toNat * 256 + 6 = pw
  have f_d := bits_of 13 pw d (by omega)
  have f_a := bits_of 8 pw a (by omega)
  refine slot_ok (w := slotWord 0x35 h pw) rfl rfl (by rw [← hp]; rfl) ?_
  rw [rawSlot_v un (by decide) (by decide) (by omega)]
  simp only [rawV, f_d, f_a]

theorem Encodes.vsinpi (un : VUnit) (h : Hdr) (d : BitVec 5) (a : BitVec 5) : Encodes.Statement (.vsinpi un h d a) := by
  have b_d := d.isLt
  have b_a := a.isLt
  generalize hp : d.toNat * 8192 + a.toNat * 256 + 6 = pw
  have f_d := bits_of 13 pw d (by omega)
  have f_a := bits_of 8 pw a (by omega)
  refine slot_ok (w := slotWord 0x36 h pw) rfl rfl (by rw [← hp]; rfl) ?_
  rw [rawSlot_v un (by decide) (by decide) (by omega)]
  simp only [rawV, f_d, f_a]

theorem Encodes.vcospi (un : VUnit) (h : Hdr) (d : BitVec 5) (a : BitVec 5) : Encodes.Statement (.vcospi un h d a) := by
  have b_d := d.isLt
  have b_a := a.isLt
  generalize hp : d.toNat * 8192 + a.toNat * 256 + 6 = pw
  have f_d := bits_of 13 pw d (by omega)
  have f_a := bits_of 8 pw a (by omega)
  refine slot_ok (w := slotWord 0x37 h pw) rfl rfl (by rw [← hp]; rfl) ?_
  rw [rawSlot_v un (by decide) (by decide) (by omega)]
  simp only [rawV, f_d, f_a]

theorem Encodes.vtanh (un : VUnit) (h : Hdr) (d : BitVec 5) (a : BitVec 5) : Encodes.Statement (.vtanh un h d a) := by
  have b_d := d.isLt
  have b_a := a.isLt
  generalize hp : d.toNat * 8192 + a.toNat * 256 + 6 = pw
  have f_d := bits_of 13 pw d (by omega)
  have f_a := bits_of 8 pw a (by omega)
  refine slot_ok (w := slotWord 0x38 h pw) rfl rfl (by rw [← hp]; rfl) ?_
  rw [rawSlot_v un (by decide) (by decide) (by omega)]
  simp only [rawV, f_d, f_a]

theorem Encodes.vrsum (un : VUnit) (h : Hdr) (d : BitVec 5) (a : BitVec 5) (t : BitVec 3) : Encodes.Statement (.vrsum un h d a t) := by
  have b_d := d.isLt
  have b_a := a.isLt
  have b_t := t.isLt
  generalize hp : d.toNat * 8192 + a.toNat * 256 + t.toNat = pw
  have f_d := bits_of 13 pw d (by omega)
  have f_a := bits_of 8 pw a (by omega)
  have f_t := bits_of 0 pw t (by omega)
  refine slot_ok (w := slotWord 0x39 h pw) rfl rfl (by rw [← hp]; rfl) ?_
  rw [rawSlot_v un (by decide) (by decide) (by omega)]
  simp only [rawV, f_d, f_a, f_t]

theorem Encodes.vrmax (un : VUnit) (h : Hdr) (d : BitVec 5) (a : BitVec 5) (t : BitVec 3) : Encodes.Statement (.vrmax un h d a t) := by
  have b_d := d.isLt
  have b_a := a.isLt
  have b_t := t.isLt
  generalize hp : d.toNat * 8192 + a.toNat * 256 + t.toNat = pw
  have f_d := bits_of 13 pw d (by omega)
  have f_a := bits_of 8 pw a (by omega)
  have f_t := bits_of 0 pw t (by omega)
  refine slot_ok (w := slotWord 0x3a h pw) rfl rfl (by rw [← hp]; rfl) ?_
  rw [rawSlot_v un (by decide) (by decide) (by omega)]
  simp only [rawV, f_d, f_a, f_t]

theorem Encodes.vrmin (un : VUnit) (h : Hdr) (d : BitVec 5) (a : BitVec 5) (t : BitVec 3) : Encodes.Statement (.vrmin un h d a t) := by
  have b_d := d.isLt
  have b_a := a.isLt
  have b_t := t.isLt
  generalize hp : d.toNat * 8192 + a.toNat * 256 + t.toNat = pw
  have f_d := bits_of 13 pw d (by omega)
  have f_a := bits_of 8 pw a (by omega)
  have f_t := bits_of 0 pw t (by omega)
  refine slot_ok (w := slotWord 0x3b h pw) rfl rfl (by rw [← hp]; rfl) ?_
  rw [rawSlot_v un (by decide) (by decide) (by omega)]
  simp only [rawV, f_d, f_a, f_t]

theorem Encodes.vramax (un : VUnit) (h : Hdr) (d : BitVec 5) (a : BitVec 5) (t : BitVec 3) : Encodes.Statement (.vramax un h d a t) := by
  have b_d := d.isLt
  have b_a := a.isLt
  have b_t := t.isLt
  generalize hp : d.toNat * 8192 + a.toNat * 256 + t.toNat = pw
  have f_d := bits_of 13 pw d (by omega)
  have f_a := bits_of 8 pw a (by omega)
  have f_t := bits_of 0 pw t (by omega)
  refine slot_ok (w := slotWord 0x3c h pw) rfl rfl (by rw [← hp]; rfl) ?_
  rw [rawSlot_v un (by decide) (by decide) (by omega)]
  simp only [rawV, f_d, f_a, f_t]

theorem Encodes.vperm (un : VUnit) (h : Hdr) (d : BitVec 5) (a : BitVec 5) (b : BitVec 5) (f : BitVec 1) : Encodes.Statement (.vperm un h d a b f) := by
  have b_d := d.isLt
  have b_a := a.isLt
  have b_b := b.isLt
  have b_f := f.isLt
  generalize hp : d.toNat * 8192 + a.toNat * 256 + b.toNat * 8 + f.toNat + 2 = pw
  have f_d := bits_of 13 pw d (by omega)
  have f_a := bits_of 8 pw a (by omega)
  have f_b := bits_of 3 pw b (by omega)
  have f_f := bits_of 0 pw f (by omega)
  refine slot_ok (w := slotWord 0x3d h pw) rfl rfl (by rw [← hp]; rfl) ?_
  rw [rawSlot_v un (by decide) (by decide) (by omega)]
  simp only [rawV, f_d, f_a, f_b, f_f]

theorem Encodes.vxcl (un : VUnit) (h : Hdr) (d : BitVec 5) (a : BitVec 5) (b : BitVec 5) (f : BitVec 1) : Encodes.Statement (.vxcl un h d a b f) := by
  have b_d := d.isLt
  have b_a := a.isLt
  have b_b := b.isLt
  have b_f := f.isLt
  generalize hp : d.toNat * 8192 + a.toNat * 256 + b.toNat * 8 + f.toNat + 2 = pw
  have f_d := bits_of 13 pw d (by omega)
  have f_a := bits_of 8 pw a (by omega)
  have f_b := bits_of 3 pw b (by omega)
  have f_f := bits_of 0 pw f (by omega)
  refine slot_ok (w := slotWord 0x3e h pw) rfl rfl (by rw [← hp]; rfl) ?_
  rw [rawSlot_v un (by decide) (by decide) (by omega)]
  simp only [rawV, f_d, f_a, f_b, f_f]

theorem Encodes.vst (un : VUnit) (h : Hdr) (t : BitVec 5) (a : BitVec 5) (b : BitVec 5) (m : BitVec 3) : Encodes.Statement (.vst un h t a b m) := by
  have b_t := t.isLt
  have b_a := a.isLt
  have b_b := b.isLt
  have b_m := m.isLt
  generalize hp : t.toNat * 8192 + a.toNat * 256 + b.toNat * 8 + m.toNat = pw
  have f_t := bits_of 13 pw t (by omega)
  have f_a := bits_of 8 pw a (by omega)
  have f_b := bits_of 3 pw b (by omega)
  have f_m := bits_of 0 pw m (by omega)
  refine slot_ok (w := slotWord 0x3f h pw) rfl rfl (by rw [← hp]; rfl) ?_
  rw [rawSlot_v un (by decide) (by decide) (by omega)]
  simp only [rawV, f_t, f_a, f_b, f_m]

theorem Encodes.mcall (h : Hdr) (k : BitVec 4) (i : BitVec 10) (p : BitVec 2) (d : BitVec 1) : Encodes.Statement (.mcall h k i p d) := by
  have b_k := k.isLt
  have b_i := i.isLt
  have b_p := p.isLt
  have b_d := d.isLt
  generalize hp : k.toNat * 16384 + i.toNat * 16 + p.toNat * 4 + d.toNat * 2 = pw
  have f_k := bits_of 14 pw k (by omega)
  have f_i := bits_of 4 pw i (by omega)
  have f_p := bits_of 2 pw p (by omega)
  have f_d := bits_of 1 pw d (by omega)
  refine slot_ok (w := slotWord 0x1 h pw) rfl rfl (by rw [← hp]; rfl) ?_
  rw [rawSlot_m (by decide) (by decide) (by omega)]
  simp only [rawM, f_k, f_i, f_p, f_d]

theorem Encodes.mset (h : Hdr) (d : BitVec 3) (a : BitVec 5) : Encodes.Statement (.mset h d a) := by
  have b_d := d.isLt
  have b_a := a.isLt
  generalize hp : d.toNat * 8192 + a.toNat * 256 = pw
  have f_d := bits_of 13 pw d (by omega)
  have f_a := bits_of 8 pw a (by omega)
  refine slot_ok (w := slotWord 0x2 h pw) rfl rfl (by rw [← hp]; rfl) ?_
  rw [rawSlot_m (by decide) (by decide) (by omega)]
  simp only [rawM, f_d, f_a]

theorem Encodes.mseti (h : Hdr) (d : BitVec 3) (i : BitVec 13) : Encodes.Statement (.mseti h d i) := by
  have b_d := d.isLt
  have b_i := i.isLt
  generalize hp : d.toNat * 8192 + i.toNat = pw
  have f_d := bits_of 13 pw d (by omega)
  have f_i := bits_of 0 pw i (by omega)
  refine slot_ok (w := slotWord 0x3 h pw) rfl rfl (by rw [← hp]; rfl) ?_
  rw [rawSlot_m (by decide) (by decide) (by omega)]
  simp only [rawM, f_d, f_i]

theorem Encodes.mldr (h : Hdr) (d : BitVec 5) (a : BitVec 5) (b : BitVec 5) : Encodes.Statement (.mldr h d a b) := by
  have b_d := d.isLt
  have b_a := a.isLt
  have b_b := b.isLt
  generalize hp : d.toNat * 8192 + a.toNat * 256 + b.toNat * 8 = pw
  have f_d := bits_of 13 pw d (by omega)
  have f_a := bits_of 8 pw a (by omega)
  have f_b := bits_of 3 pw b (by omega)
  refine slot_ok (w := slotWord 0x4 h pw) rfl rfl (by rw [← hp]; rfl) ?_
  rw [rawSlot_m (by decide) (by decide) (by omega)]
  simp only [rawM, f_d, f_a, f_b]

theorem Encodes.copy (un : CUnit) (h : Hdr) (k : BitVec 4) (a : BitVec 5) (p : BitVec 2) (d : BitVec 1) (q : BitVec 4) (c : BitVec 1) : Encodes.Statement (.copy un h k a p d q c) := by
  have b_k := k.isLt
  have b_a := a.isLt
  have b_p := p.isLt
  have b_d := d.isLt
  have b_q := q.isLt
  have b_c := c.isLt
  generalize hp : k.toNat * 16384 + a.toNat * 512 + p.toNat * 128 + d.toNat * 64 + q.toNat * 4 + c.toNat * 2 = pw
  have f_k := bits_of 14 pw k (by omega)
  have f_a := bits_of 9 pw a (by omega)
  have f_p := bits_of 7 pw p (by omega)
  have f_d := bits_of 6 pw d (by omega)
  have f_q := bits_of 2 pw q (by omega)
  have f_c := bits_of 1 pw c (by omega)
  refine slot_ok (w := slotWord 0x1 h pw) rfl rfl (by rw [← hp]; rfl) ?_
  rw [rawSlot_c un (by decide) (by decide) (by omega)]
  simp only [rawC, f_k, f_a, f_p, f_d, f_q, f_c]

theorem Encodes.coll (un : CUnit) (h : Hdr) (k : BitVec 4) (a : BitVec 5) (p : BitVec 2) (d : BitVec 1) (q : BitVec 4) (c : BitVec 1) : Encodes.Statement (.coll un h k a p d q c) := by
  have b_k := k.isLt
  have b_a := a.isLt
  have b_p := p.isLt
  have b_d := d.isLt
  have b_q := q.isLt
  have b_c := c.isLt
  generalize hp : k.toNat * 16384 + a.toNat * 512 + p.toNat * 128 + d.toNat * 64 + q.toNat * 4 + c.toNat * 2 = pw
  have f_k := bits_of 14 pw k (by omega)
  have f_a := bits_of 9 pw a (by omega)
  have f_p := bits_of 7 pw p (by omega)
  have f_d := bits_of 6 pw d (by omega)
  have f_q := bits_of 2 pw q (by omega)
  have f_c := bits_of 1 pw c (by omega)
  refine slot_ok (w := slotWord 0x2 h pw) rfl rfl (by rw [← hp]; rfl) ?_
  rw [rawSlot_c un (by decide) (by decide) (by omega)]
  simp only [rawC, f_k, f_a, f_p, f_d, f_q, f_c]

theorem Encodes.rstrp (un : CUnit) (h : Hdr) (k : BitVec 4) (a : BitVec 5) (p : BitVec 2) (d : BitVec 1) (q : BitVec 4) (c : BitVec 1) : Encodes.Statement (.rstrp un h k a p d q c) := by
  have b_k := k.isLt
  have b_a := a.isLt
  have b_p := p.isLt
  have b_d := d.isLt
  have b_q := q.isLt
  have b_c := c.isLt
  generalize hp : k.toNat * 16384 + a.toNat * 512 + p.toNat * 128 + d.toNat * 64 + q.toNat * 4 + c.toNat * 2 = pw
  have f_k := bits_of 14 pw k (by omega)
  have f_a := bits_of 9 pw a (by omega)
  have f_p := bits_of 7 pw p (by omega)
  have f_d := bits_of 6 pw d (by omega)
  have f_q := bits_of 2 pw q (by omega)
  have f_c := bits_of 1 pw c (by omega)
  refine slot_ok (w := slotWord 0x3 h pw) rfl rfl (by rw [← hp]; rfl) ?_
  rw [rawSlot_c un (by decide) (by decide) (by omega)]
  simp only [rawC, f_k, f_a, f_p, f_d, f_q, f_c]

theorem Encodes.cryp (un : CUnit) (h : Hdr) (k : BitVec 4) (a : BitVec 5) (p : BitVec 2) (d : BitVec 1) (q : BitVec 4) (c : BitVec 1) : Encodes.Statement (.cryp un h k a p d q c) := by
  have b_k := k.isLt
  have b_a := a.isLt
  have b_p := p.isLt
  have b_d := d.isLt
  have b_q := q.isLt
  have b_c := c.isLt
  generalize hp : k.toNat * 16384 + a.toNat * 512 + p.toNat * 128 + d.toNat * 64 + q.toNat * 4 + c.toNat * 2 = pw
  have f_k := bits_of 14 pw k (by omega)
  have f_a := bits_of 9 pw a (by omega)
  have f_p := bits_of 7 pw p (by omega)
  have f_d := bits_of 6 pw d (by omega)
  have f_q := bits_of 2 pw q (by omega)
  have f_c := bits_of 1 pw c (by omega)
  refine slot_ok (w := slotWord 0x4 h pw) rfl rfl (by rw [← hp]; rfl) ?_
  rw [rawSlot_c un (by decide) (by decide) (by omega)]
  simp only [rawC, f_k, f_a, f_p, f_d, f_q, f_c]

theorem Encodes.kjoin (un : CUnit) (h : Hdr) (k : BitVec 4) (a : BitVec 5) (p : BitVec 2) (d : BitVec 1) (q : BitVec 4) (c : BitVec 1) : Encodes.Statement (.kjoin un h k a p d q c) := by
  have b_k := k.isLt
  have b_a := a.isLt
  have b_p := p.isLt
  have b_d := d.isLt
  have b_q := q.isLt
  have b_c := c.isLt
  generalize hp : k.toNat * 16384 + a.toNat * 512 + p.toNat * 128 + d.toNat * 64 + q.toNat * 4 + c.toNat * 2 = pw
  have f_k := bits_of 14 pw k (by omega)
  have f_a := bits_of 9 pw a (by omega)
  have f_p := bits_of 7 pw p (by omega)
  have f_d := bits_of 6 pw d (by omega)
  have f_q := bits_of 2 pw q (by omega)
  have f_c := bits_of 1 pw c (by omega)
  refine slot_ok (w := slotWord 0x5 h pw) rfl rfl (by rw [← hp]; rfl) ?_
  rw [rawSlot_c un (by decide) (by decide) (by omega)]
  simp only [rawC, f_k, f_a, f_p, f_d, f_q, f_c]

theorem Encodes.kcancel (un : CUnit) (h : Hdr) (a : BitVec 4) : Encodes.Statement (.kcancel un h a) := by
  have b_a := a.isLt
  generalize hp : a.toNat * 256 = pw
  have f_a := bits_of 8 pw a (by omega)
  refine slot_ok (w := slotWord 0x6 h pw) rfl rfl (by rw [← hp]; rfl) ?_
  rw [rawSlot_c un (by decide) (by decide) (by omega)]
  simp only [rawC, f_a]

theorem Encodes.kdetach (un : CUnit) (h : Hdr) (a : BitVec 4) : Encodes.Statement (.kdetach un h a) := by
  have b_a := a.isLt
  generalize hp : a.toNat * 256 = pw
  have f_a := bits_of 8 pw a (by omega)
  refine slot_ok (w := slotWord 0x7 h pw) rfl rfl (by rw [← hp]; rfl) ?_
  rw [rawSlot_c un (by decide) (by decide) (by omega)]
  simp only [rawC, f_a]

theorem Encodes.kprio (un : CUnit) (h : Hdr) (a : BitVec 4) (i : BitVec 8) : Encodes.Statement (.kprio un h a i) := by
  have b_a := a.isLt
  have b_i := i.isLt
  generalize hp : a.toNat * 256 + i.toNat = pw
  have f_a := bits_of 8 pw a (by omega)
  have f_i := bits_of 0 pw i (by omega)
  refine slot_ok (w := slotWord 0x8 h pw) rfl rfl (by rw [← hp]; rfl) ?_
  rw [rawSlot_c un (by decide) (by decide) (by omega)]
  simp only [rawC, f_a, f_i]

theorem Encodes.kstat (un : CUnit) (h : Hdr) (d : BitVec 5) (a : BitVec 4) (f : BitVec 2) : Encodes.Statement (.kstat un h d a f) := by
  have b_d := d.isLt
  have b_a := a.isLt
  have b_f := f.isLt
  generalize hp : d.toNat * 8192 + a.toNat * 256 + f.toNat = pw
  have f_d := bits_of 13 pw d (by omega)
  have f_a := bits_of 8 pw a (by omega)
  have f_f := bits_of 0 pw f (by omega)
  refine slot_ok (w := slotWord 0x9 h pw) rfl rfl (by rw [← hp]; rfl) ?_
  rw [rawSlot_c un (by decide) (by decide) (by omega)]
  simp only [rawC, f_d, f_a, f_f]

theorem Encodes.kack (un : CUnit) (h : Hdr) (a : BitVec 4) : Encodes.Statement (.kack un h a) := by
  have b_a := a.isLt
  generalize hp : a.toNat * 256 = pw
  have f_a := bits_of 8 pw a (by omega)
  refine slot_ok (w := slotWord 0xa h pw) rfl rfl (by rw [← hp]; rfl) ?_
  rw [rawSlot_c un (by decide) (by decide) (by omega)]
  simp only [rawC, f_a]

theorem Encodes.ldr (un : CUnit) (h : Hdr) (t : BitVec 5) (a : BitVec 5) (w : BitVec 3) (o : BitVec 5) : Encodes.Statement (.ldr un h t a w o) := by
  have b_t := t.isLt
  have b_a := a.isLt
  have b_w := w.isLt
  have b_o := o.isLt
  generalize hp : t.toNat * 8192 + a.toNat * 256 + w.toNat * 32 + o.toNat = pw
  have f_t := bits_of 13 pw t (by omega)
  have f_a := bits_of 8 pw a (by omega)
  have f_w := bits_of 5 pw w (by omega)
  have f_o := bits_of 0 pw o (by omega)
  refine slot_ok (w := slotWord 0x10 h pw) rfl rfl (by rw [← hp]; rfl) ?_
  rw [rawSlot_c un (by decide) (by decide) (by omega)]
  simp only [rawC, f_t, f_a, f_w, f_o]

theorem Encodes.str (un : CUnit) (h : Hdr) (t : BitVec 5) (a : BitVec 5) (w : BitVec 3) (o : BitVec 5) : Encodes.Statement (.str un h t a w o) := by
  have b_t := t.isLt
  have b_a := a.isLt
  have b_w := w.isLt
  have b_o := o.isLt
  generalize hp : t.toNat * 8192 + a.toNat * 256 + w.toNat * 32 + o.toNat = pw
  have f_t := bits_of 13 pw t (by omega)
  have f_a := bits_of 8 pw a (by omega)
  have f_w := bits_of 5 pw w (by omega)
  have f_o := bits_of 0 pw o (by omega)
  refine slot_ok (w := slotWord 0x11 h pw) rfl rfl (by rw [← hp]; rfl) ?_
  rw [rawSlot_c un (by decide) (by decide) (by omega)]
  simp only [rawC, f_t, f_a, f_w, f_o]

theorem Encodes.vldr (un : CUnit) (h : Hdr) (t : BitVec 5) (a : BitVec 5) (b : BitVec 5) (m : BitVec 3) : Encodes.Statement (.vldr un h t a b m) := by
  have b_t := t.isLt
  have b_a := a.isLt
  have b_b := b.isLt
  have b_m := m.isLt
  generalize hp : t.toNat * 8192 + a.toNat * 256 + b.toNat * 8 + m.toNat = pw
  have f_t := bits_of 13 pw t (by omega)
  have f_a := bits_of 8 pw a (by omega)
  have f_b := bits_of 3 pw b (by omega)
  have f_m := bits_of 0 pw m (by omega)
  refine slot_ok (w := slotWord 0x12 h pw) rfl rfl (by rw [← hp]; rfl) ?_
  rw [rawSlot_c un (by decide) (by decide) (by omega)]
  simp only [rawC, f_t, f_a, f_b, f_m]

theorem Encodes.vstr (un : CUnit) (h : Hdr) (t : BitVec 5) (a : BitVec 5) (b : BitVec 5) (m : BitVec 3) : Encodes.Statement (.vstr un h t a b m) := by
  have b_t := t.isLt
  have b_a := a.isLt
  have b_b := b.isLt
  have b_m := m.isLt
  generalize hp : t.toNat * 8192 + a.toNat * 256 + b.toNat * 8 + m.toNat = pw
  have f_t := bits_of 13 pw t (by omega)
  have f_a := bits_of 8 pw a (by omega)
  have f_b := bits_of 3 pw b (by omega)
  have f_m := bits_of 0 pw m (by omega)
  refine slot_ok (w := slotWord 0x13 h pw) rfl rfl (by rw [← hp]; rfl) ?_
  rw [rawSlot_c un (by decide) (by decide) (by omega)]
  simp only [rawC, f_t, f_a, f_b, f_m]

theorem Encodes.amow (un : CUnit) (h : Hdr) (d : BitVec 5) (a : BitVec 5) (b : BitVec 5) (f : BitVec 3) : Encodes.Statement (.amow un h d a b f) := by
  have b_d := d.isLt
  have b_a := a.isLt
  have b_b := b.isLt
  have b_f := f.isLt
  generalize hp : d.toNat * 8192 + a.toNat * 256 + b.toNat * 8 + f.toNat = pw
  have f_d := bits_of 13 pw d (by omega)
  have f_a := bits_of 8 pw a (by omega)
  have f_b := bits_of 3 pw b (by omega)
  have f_f := bits_of 0 pw f (by omega)
  refine slot_ok (w := slotWord 0x14 h pw) rfl rfl (by rw [← hp]; rfl) ?_
  rw [rawSlot_c un (by decide) (by decide) (by omega)]
  simp only [rawC, f_d, f_a, f_b, f_f]

theorem Encodes.amod (un : CUnit) (h : Hdr) (d : BitVec 5) (a : BitVec 5) (b : BitVec 5) (f : BitVec 3) : Encodes.Statement (.amod un h d a b f) := by
  have b_d := d.isLt
  have b_a := a.isLt
  have b_b := b.isLt
  have b_f := f.isLt
  generalize hp : d.toNat * 8192 + a.toNat * 256 + b.toNat * 8 + f.toNat = pw
  have f_d := bits_of 13 pw d (by omega)
  have f_a := bits_of 8 pw a (by omega)
  have f_b := bits_of 3 pw b (by omega)
  have f_f := bits_of 0 pw f (by omega)
  refine slot_ok (w := slotWord 0x15 h pw) rfl rfl (by rw [← hp]; rfl) ?_
  rw [rawSlot_c un (by decide) (by decide) (by omega)]
  simp only [rawC, f_d, f_a, f_b, f_f]

theorem Encodes.cas (un : CUnit) (h : Hdr) (d : BitVec 5) (a : BitVec 5) (b : BitVec 5) (f : BitVec 1) : Encodes.Statement (.cas un h d a b f) := by
  have b_d := d.isLt
  have b_a := a.isLt
  have b_b := b.isLt
  have b_f := f.isLt
  generalize hp : d.toNat * 8192 + a.toNat * 256 + b.toNat * 8 + f.toNat = pw
  have f_d := bits_of 13 pw d (by omega)
  have f_a := bits_of 8 pw a (by omega)
  have f_b := bits_of 3 pw b (by omega)
  have f_f := bits_of 0 pw f (by omega)
  refine slot_ok (w := slotWord 0x16 h pw) rfl rfl (by rw [← hp]; rfl) ?_
  rw [rawSlot_c un (by decide) (by decide) (by omega)]
  simp only [rawC, f_d, f_a, f_b, f_f]

theorem Encodes.famo (un : CUnit) (h : Hdr) (d : BitVec 5) (a : BitVec 5) (b : BitVec 5) (f : BitVec 3) : Encodes.Statement (.famo un h d a b f) := by
  have b_d := d.isLt
  have b_a := a.isLt
  have b_b := b.isLt
  have b_f := f.isLt
  generalize hp : d.toNat * 8192 + a.toNat * 256 + b.toNat * 8 + f.toNat = pw
  have f_d := bits_of 13 pw d (by omega)
  have f_a := bits_of 8 pw a (by omega)
  have f_b := bits_of 3 pw b (by omega)
  have f_f := bits_of 0 pw f (by omega)
  refine slot_ok (w := slotWord 0x17 h pw) rfl rfl (by rw [← hp]; rfl) ?_
  rw [rawSlot_c un (by decide) (by decide) (by omega)]
  simp only [rawC, f_d, f_a, f_b, f_f]

theorem Encodes.lda (un : CUnit) (h : Hdr) (t : BitVec 5) (a : BitVec 5) (s : BitVec 3) (o : BitVec 5) : Encodes.Statement (.lda un h t a s o) := by
  have b_t := t.isLt
  have b_a := a.isLt
  have b_s := s.isLt
  have b_o := o.isLt
  generalize hp : t.toNat * 8192 + a.toNat * 256 + s.toNat * 32 + o.toNat = pw
  have f_t := bits_of 13 pw t (by omega)
  have f_a := bits_of 8 pw a (by omega)
  have f_s := bits_of 5 pw s (by omega)
  have f_o := bits_of 0 pw o (by omega)
  refine slot_ok (w := slotWord 0x18 h pw) rfl rfl (by rw [← hp]; rfl) ?_
  rw [rawSlot_c un (by decide) (by decide) (by omega)]
  simp only [rawC, f_t, f_a, f_s, f_o]

theorem Encodes.strl (un : CUnit) (h : Hdr) (t : BitVec 5) (a : BitVec 5) (s : BitVec 3) (o : BitVec 5) : Encodes.Statement (.strl un h t a s o) := by
  have b_t := t.isLt
  have b_a := a.isLt
  have b_s := s.isLt
  have b_o := o.isLt
  generalize hp : t.toNat * 8192 + a.toNat * 256 + s.toNat * 32 + o.toNat = pw
  have f_t := bits_of 13 pw t (by omega)
  have f_a := bits_of 8 pw a (by omega)
  have f_s := bits_of 5 pw s (by omega)
  have f_o := bits_of 0 pw o (by omega)
  refine slot_ok (w := slotWord 0x19 h pw) rfl rfl (by rw [← hp]; rfl) ?_
  rw [rawSlot_c un (by decide) (by decide) (by omega)]
  simp only [rawC, f_t, f_a, f_s, f_o]

theorem Encodes.flip (h : Hdr) : Encodes.Statement (.flip h) := by
  refine slot_ok (w := slotWord 0x1 h 0) rfl rfl rfl ?_
  rw [rawSlot_x (by decide) (by decide) (by omega)]
  simp only [rawX]

theorem Encodes.fence (h : Hdr) (s : BitVec 3) (m : BitVec 5) : Encodes.Statement (.fence h s m) := by
  have b_s := s.isLt
  have b_m := m.isLt
  generalize hp : s.toNat * 32 + m.toNat = pw
  have f_s := bits_of 5 pw s (by omega)
  have f_m := bits_of 0 pw m (by omega)
  refine slot_ok (w := slotWord 0x2 h pw) rfl rfl (by rw [← hp]; rfl) ?_
  rw [rawSlot_x (by decide) (by decide) (by omega)]
  simp only [rawX, f_s, f_m]

theorem Encodes.kwait (h : Hdr) (a : BitVec 4) (i : BitVec 8) : Encodes.Statement (.kwait h a i) := by
  have b_a := a.isLt
  have b_i := i.isLt
  generalize hp : a.toNat * 256 + i.toNat = pw
  have f_a := bits_of 8 pw a (by omega)
  have f_i := bits_of 0 pw i (by omega)
  refine slot_ok (w := slotWord 0x3 h pw) rfl rfl (by rw [← hp]; rfl) ?_
  rw [rawSlot_x (by decide) (by decide) (by omega)]
  simp only [rawX, f_a, f_i]

theorem Encodes.kwaitch (h : Hdr) (a : BitVec 5) (c : BitVec 3) : Encodes.Statement (.kwaitch h a c) := by
  have b_a := a.isLt
  have b_c := c.isLt
  generalize hp : a.toNat * 256 + c.toNat = pw
  have f_a := bits_of 8 pw a (by omega)
  have f_c := bits_of 0 pw c (by omega)
  refine slot_ok (w := slotWord 0x4 h pw) rfl rfl (by rw [← hp]; rfl) ?_
  rw [rawSlot_x (by decide) (by decide) (by omega)]
  simp only [rawX, f_a, f_c]

theorem Encodes.hwaitf (h : Hdr) (a : BitVec 5) (j : BitVec 5) : Encodes.Statement (.hwaitf h a j) := by
  have b_a := a.isLt
  have b_j := j.isLt
  generalize hp : a.toNat * 256 + j.toNat = pw
  have f_a := bits_of 8 pw a (by omega)
  have f_j := bits_of 0 pw j (by omega)
  refine slot_ok (w := slotWord 0x5 h pw) rfl rfl (by rw [← hp]; rfl) ?_
  rw [rawSlot_x (by decide) (by decide) (by omega)]
  simp only [rawX, f_a, f_j]

theorem Encodes.hwaite (h : Hdr) (a : BitVec 5) (j : BitVec 5) : Encodes.Statement (.hwaite h a j) := by
  have b_a := a.isLt
  have b_j := j.isLt
  generalize hp : a.toNat * 256 + j.toNat = pw
  have f_a := bits_of 8 pw a (by omega)
  have f_j := bits_of 0 pw j (by omega)
  refine slot_ok (w := slotWord 0x6 h pw) rfl rfl (by rw [← hp]; rfl) ?_
  rw [rawSlot_x (by decide) (by decide) (by omega)]
  simp only [rawX, f_a, f_j]

theorem Encodes.hadvr (h : Hdr) (a : BitVec 5) (j : BitVec 5) : Encodes.Statement (.hadvr h a j) := by
  have b_a := a.isLt
  have b_j := j.isLt
  generalize hp : a.toNat * 256 + j.toNat = pw
  have f_a := bits_of 8 pw a (by omega)
  have f_j := bits_of 0 pw j (by omega)
  refine slot_ok (w := slotWord 0x7 h pw) rfl rfl (by rw [← hp]; rfl) ?_
  rw [rawSlot_x (by decide) (by decide) (by omega)]
  simp only [rawX, f_a, f_j]

theorem Encodes.hadvw (h : Hdr) (a : BitVec 5) (j : BitVec 5) : Encodes.Statement (.hadvw h a j) := by
  have b_a := a.isLt
  have b_j := j.isLt
  generalize hp : a.toNat * 256 + j.toNat = pw
  have f_a := bits_of 8 pw a (by omega)
  have f_j := bits_of 0 pw j (by omega)
  refine slot_ok (w := slotWord 0x8 h pw) rfl rfl (by rw [← hp]; rfl) ?_
  rw [rawSlot_x (by decide) (by decide) (by omega)]
  simp only [rawX, f_a, f_j]

theorem Encodes.hexpect (h : Hdr) (a : BitVec 5) (j : BitVec 5) : Encodes.Statement (.hexpect h a j) := by
  have b_a := a.isLt
  have b_j := j.isLt
  generalize hp : a.toNat * 256 + j.toNat = pw
  have f_a := bits_of 8 pw a (by omega)
  have f_j := bits_of 0 pw j (by omega)
  refine slot_ok (w := slotWord 0x9 h pw) rfl rfl (by rw [← hp]; rfl) ?_
  rw [rawSlot_x (by decide) (by decide) (by omega)]
  simp only [rawX, f_a, f_j]

theorem Encodes.hptr (h : Hdr) (d : BitVec 5) (w : BitVec 1) (j : BitVec 5) : Encodes.Statement (.hptr h d w j) := by
  have b_d := d.isLt
  have b_w := w.isLt
  have b_j := j.isLt
  generalize hp : d.toNat * 8192 + w.toNat * 32 + j.toNat = pw
  have f_d := bits_of 13 pw d (by omega)
  have f_w := bits_of 5 pw w (by omega)
  have f_j := bits_of 0 pw j (by omega)
  refine slot_ok (w := slotWord 0xa h pw) rfl rfl (by rw [← hp]; rfl) ?_
  rw [rawSlot_x (by decide) (by decide) (by omega)]
  simp only [rawX, f_d, f_w, f_j]

theorem Encodes.bar (h : Hdr) (v : BitVec 3) : Encodes.Statement (.bar h v) := by
  have b_v := v.isLt
  generalize hp : v.toNat = pw
  have f_v := bits_of 0 pw v (by omega)
  refine slot_ok (w := slotWord 0xb h pw) rfl rfl (by rw [← hp]; rfl) ?_
  rw [rawSlot_x (by decide) (by decide) (by omega)]
  simp only [rawX, f_v]

theorem Encodes.xlat (h : Hdr) (a : BitVec 5) (s : BitVec 6) : Encodes.Statement (.xlat h a s) := by
  have b_a := a.isLt
  have b_s := s.isLt
  generalize hp : a.toNat * 256 + s.toNat = pw
  have f_a := bits_of 8 pw a (by omega)
  have f_s := bits_of 0 pw s (by omega)
  refine slot_ok (w := slotWord 0xc h pw) rfl rfl (by rw [← hp]; rfl) ?_
  rw [rawSlot_x (by decide) (by decide) (by omega)]
  simp only [rawX, f_a, f_s]

theorem Encodes.xmov (h : Hdr) (d : BitVec 5) (w : BitVec 2) : Encodes.Statement (.xmov h d w) := by
  have b_d := d.isLt
  have b_w := w.isLt
  generalize hp : d.toNat * 8192 + w.toNat = pw
  have f_d := bits_of 13 pw d (by omega)
  have f_w := bits_of 0 pw w (by omega)
  refine slot_ok (w := slotWord 0xd h pw) rfl rfl (by rw [← hp]; rfl) ?_
  rw [rawSlot_x (by decide) (by decide) (by omega)]
  simp only [rawX, f_d, f_w]

theorem Encodes.srd (h : Hdr) (d : BitVec 5) (i : BitVec 10) : Encodes.Statement (.srd h d i) := by
  have b_d := d.isLt
  have b_i := i.isLt
  generalize hp : d.toNat * 8192 + i.toNat = pw
  have f_d := bits_of 13 pw d (by omega)
  have f_i := bits_of 0 pw i (by omega)
  refine slot_ok (w := slotWord 0xe h pw) rfl rfl (by rw [← hp]; rfl) ?_
  rw [rawSlot_x (by decide) (by decide) (by omega)]
  simp only [rawX, f_d, f_i]

theorem Encodes.swr (h : Hdr) (d : BitVec 5) (i : BitVec 10) : Encodes.Statement (.swr h d i) := by
  have b_d := d.isLt
  have b_i := i.isLt
  generalize hp : d.toNat * 8192 + i.toNat = pw
  have f_d := bits_of 13 pw d (by omega)
  have f_i := bits_of 0 pw i (by omega)
  refine slot_ok (w := slotWord 0xf h pw) rfl rfl (by rw [← hp]; rfl) ?_
  rw [rawSlot_x (by decide) (by decide) (by omega)]
  simp only [rawX, f_d, f_i]

theorem Encodes.trap (h : Hdr) (i : BitVec 13) : Encodes.Statement (.trap h i) := by
  have b_i := i.isLt
  generalize hp : i.toNat = pw
  have f_i := bits_of 0 pw i (by omega)
  refine slot_ok (w := slotWord 0x10 h pw) rfl rfl (by rw [← hp]; rfl) ?_
  rw [rawSlot_x (by decide) (by decide) (by omega)]
  simp only [rawX, f_i]

theorem Encodes.rett (h : Hdr) : Encodes.Statement (.rett h) := by
  refine slot_ok (w := slotWord 0x11 h 0) rfl rfl rfl ?_
  rw [rawSlot_x (by decide) (by decide) (by omega)]
  simp only [rawX]

theorem Encodes.hwin (h : Hdr) (a : BitVec 5) : Encodes.Statement (.hwin h a) := by
  have b_a := a.isLt
  generalize hp : a.toNat * 256 = pw
  have f_a := bits_of 8 pw a (by omega)
  refine slot_ok (w := slotWord 0x12 h pw) rfl rfl (by rw [← hp]; rfl) ?_
  rw [rawSlot_x (by decide) (by decide) (by omega)]
  simp only [rawX, f_a]

theorem Encodes.segb (h : Hdr) : Encodes.Statement (.segb h) := by
  refine slot_ok (w := slotWord 0x13 h 0) rfl rfl rfl ?_
  rw [rawSlot_x (by decide) (by decide) (by omega)]
  simp only [rawX]

theorem Encodes.sege (h : Hdr) (a : BitVec 5) (b : BitVec 5) : Encodes.Statement (.sege h a b) := by
  have b_a := a.isLt
  have b_b := b.isLt
  generalize hp : a.toNat * 256 + b.toNat * 8 = pw
  have f_a := bits_of 8 pw a (by omega)
  have f_b := bits_of 3 pw b (by omega)
  refine slot_ok (w := slotWord 0x14 h pw) rfl rfl (by rw [← hp]; rfl) ?_
  rw [rawSlot_x (by decide) (by decide) (by omega)]
  simp only [rawX, f_a, f_b]

theorem Encodes.iinv (h : Hdr) (s : BitVec 3) : Encodes.Statement (.iinv h s) := by
  have b_s := s.isLt
  generalize hp : s.toNat = pw
  have f_s := bits_of 0 pw s (by omega)
  refine slot_ok (w := slotWord 0x15 h pw) rfl rfl (by rw [← hp]; rfl) ?_
  rw [rawSlot_x (by decide) (by decide) (by omega)]
  simp only [rawX, f_s]

theorem Encodes.xregRd (h : Hdr) (d : BitVec 5) (a : BitVec 5) (f : BitVec 1) (c : BitVec 1) (k : BitVec 3) : Encodes.Statement (.xregRd h d a f c k) := by
  have b_d := d.isLt
  have b_a := a.isLt
  have b_f := f.isLt
  have b_c := c.isLt
  have b_k := k.isLt
  generalize hp : d.toNat * 8192 + a.toNat * 256 + f.toNat * 64 + c.toNat * 32 + k.toNat * 4 = pw
  have f_d := bits_of 13 pw d (by omega)
  have f_a := bits_of 8 pw a (by omega)
  have f_f := bits_of 6 pw f (by omega)
  have f_c := bits_of 5 pw c (by omega)
  have f_k := bits_of 2 pw k (by omega)
  have sel : pw / 128 % 2 = 0 := by omega
  refine slot_ok (w := slotWord 0x16 h pw) rfl rfl (by rw [← hp]; rfl) ?_
  rw [rawSlot_x (by decide) (by decide) (by omega)]
  simp only [rawX, f_d, f_a, f_f, f_c, f_k, sel]

theorem Encodes.xregWr (h : Hdr) (d : BitVec 5) (a : BitVec 5) (f : BitVec 1) (c : BitVec 1) (k : BitVec 3) : Encodes.Statement (.xregWr h d a f c k) := by
  have b_d := d.isLt
  have b_a := a.isLt
  have b_f := f.isLt
  have b_c := c.isLt
  have b_k := k.isLt
  generalize hp : d.toNat * 8192 + a.toNat * 256 + f.toNat * 64 + c.toNat * 32 + k.toNat * 4 + 128 = pw
  have f_d := bits_of 13 pw d (by omega)
  have f_a := bits_of 8 pw a (by omega)
  have f_f := bits_of 6 pw f (by omega)
  have f_c := bits_of 5 pw c (by omega)
  have f_k := bits_of 2 pw k (by omega)
  have sel : pw / 128 % 2 = 1 := by omega
  refine slot_ok (w := slotWord 0x16 h pw) rfl rfl (by rw [← hp]; rfl) ?_
  rw [rawSlot_x (by decide) (by decide) (by omega)]
  simp only [rawX, f_d, f_a, f_f, f_c, f_k, sel]

theorem Encodes.saveph (h : Hdr) (a : BitVec 5) (c : BitVec 1) : Encodes.Statement (.saveph h a c) := by
  have b_a := a.isLt
  have b_c := c.isLt
  generalize hp : a.toNat * 256 + c.toNat = pw
  have f_a := bits_of 8 pw a (by omega)
  have f_c := bits_of 0 pw c (by omega)
  refine slot_ok (w := slotWord 0x17 h pw) rfl rfl (by rw [← hp]; rfl) ?_
  rw [rawSlot_x (by decide) (by decide) (by omega)]
  simp only [rawX, f_a, f_c]

theorem Encodes.loadph (h : Hdr) (a : BitVec 5) (c : BitVec 1) : Encodes.Statement (.loadph h a c) := by
  have b_a := a.isLt
  have b_c := c.isLt
  generalize hp : a.toNat * 256 + c.toNat = pw
  have f_a := bits_of 8 pw a (by omega)
  have f_c := bits_of 0 pw c (by omega)
  refine slot_ok (w := slotWord 0x18 h pw) rfl rfl (by rw [← hp]; rfl) ?_
  rw [rawSlot_x (by decide) (by decide) (by omega)]
  simp only [rawX, f_a, f_c]

theorem Encodes.wait (h : Hdr) (a : BitVec 5) (b : BitVec 5) (f : BitVec 3) : Encodes.Statement (.wait h a b f) := by
  have b_a := a.isLt
  have b_b := b.isLt
  have b_f := f.isLt
  generalize hp : a.toNat * 256 + b.toNat * 8 + f.toNat = pw
  have f_a := bits_of 8 pw a (by omega)
  have f_b := bits_of 3 pw b (by omega)
  have f_f := bits_of 0 pw f (by omega)
  refine slot_ok (w := slotWord 0x19 h pw) rfl rfl (by rw [← hp]; rfl) ?_
  rw [rawSlot_x (by decide) (by decide) (by omega)]
  simp only [rawX, f_a, f_b, f_f]

theorem Encodes.signal (h : Hdr) (a : BitVec 5) (b : BitVec 5) (s : BitVec 3) : Encodes.Statement (.signal h a b s) := by
  have b_a := a.isLt
  have b_b := b.isLt
  have b_s := s.isLt
  generalize hp : a.toNat * 256 + b.toNat * 8 + s.toNat = pw
  have f_a := bits_of 8 pw a (by omega)
  have f_b := bits_of 3 pw b (by omega)
  have f_s := bits_of 0 pw s (by omega)
  refine slot_ok (w := slotWord 0x1a h pw) rfl rfl (by rw [← hp]; rfl) ?_
  rw [rawSlot_x (by decide) (by decide) (by omega)]
  simp only [rawX, f_a, f_b, f_s]

theorem Encodes.pairset (h : Hdr) (a : BitVec 5) (b : BitVec 5) (r : BitVec 3) : Encodes.Statement (.pairset h a b r) := by
  have b_a := a.isLt
  have b_b := b.isLt
  have b_r := r.isLt
  generalize hp : a.toNat * 256 + b.toNat * 8 + r.toNat = pw
  have f_a := bits_of 8 pw a (by omega)
  have f_b := bits_of 3 pw b (by omega)
  have f_r := bits_of 0 pw r (by omega)
  refine slot_ok (w := slotWord 0x1b h pw) rfl rfl (by rw [← hp]; rfl) ?_
  rw [rawSlot_x (by decide) (by decide) (by omega)]
  simp only [rawX, f_a, f_b, f_r]

theorem Encodes.bkpt (h : Hdr) (i : BitVec 13) : Encodes.Statement (.bkpt h i) := by
  have b_i := i.isLt
  generalize hp : i.toNat = pw
  have f_i := bits_of 0 pw i (by omega)
  refine slot_ok (w := slotWord 0x1c h pw) rfl rfl (by rw [← hp]; rfl) ?_
  rw [rawSlot_x (by decide) (by decide) (by omega)]
  simp only [rawX, f_i]

theorem Encodes.halt (h : Hdr) : Encodes.Statement (.halt h) := by
  refine slot_ok (w := slotWord 0x1d h 0) rfl rfl rfl ?_
  rw [rawSlot_x (by decide) (by decide) (by omega)]
  simp only [rawX]

theorem Encodes.pfx (x : BitVec 3) (y : BitVec 3) (a : BitVec 1) (b : BitVec 1) (r : BitVec 5) (w : BitVec 2) : Encodes.Statement (.pfx x y a b r w) := by
  have b_x := x.isLt
  have b_y := y.isLt
  have b_a := a.isLt
  have b_b := b.isLt
  have b_r := r.isLt
  have b_w := w.isLt
  generalize hp : x.toNat * 8388608 + y.toNat * 1048576 + a.toNat * 524288 + b.toNat * 262144 + r.toNat * 8192 + w.toNat * 2048 = pw
  have f_x := bits_of 23 pw x (by omega)
  have f_y := bits_of 20 pw y (by omega)
  have f_a := bits_of 19 pw a (by omega)
  have f_b := bits_of 18 pw b (by omega)
  have f_r := bits_of 13 pw r (by omega)
  have f_w := bits_of 11 pw w (by omega)
  refine slot_ok (w := prefixWord 0x1 pw) rfl rfl (by rw [← hp]; rfl) ?_
  rw [rawSlot_p (by decide) (by decide) (by omega)]
  simp only [rawP, f_x, f_y, f_a, f_b, f_r, f_w]

theorem Encodes.imx (s : BitVec 3) (e : BitVec 23) : Encodes.Statement (.imx s e) := by
  have b_s := s.isLt
  have b_e := e.isLt
  generalize hp : s.toNat * 8388608 + e.toNat = pw
  have f_s := bits_of 23 pw s (by omega)
  have f_e := bits_of 0 pw e (by omega)
  refine slot_ok (w := prefixWord 0x2 pw) rfl rfl (by rw [← hp]; rfl) ?_
  rw [rawSlot_p (by decide) (by decide) (by omega)]
  simp only [rawP, f_s, f_e]

theorem Encodes.mark (c : BitVec 20) (t : BitVec 6) : Encodes.Statement (.mark c t) := by
  have b_c := c.isLt
  have b_t := t.isLt
  generalize hp : c.toNat * 64 + t.toNat = pw
  have f_c := bits_of 6 pw c (by omega)
  have f_t := bits_of 0 pw t (by omega)
  refine slot_ok (w := prefixWord 0x3 pw) rfl rfl (by rw [← hp]; rfl) ?_
  rw [rawSlot_p (by decide) (by decide) (by omega)]
  simp only [rawP, f_c, f_t]

theorem Encodes.fmts (mode : BitVec 4) (af : BitVec 4) (bf : BitVec 4) : Encodes.Statement (.fmts mode af bf) := by
  have b_mode := mode.isLt
  have b_af := af.isLt
  have b_bf := bf.isLt
  generalize hp : 13835058055282163712 + mode.toNat * 72057594037927936 + af.toNat * 4503599627370496 + bf.toNat * 281474976710656 = pw
  have hn : (BitVec.ofNat 64 pw).toNat = pw := by rw [BitVec.toNat_ofNat]; omega
  have f_mode := bits_of 56 pw mode (by omega)
  have f_af := bits_of 52 pw af (by omega)
  have f_bf := bits_of 48 pw bf (by omega)
  have op : pw / 1152921504606846976 = 12 := by omega
  refine uop_ok (n := pw) rfl rfl (by rw [← hp]; rfl) ?_
  simp only [rawUop, hn, f_mode, f_af, f_bf, op]

theorem Encodes.afet (pa : BitVec 3) (pitch : BitVec 16) (ord : BitVec 1) (swz : BitVec 1) : Encodes.Statement (.afet pa pitch ord swz) := by
  have b_pa := pa.isLt
  have b_pitch := pitch.isLt
  have b_ord := ord.isLt
  have b_swz := swz.isLt
  generalize hp : 1152921504606846976 + pa.toNat * 144115188075855872 + pitch.toNat * 2199023255552 + ord.toNat * 1099511627776 + swz.toNat * 549755813888 = pw
  have hn : (BitVec.ofNat 64 pw).toNat = pw := by rw [BitVec.toNat_ofNat]; omega
  have f_pa := bits_of 57 pw pa (by omega)
  have f_pitch := bits_of 41 pw pitch (by omega)
  have f_ord := bits_of 40 pw ord (by omega)
  have f_swz := bits_of 39 pw swz (by omega)
  have op : pw / 1152921504606846976 = 1 := by omega
  refine uop_ok (n := pw) rfl rfl (by rw [← hp]; rfl) ?_
  simp only [rawUop, hn, f_pa, f_pitch, f_ord, f_swz, op]

theorem Encodes.bsel (pb : BitVec 3) (rofs : BitVec 8) (srow : BitVec 8) (ssrow : BitVec 8) : Encodes.Statement (.bsel pb rofs srow ssrow) := by
  have b_pb := pb.isLt
  have b_rofs := rofs.isLt
  have b_srow := srow.isLt
  have b_ssrow := ssrow.isLt
  generalize hp : 2305843009213693952 + pb.toNat * 144115188075855872 + rofs.toNat * 562949953421312 + srow.toNat * 2199023255552 + ssrow.toNat * 8589934592 = pw
  have hn : (BitVec.ofNat 64 pw).toNat = pw := by rw [BitVec.toNat_ofNat]; omega
  have f_pb := bits_of 57 pw pb (by omega)
  have f_rofs := bits_of 49 pw rofs (by omega)
  have f_srow := bits_of 41 pw srow (by omega)
  have f_ssrow := bits_of 33 pw ssrow (by omega)
  have op : pw / 1152921504606846976 = 2 := by omega
  refine uop_ok (n := pw) rfl rfl (by rw [← hp]; rfl) ?_
  simp only [rawUop, hn, f_pb, f_rofs, f_srow, f_ssrow, op]

theorem Encodes.macs (nr : BitVec 6) (frow : BitVec 6) (wb : BitVec 1) (adv : BitVec 1) (kv : BitVec 7) : Encodes.Statement (.macs nr frow wb adv kv) := by
  have b_nr := nr.isLt
  have b_frow := frow.isLt
  have b_wb := wb.isLt
  have b_adv := adv.isLt
  have b_kv := kv.isLt
  generalize hp : 3458764513820540928 + nr.toNat * 18014398509481984 + frow.toNat * 281474976710656 + wb.toNat * 140737488355328 + adv.toNat * 70368744177664 + kv.toNat * 549755813888 = pw
  have hn : (BitVec.ofNat 64 pw).toNat = pw := by rw [BitVec.toNat_ofNat]; omega
  have f_nr := bits_of 54 pw nr (by omega)
  have f_frow := bits_of 48 pw frow (by omega)
  have f_wb := bits_of 47 pw wb (by omega)
  have f_adv := bits_of 46 pw adv (by omega)
  have f_kv := bits_of 39 pw kv (by omega)
  have op : pw / 1152921504606846976 = 3 := by omega
  refine uop_ok (n := pw) rfl rfl (by rw [← hp]; rfl) ?_
  simp only [rawUop, hn, f_nr, f_frow, f_wb, f_adv, f_kv, op]

theorem Encodes.accz (nr : BitVec 6) (frow : BitVec 6) (wb : BitVec 1) : Encodes.Statement (.accz nr frow wb) := by
  have b_nr := nr.isLt
  have b_frow := frow.isLt
  have b_wb := wb.isLt
  generalize hp : 4611686018427387904 + nr.toNat * 18014398509481984 + frow.toNat * 281474976710656 + wb.toNat * 140737488355328 = pw
  have hn : (BitVec.ofNat 64 pw).toNat = pw := by rw [BitVec.toNat_ofNat]; omega
  have f_nr := bits_of 54 pw nr (by omega)
  have f_frow := bits_of 48 pw frow (by omega)
  have f_wb := bits_of 47 pw wb (by omega)
  have op : pw / 1152921504606846976 = 4 := by omega
  refine uop_ok (n := pw) rfl rfl (by rw [← hp]; rfl) ?_
  simp only [rawUop, hn, f_nr, f_frow, f_wb, op]

theorem Encodes.accl (nr : BitVec 6) (frow : BitVec 6) (wb : BitVec 1) (pa : BitVec 3) (fx : BitVec 1) : Encodes.Statement (.accl nr frow wb pa fx) := by
  have b_nr := nr.isLt
  have b_frow := frow.isLt
  have b_wb := wb.isLt
  have b_pa := pa.isLt
  have b_fx := fx.isLt
  generalize hp : 5764607523034234880 + nr.toNat * 18014398509481984 + frow.toNat * 281474976710656 + wb.toNat * 140737488355328 + pa.toNat * 17592186044416 + fx.toNat * 8796093022208 = pw
  have hn : (BitVec.ofNat 64 pw).toNat = pw := by rw [BitVec.toNat_ofNat]; omega
  have f_nr := bits_of 54 pw nr (by omega)
  have f_frow := bits_of 48 pw frow (by omega)
  have f_wb := bits_of 47 pw wb (by omega)
  have f_pa := bits_of 44 pw pa (by omega)
  have f_fx := bits_of 43 pw fx (by omega)
  have op : pw / 1152921504606846976 = 5 := by omega
  refine uop_ok (n := pw) rfl rfl (by rw [← hp]; rfl) ?_
  simp only [rawUop, hn, f_nr, f_frow, f_wb, f_pa, f_fx, op]

theorem Encodes.drn (nr : BitVec 6) (frow : BitVec 6) (wb : BitVec 1) (dst : BitVec 2) (pa : BitVec 3) (clr : BitVec 1) : Encodes.Statement (.drn nr frow wb dst pa clr) := by
  have b_nr := nr.isLt
  have b_frow := frow.isLt
  have b_wb := wb.isLt
  have b_dst := dst.isLt
  have b_pa := pa.isLt
  have b_clr := clr.isLt
  generalize hp : 6917529027641081856 + nr.toNat * 18014398509481984 + frow.toNat * 281474976710656 + wb.toNat * 140737488355328 + dst.toNat * 35184372088832 + pa.toNat * 4398046511104 + clr.toNat * 2199023255552 = pw
  have hn : (BitVec.ofNat 64 pw).toNat = pw := by rw [BitVec.toNat_ofNat]; omega
  have f_nr := bits_of 54 pw nr (by omega)
  have f_frow := bits_of 48 pw frow (by omega)
  have f_wb := bits_of 47 pw wb (by omega)
  have f_dst := bits_of 45 pw dst (by omega)
  have f_pa := bits_of 42 pw pa (by omega)
  have f_clr := bits_of 41 pw clr (by omega)
  have op : pw / 1152921504606846976 = 6 := by omega
  refine uop_ok (n := pw) rfl rfl (by rw [← hp]; rfl) ?_
  simp only [rawUop, hn, f_nr, f_frow, f_wb, f_dst, f_pa, f_clr, op]

theorem Encodes.adptDown (nr : BitVec 6) (frow : BitVec 6) (wb : BitVec 1) (pi : BitVec 3) (pt : BitVec 3) (pd : BitVec 3) : Encodes.Statement (.adptDown nr frow wb pi pt pd) := by
  have b_nr := nr.isLt
  have b_frow := frow.isLt
  have b_wb := wb.isLt
  have b_pi := pi.isLt
  have b_pt := pt.isLt
  have b_pd := pd.isLt
  generalize hp : 8070450532247928832 + nr.toNat * 18014398509481984 + frow.toNat * 281474976710656 + wb.toNat * 140737488355328 + pi.toNat * 8796093022208 + pt.toNat * 1099511627776 + pd.toNat * 137438953472 = pw
  have hn : (BitVec.ofNat 64 pw).toNat = pw := by rw [BitVec.toNat_ofNat]; omega
  have f_nr := bits_of 54 pw nr (by omega)
  have f_frow := bits_of 48 pw frow (by omega)
  have f_wb := bits_of 47 pw wb (by omega)
  have f_pi := bits_of 43 pw pi (by omega)
  have f_pt := bits_of 40 pw pt (by omega)
  have f_pd := bits_of 37 pw pd (by omega)
  have op : pw / 1152921504606846976 = 7 := by omega
  have sel : pw / 70368744177664 % 2 = 0 := by omega
  refine uop_ok (n := pw) rfl rfl (by rw [← hp]; rfl) ?_
  simp only [rawUop, hn, f_nr, f_frow, f_wb, f_pi, f_pt, f_pd, op, sel]

theorem Encodes.adptUp (nr : BitVec 6) (frow : BitVec 6) (wb : BitVec 1) (pi : BitVec 3) (pt : BitVec 3) (pd : BitVec 3) : Encodes.Statement (.adptUp nr frow wb pi pt pd) := by
  have b_nr := nr.isLt
  have b_frow := frow.isLt
  have b_wb := wb.isLt
  have b_pi := pi.isLt
  have b_pt := pt.isLt
  have b_pd := pd.isLt
  generalize hp : 8070450532247928832 + nr.toNat * 18014398509481984 + frow.toNat * 281474976710656 + wb.toNat * 140737488355328 + pi.toNat * 8796093022208 + pt.toNat * 1099511627776 + pd.toNat * 137438953472 + 70368744177664 = pw
  have hn : (BitVec.ofNat 64 pw).toNat = pw := by rw [BitVec.toNat_ofNat]; omega
  have f_nr := bits_of 54 pw nr (by omega)
  have f_frow := bits_of 48 pw frow (by omega)
  have f_wb := bits_of 47 pw wb (by omega)
  have f_pi := bits_of 43 pw pi (by omega)
  have f_pt := bits_of 40 pw pt (by omega)
  have f_pd := bits_of 37 pw pd (by omega)
  have op : pw / 1152921504606846976 = 7 := by omega
  have sel : pw / 70368744177664 % 2 = 1 := by omega
  refine uop_ok (n := pw) rfl rfl (by rw [← hp]; rfl) ?_
  simp only [rawUop, hn, f_nr, f_frow, f_wb, f_pi, f_pt, f_pd, op, sel]

theorem Encodes.abftArm (nr : BitVec 6) (frow : BitVec 6) (wb : BitVec 1) : Encodes.Statement (.abftArm nr frow wb) := by
  have b_nr := nr.isLt
  have b_frow := frow.isLt
  have b_wb := wb.isLt
  generalize hp : 9223372036854775808 + nr.toNat * 18014398509481984 + frow.toNat * 281474976710656 + wb.toNat * 140737488355328 = pw
  have hn : (BitVec.ofNat 64 pw).toNat = pw := by rw [BitVec.toNat_ofNat]; omega
  have f_nr := bits_of 54 pw nr (by omega)
  have f_frow := bits_of 48 pw frow (by omega)
  have f_wb := bits_of 47 pw wb (by omega)
  have op : pw / 1152921504606846976 = 8 := by omega
  have sel : pw / 70368744177664 % 2 = 0 := by omega
  refine uop_ok (n := pw) rfl rfl (by rw [← hp]; rfl) ?_
  simp only [rawUop, hn, f_nr, f_frow, f_wb, op, sel]

theorem Encodes.abftCheck (nr : BitVec 6) (frow : BitVec 6) (wb : BitVec 1) : Encodes.Statement (.abftCheck nr frow wb) := by
  have b_nr := nr.isLt
  have b_frow := frow.isLt
  have b_wb := wb.isLt
  generalize hp : 9223372036854775808 + nr.toNat * 18014398509481984 + frow.toNat * 281474976710656 + wb.toNat * 140737488355328 + 70368744177664 = pw
  have hn : (BitVec.ofNat 64 pw).toNat = pw := by rw [BitVec.toNat_ofNat]; omega
  have f_nr := bits_of 54 pw nr (by omega)
  have f_frow := bits_of 48 pw frow (by omega)
  have f_wb := bits_of 47 pw wb (by omega)
  have op : pw / 1152921504606846976 = 8 := by omega
  have sel : pw / 70368744177664 % 2 = 1 := by omega
  refine uop_ok (n := pw) rfl rfl (by rw [← hp]; rfl) ?_
  simp only [rawUop, hn, f_nr, f_frow, f_wb, op, sel]

theorem Encodes.loopm (lvl : BitVec 2) (src : BitVec 1) (pr : BitVec 3) (cnt : BitVec 14) (tgt : BitVec 14) : Encodes.Statement (.loopm lvl src pr cnt tgt) := by
  have b_lvl := lvl.isLt
  have b_src := src.isLt
  have b_pr := pr.isLt
  have b_cnt := cnt.isLt
  have b_tgt := tgt.isLt
  generalize hp : 10376293541461622784 + lvl.toNat * 288230376151711744 + src.toNat * 144115188075855872 + pr.toNat * 18014398509481984 + cnt.toNat * 1099511627776 + tgt.toNat * 67108864 = pw
  have hn : (BitVec.ofNat 64 pw).toNat = pw := by rw [BitVec.toNat_ofNat]; omega
  have f_lvl := bits_of 58 pw lvl (by omega)
  have f_src := bits_of 57 pw src (by omega)
  have f_pr := bits_of 54 pw pr (by omega)
  have f_cnt := bits_of 40 pw cnt (by omega)
  have f_tgt := bits_of 26 pw tgt (by omega)
  have op : pw / 1152921504606846976 = 9 := by omega
  refine uop_ok (n := pw) rfl rfl (by rw [← hp]; rfl) ?_
  simp only [rawUop, hn, f_lvl, f_src, f_pr, f_cnt, f_tgt, op]

theorem Encodes.padd (pd : BitVec 3) (src : BitVec 1) (ps : BitVec 3) (imm : BitVec 32) : Encodes.Statement (.padd pd src ps imm) := by
  have b_pd := pd.isLt
  have b_src := src.isLt
  have b_ps := ps.isLt
  have b_imm := imm.isLt
  generalize hp : 11529215046068469760 + pd.toNat * 144115188075855872 + src.toNat * 72057594037927936 + ps.toNat * 9007199254740992 + imm.toNat * 2097152 = pw
  have hn : (BitVec.ofNat 64 pw).toNat = pw := by rw [BitVec.toNat_ofNat]; omega
  have f_pd := bits_of 57 pw pd (by omega)
  have f_src := bits_of 56 pw src (by omega)
  have f_ps := bits_of 53 pw ps (by omega)
  have f_imm := bits_of 21 pw imm (by omega)
  have op : pw / 1152921504606846976 = 10 := by omega
  refine uop_ok (n := pw) rfl rfl (by rw [← hp]; rfl) ?_
  simp only [rawUop, hn, f_pd, f_src, f_ps, f_imm, op]

theorem Encodes.yld : Encodes.Statement .yld := by
  have hn : (BitVec.ofNat 64 12682136550675316736).toNat = 12682136550675316736 := rfl
  have op : 12682136550675316736 / 1152921504606846976 = 11 := by omega
  refine uop_ok (n := 12682136550675316736) rfl rfl rfl ?_
  simp only [rawUop, hn, op]

theorem Encodes.hwtWaitf (hod : BitVec 5) (n : BitVec 8) : Encodes.Statement (.hwtWaitf hod n) := by
  have b_hod := hod.isLt
  have b_n := n.isLt
  generalize hp : 14987979559889010688 + hod.toNat * 9007199254740992 + n.toNat * 35184372088832 = pw
  have hn : (BitVec.ofNat 64 pw).toNat = pw := by rw [BitVec.toNat_ofNat]; omega
  have f_hod := bits_of 53 pw hod (by omega)
  have f_n := bits_of 45 pw n (by omega)
  have op : pw / 1152921504606846976 = 13 := by omega
  have sel : pw / 288230376151711744 % 4 = 0 := by omega
  refine uop_ok (n := pw) rfl rfl (by rw [← hp]; rfl) ?_
  simp only [rawUop, hn, f_hod, f_n, op, sel]

theorem Encodes.hwtAdvr (hod : BitVec 5) (n : BitVec 8) : Encodes.Statement (.hwtAdvr hod n) := by
  have b_hod := hod.isLt
  have b_n := n.isLt
  generalize hp : 14987979559889010688 + hod.toNat * 9007199254740992 + n.toNat * 35184372088832 + 288230376151711744 = pw
  have hn : (BitVec.ofNat 64 pw).toNat = pw := by rw [BitVec.toNat_ofNat]; omega
  have f_hod := bits_of 53 pw hod (by omega)
  have f_n := bits_of 45 pw n (by omega)
  have op : pw / 1152921504606846976 = 13 := by omega
  have sel : pw / 288230376151711744 % 4 = 1 := by omega
  refine uop_ok (n := pw) rfl rfl (by rw [← hp]; rfl) ?_
  simp only [rawUop, hn, f_hod, f_n, op, sel]

theorem Encodes.hwtWaitb (hod : BitVec 5) : Encodes.Statement (.hwtWaitb hod) := by
  have b_hod := hod.isLt
  generalize hp : 14987979559889010688 + hod.toNat * 9007199254740992 + 576460752303423488 = pw
  have hn : (BitVec.ofNat 64 pw).toNat = pw := by rw [BitVec.toNat_ofNat]; omega
  have f_hod := bits_of 53 pw hod (by omega)
  have op : pw / 1152921504606846976 = 13 := by omega
  have sel : pw / 288230376151711744 % 4 = 2 := by omega
  refine uop_ok (n := pw) rfl rfl (by rw [← hp]; rfl) ?_
  simp only [rawUop, hn, f_hod, op, sel]

theorem Encodes.endOp : Encodes.Statement .endOp := by
  have hn : (BitVec.ofNat 64 16140901064495857664).toNat = 16140901064495857664 := rfl
  have op : 16140901064495857664 / 1152921504606846976 = 14 := by omega
  refine uop_ok (n := 16140901064495857664) rfl rfl rfl ?_
  simp only [rawUop, hn, op]

theorem Encodes.mwrite (m : HostMsg) : Encodes.Statement (.mwrite m) :=
  msg_ok 1 m rfl rfl fun _ => by simp [decodeMsg, msgBytes_length, leAt_msgType, hostMsgOf_msgBytes]

theorem Encodes.mread (m : HostMsg) : Encodes.Statement (.mread m) :=
  msg_ok 2 m rfl rfl fun _ => by simp [decodeMsg, msgBytes_length, leAt_msgType, hostMsgOf_msgBytes]

theorem Encodes.ingress (m : HostMsg) : Encodes.Statement (.ingress m) :=
  msg_ok 3 m rfl rfl fun _ => by simp [decodeMsg, msgBytes_length, leAt_msgType, hostMsgOf_msgBytes]

theorem Encodes.claim (m : HostMsg) : Encodes.Statement (.claim m) :=
  msg_ok 4 m rfl rfl fun _ => by simp [decodeMsg, msgBytes_length, leAt_msgType, hostMsgOf_msgBytes]

theorem Encodes.deadlineRaise (m : HostMsg) : Encodes.Statement (.deadlineRaise m) := by
  refine msg_ok 5 m rfl rfl fun hw => ?_
  have hw : m.a1.getLsbD 0 = false := by simpa using (show (!m.a1.getLsbD 0) = true from hw)
  simp [decodeMsg, msgBytes_length, leAt_msgType, hostMsgOf_msgBytes]
  simpa using hw

theorem Encodes.deadlineExpire (m : HostMsg) : Encodes.Statement (.deadlineExpire m) := by
  refine msg_ok 5 m rfl rfl fun hw => ?_
  have hw : m.a1.getLsbD 0 = true := by simpa using (show (m.a1.getLsbD 0) = true from hw)
  simp [decodeMsg, msgBytes_length, leAt_msgType, hostMsgOf_msgBytes, hw]

theorem Encodes.fanswerMapped (m : HostMsg) : Encodes.Statement (.fanswerMapped m) := by
  refine msg_ok 6 m rfl rfl fun hw => ?_
  have hw : m.a2.getLsbD 0 = true := by simpa using (show (m.a2.getLsbD 0) = true from hw)
  simp [decodeMsg, msgBytes_length, leAt_msgType, hostMsgOf_msgBytes, hw]

theorem Encodes.fanswerNone (m : HostMsg) : Encodes.Statement (.fanswerNone m) := by
  refine msg_ok 6 m rfl rfl fun hw => ?_
  have hw : m.a2.getLsbD 0 = false := by simpa using (show (!m.a2.getLsbD 0) = true from hw)
  simp [decodeMsg, msgBytes_length, leAt_msgType, hostMsgOf_msgBytes]
  simpa using hw

theorem Encodes.dread (m : HostMsg) : Encodes.Statement (.dread m) :=
  msg_ok 7 m rfl rfl fun _ => by simp [decodeMsg, msgBytes_length, leAt_msgType, hostMsgOf_msgBytes]

theorem Encodes.fmap (m : HostMsg) : Encodes.Statement (.fmap m) :=
  msg_ok 8 m rfl rfl fun _ => by simp [decodeMsg, msgBytes_length, leAt_msgType, hostMsgOf_msgBytes]

theorem Encodes.fwload (m : HostCmd) : Encodes.Statement (.fwload m) :=
  cmd_ok 0x10 m rfl rfl (by simp [decodeCmd, cmdBytes_length, leAt_cmdType, hostCmdOf_cmdBytes])

theorem Encodes.fwgo (m : HostCmd) : Encodes.Statement (.fwgo m) :=
  cmd_ok 0x11 m rfl rfl (by simp [decodeCmd, cmdBytes_length, leAt_cmdType, hostCmdOf_cmdBytes])

theorem Encodes.tenantSet (m : HostCmd) : Encodes.Statement (.tenantSet m) :=
  cmd_ok 0x20 m rfl rfl (by simp [decodeCmd, cmdBytes_length, leAt_cmdType, hostCmdOf_cmdBytes])

theorem Encodes.tenantClr (m : HostCmd) : Encodes.Statement (.tenantClr m) :=
  cmd_ok 0x21 m rfl rfl (by simp [decodeCmd, cmdBytes_length, leAt_cmdType, hostCmdOf_cmdBytes])

theorem Encodes.keyload (m : HostCmd) : Encodes.Statement (.keyload m) :=
  cmd_ok 0x22 m rfl rfl (by simp [decodeCmd, cmdBytes_length, leAt_cmdType, hostCmdOf_cmdBytes])

theorem Encodes.keyfree (m : HostCmd) : Encodes.Statement (.keyfree m) :=
  cmd_ok 0x23 m rfl rfl (by simp [decodeCmd, cmdBytes_length, leAt_cmdType, hostCmdOf_cmdBytes])

theorem Encodes.unlockChal (m : HostCmd) : Encodes.Statement (.unlockChal m) :=
  cmd_ok 0x30 m rfl rfl (by simp [decodeCmd, cmdBytes_length, leAt_cmdType, hostCmdOf_cmdBytes])

theorem Encodes.unlock (m : HostCmd) : Encodes.Statement (.unlock m) :=
  cmd_ok 0x31 m rfl rfl (by simp [decodeCmd, cmdBytes_length, leAt_cmdType, hostCmdOf_cmdBytes])

theorem Encodes.quote (m : HostCmd) : Encodes.Statement (.quote m) :=
  cmd_ok 0x40 m rfl rfl (by simp [decodeCmd, cmdBytes_length, leAt_cmdType, hostCmdOf_cmdBytes])

theorem Encodes.extend (m : HostCmd) : Encodes.Statement (.extend m) :=
  cmd_ok 0x41 m rfl rfl (by simp [decodeCmd, cmdBytes_length, leAt_cmdType, hostCmdOf_cmdBytes])

theorem Encodes.lcsAdvance (m : HostCmd) : Encodes.Statement (.lcsAdvance m) :=
  cmd_ok 0x50 m rfl rfl (by simp [decodeCmd, cmdBytes_length, leAt_cmdType, hostCmdOf_cmdBytes])

theorem Encodes.nodeset (m : HostCmd) : Encodes.Statement (.nodeset m) :=
  cmd_ok 0x60 m rfl rfl (by simp [decodeCmd, cmdBytes_length, leAt_cmdType, hostCmdOf_cmdBytes])

theorem Encodes.heldBundleRelease (core : Nat) (cx : CtxId) : Encodes.Statement (.heldBundleRelease core cx) :=
  event_ok rfl rfl

theorem Encodes.flipComplete (core : Nat) (cx : CtxId) : Encodes.Statement (.flipComplete core cx) :=
  event_ok rfl rfl

theorem Encodes.pwqLand (core : Nat) (cx : CtxId) (k : Nat) : Encodes.Statement (.pwqLand core cx k) :=
  event_ok rfl rfl

theorem Encodes.secbndBubble (core : Nat) : Encodes.Statement (.secbndBubble core) :=
  event_ok rfl rfl

theorem Encodes.secondaryAccessGrant (core : Nat) : Encodes.Statement (.secondaryAccessGrant core) :=
  event_ok rfl rfl

theorem Encodes.barRelease (core : Nat) (cx : CtxId) : Encodes.Statement (.barRelease core cx) :=
  event_ok rfl rfl

theorem Encodes.waitTimeout (core : Nat) (cx : CtxId) : Encodes.Statement (.waitTimeout core cx) :=
  event_ok rfl rfl

theorem Encodes.accessPerform (core : Nat) (k : Nat) : Encodes.Statement (.accessPerform core k) :=
  event_ok rfl rfl

theorem Encodes.writeNoticeApply (die : Nat) (k : Nat) : Encodes.Statement (.writeNoticeApply die k) :=
  event_ok rfl rfl

theorem Encodes.xlatWalkComplete (core : Nat) (cx : CtxId) : Encodes.Statement (.xlatWalkComplete core cx) :=
  event_ok rfl rfl

theorem Encodes.pageWalkPark (core : Nat) (cx : CtxId) : Encodes.Statement (.pageWalkPark core cx) :=
  event_ok rfl rfl

theorem Encodes.trapEntry (core : Nat) (cx : CtxId) : Encodes.Statement (.trapEntry core cx) :=
  event_ok rfl rfl

theorem Encodes.refetchDone (core : Nat) (cx : CtxId) : Encodes.Statement (.refetchDone core cx) :=
  event_ok rfl rfl

theorem Encodes.phaseReplay (core : Nat) (cx : CtxId) : Encodes.Statement (.phaseReplay core cx) :=
  event_ok rfl rfl

theorem Encodes.preemptRequest (gang : Nat) : Encodes.Statement (.preemptRequest gang) :=
  event_ok rfl rfl

theorem Encodes.gangResume (gang : Nat) : Encodes.Statement (.gangResume gang) :=
  event_ok rfl rfl

theorem Encodes.opStart (core : Nat) (ch : Nat) : Encodes.Statement (.opStart core ch) :=
  event_ok rfl rfl

theorem Encodes.copyLineGrant (core : Nat) : Encodes.Statement (.copyLineGrant core) :=
  event_ok rfl rfl

theorem Encodes.collStep (core : Nat) : Encodes.Statement (.collStep core) :=
  event_ok rfl rfl

theorem Encodes.restripeLineMove (core : Nat) : Encodes.Statement (.restripeLineMove core) :=
  event_ok rfl rfl

theorem Encodes.cryptoOperation (core : Nat) : Encodes.Statement (.cryptoOperation core) :=
  event_ok rfl rfl

theorem Encodes.kjoinComplete (core : Nat) (ch : Nat) : Encodes.Statement (.kjoinComplete core ch) :=
  event_ok rfl rfl

theorem Encodes.adapterFetchComplete (core : Nat) : Encodes.Statement (.adapterFetchComplete core) :=
  event_ok rfl rfl

theorem Encodes.hcfgCreate (hod : BitVec 5) (v : BitVec 64) : Encodes.Statement (.hcfgCreate hod v) :=
  event_ok rfl rfl

theorem Encodes.hcfgDestroy (hod : BitVec 5) (v : BitVec 64) : Encodes.Statement (.hcfgDestroy hod v) :=
  event_ok rfl rfl

theorem Encodes.mxcfgWrite (v : BitVec 64) : Encodes.Statement (.mxcfgWrite v) :=
  event_ok rfl rfl

theorem Encodes.intpWrite (v : BitVec 64) : Encodes.Statement (.intpWrite v) :=
  event_ok rfl rfl

theorem Encodes.trrbWrite (v : BitVec 64) : Encodes.Statement (.trrbWrite v) :=
  event_ok rfl rfl

theorem Encodes.dtqWrite (ten : BitVec 4) (v : BitVec 64) : Encodes.Statement (.dtqWrite ten v) :=
  event_ok rfl rfl

theorem Encodes.rclsWrite (cls : BitVec 4) (v : BitVec 64) : Encodes.Statement (.rclsWrite cls v) :=
  event_ok rfl rfl

theorem Encodes.queueScan (ten : BitVec 4) : Encodes.Statement (.queueScan ten) :=
  event_ok rfl rfl

theorem Encodes.launchSelect : Encodes.Statement .launchSelect :=
  event_ok rfl rfl

theorem Encodes.gangPlace (gang : Nat) : Encodes.Statement (.gangPlace gang) :=
  event_ok rfl rfl

theorem Encodes.fabricGangStart (gang : Nat) : Encodes.Statement (.fabricGangStart gang) :=
  event_ok rfl rfl

theorem Encodes.alarmExpire (core : Nat) : Encodes.Statement (.alarmExpire core) :=
  event_ok rfl rfl

theorem Encodes.tenantQueueServe (q : Nat) : Encodes.Statement (.tenantQueueServe q) :=
  event_ok rfl rfl

theorem Encodes.tileSpare (die : Nat) (tile : Nat) : Encodes.Statement (.tileSpare die tile) :=
  event_ok rfl rfl

theorem Encodes.dieSwitch (die : Nat) : Encodes.Statement (.dieSwitch die) :=
  event_ok rfl rfl

theorem Encodes.dieLost (die : Nat) : Encodes.Statement (.dieLost die) :=
  event_ok rfl rfl

theorem Encodes.flitReceive (port : Nat) (flit : List (BitVec 8)) : Encodes.Statement (.flitReceive port flit) :=
  event_ok rfl rfl

theorem Encodes.laneSpare (port : Nat) (lane : Nat) : Encodes.Statement (.laneSpare port lane) :=
  event_ok rfl rfl

theorem Encodes.ucieLane (module : Nat) (lane : Nat) : Encodes.Statement (.ucieLane module lane) :=
  event_ok rfl rfl

theorem Encodes.debugStop (gang : Nat) : Encodes.Statement (.debugStop gang) :=
  event_ok rfl rfl

theorem Encodes.debugPortAccess (gang : Nat) (rq : PortRequest) : Encodes.Statement (.debugPortAccess gang rq) :=
  event_ok rfl rfl

theorem Encodes.traceSample (core : Nat) : Encodes.Statement (.traceSample core) :=
  event_ok rfl rfl

theorem Encodes.scrubLine (bed : Nat) : Encodes.Statement (.scrubLine bed) :=
  event_ok rfl rfl

theorem Encodes.ppr (stack : Nat) (row : Nat) : Encodes.Statement (.ppr stack row) :=
  event_ok rfl rfl

theorem Encodes.chanSpare (stack : Nat) (ch : Nat) : Encodes.Statement (.chanSpare stack ch) :=
  event_ok rfl rfl

theorem Encodes.pageRetire (frame : Nat) : Encodes.Statement (.pageRetire frame) :=
  event_ok rfl rfl

theorem Encodes.voltRestore (die : Nat) : Encodes.Statement (.voltRestore die) :=
  event_ok rfl rfl

theorem Encodes.remeasurementEnd (die : Nat) : Encodes.Statement (.remeasurementEnd die) :=
  event_ok rfl rfl

theorem Encodes.dvfsEvaluation : Encodes.Statement .dvfsEvaluation :=
  event_ok rfl rfl

theorem Encodes.thermalTrip (temp : Nat) : Encodes.Statement (.thermalTrip temp) :=
  event_ok rfl rfl

theorem Encodes.railFault (rail : Nat) : Encodes.Statement (.railFault rail) :=
  event_ok rfl rfl

theorem Encodes.powerUp : Encodes.Statement .powerUp :=
  event_ok rfl rfl

theorem Encodes.runtimeQueueRiAdvance (ten : BitVec 4) (ri : BitVec 64) : Encodes.Statement (.runtimeQueueRiAdvance ten ri) :=
  event_ok rfl rfl

theorem Encodes.fabricPartRejected (gang : Nat) : Encodes.Statement (.fabricPartRejected gang) :=
  event_ok rfl rfl

theorem Encodes.undervoltExcursion (die : Nat) (start : Bool) : Encodes.Statement (.undervoltExcursion die start) :=
  event_ok rfl rfl

end Sys2Proof.Laws
end

