-- ==== Sys2Proof/Tests/Slice0.lean ====
section
/-! SUPPORT. The model's own tests: terms that the well-formedness checks refuse, words of the spec's encoding tables and
what they decode to, results worked out in the spec, and a witness for the hypotheses of every statement. -/

namespace Sys2Proof.Tests

open Sys2Proof Sys2Proof.Machine Sys2Proof.Safety Sys2Proof.Claims

set_option maxRecDepth 20000
set_option Elab.async false
set_option exponentiation.threshold 5000
set_option linter.unnecessarySeqFocus false

/-! ### Ill-formed terms, one for each check of WellFormed -/

theorem test_wf_accepts : (Instr.add bare 1 2 3).wf = true ∧ (Instr.sts ⟨true, true, 3, 0⟩ 1 2 3 4).wf = true := by decide
theorem test_wf_guard_without_ge :
    (Instr.add ⟨false, true, 0, 0⟩ 1 2 3).wf = false ∧ (Instr.add ⟨false, false, 4, 0⟩ 1 2 3).wf = false := by decide
theorem test_wf_land_without_write : (Instr.br ⟨false, false, 0, 1⟩ 5).wf = false := by decide
theorem test_wf_shift_immediate : (Instr.shli bare 1 2 64).wf = false ∧ (Instr.shli bare 1 2 63).wf = true := by decide
theorem test_wf_width_codes : (Instr.lds bare 1 2 7 0).wf = false ∧ (Instr.sts bare 1 2 4 0).wf = false := by decide
theorem test_wf_vector_shapes :
    (Instr.vld .v0 bare 1 2 3 0).wf = false ∧ (Instr.vld .v0 bare 1 2 0 6).wf = false
      ∧ (Instr.vst .v1 bare 1 2 3 2).wf = true := by decide
theorem test_wf_tail : (Instr.ltset bare 256).wf = false ∧ (Instr.ltset bare 255).wf = true := by decide
theorem test_wf_integer_types : (Instr.vadd .v0 bare 1 2 3 4).wf = false ∧ (Instr.vadd .v0 bare 1 2 3 3).wf = true := by decide
theorem test_wf_float_types : (Instr.vfadd .v0 bare 1 2 3 3).wf = false ∧ (Instr.vfadd .v0 bare 1 2 3 4).wf = true := by decide
theorem test_wf_narrow_types : (Instr.vpack .v0 bare 1 2 3 3).wf = false ∧ (Instr.vunpkl .v0 bare 1 2 7).wf = false := by decide
theorem test_wf_conversion_codes :
    (Instr.vcvt .v0 bare 1 2 3 3).wf = false ∧ (Instr.vcvt .v0 bare 1 2 14 3).wf = false
      ∧ (Instr.vcvts .v0 bare 1 2 15 3).wf = true := by decide
theorem test_wf_nf4_types : (Instr.vqnf .v0 bare 1 2 3 7).wf = false := by decide
theorem test_wf_cross_cluster_needs_land :
    (Instr.vxcl .v0 bare 1 2 3 0).wf = false ∧ (Instr.vxcl .v0 ⟨false, false, 0, 1⟩ 1 2 3 0).wf = true := by decide
theorem test_wf_predecessor_field :
    (Instr.copy .c0 bare 1 2 0 0 3 0).wf = false ∧ (Instr.copy .c0 bare 1 2 0 0 3 1).wf = true := by decide
theorem test_wf_priority : (Instr.kprio .c0 bare 1 4).wf = false := by decide
theorem test_wf_float_atomics : (Instr.famo .c1 bare 1 2 3 5).wf = false := by decide
theorem test_wf_fence_mask : (Instr.fence bare 1 0).wf = false := by decide
theorem test_wf_invalidate_scope : (Instr.iinv bare 6).wf = false := by decide
theorem test_wf_register_class :
    (Instr.xregRd bare 1 16 0 0 1).wf = false ∧ (Instr.xregWr bare 1 4 0 0 5).wf = false
      ∧ (Instr.xregRd bare 1 31 0 0 0).wf = true := by decide
theorem test_wf_wait_condition : (Instr.wait bare 1 2 3).wf = false := by decide
theorem test_wf_prefix_modes :
    (Instr.pfx 7 0 0 0 0 0).wf = false ∧ (Instr.pfx 1 0 0 0 4 0).wf = false ∧ (Instr.pfx 6 0 0 0 4 0).wf = true := by decide
theorem test_wf_extension_target : (Instr.imx 7 1).wf = false := by decide
theorem test_wf_row_range : (Instr.accz 1 63 0).wf = false ∧ (Instr.accz 0 63 0).wf = true := by decide
theorem test_wf_routine_modes : (Instr.fmts 6 0 0).wf = false := by decide
theorem test_wf_pitch : (Instr.afet 0 0 0 0).wf = false ∧ (Instr.afet 0 65 0 0).wf = false := by decide
theorem test_wf_drain_destination : (Instr.drn 0 0 0 3 0 0).wf = false ∧ (Instr.drn 0 0 0 2 1 0).wf = false := by decide
theorem test_wf_unused_routine_fields : (Instr.loopm 0 1 0 1 0).wf = false ∧ (Instr.padd 0 0 1 1).wf = false := by decide
theorem test_wf_routine_waits : (Instr.hwtWaitf 0 0).wf = false ∧ (Instr.hwtAdvr 0 0).wf = false := by decide
theorem test_wf_message_kinds :
    (Instr.deadlineRaise ⟨0, 0, 0, 0, 1, 0, []⟩).wf = false ∧ (Instr.fanswerNone ⟨0, 0, 0, 0, 0, 1, []⟩).wf = false := by decide

/-! ### Words of the spec's encoding tables (02 Encoding by example; 03, 06, 11, 19 Encodings at a glance; 08 the routine
of its example) -/

theorem test_decode_scalar :
    decodeSlot .s 0x04008111 = .ok (.sub bare 4 1 2) ∧ decodeSlot .s 0x0C04E534 = .ok (.divu ⟨false, false, 0, 1⟩ 7 5 6)
      ∧ decodeSlot .s 0x14006113 = .ok (.lea bare 3 1 2 3) ∧ decodeSlot .s 0x30008403 = .ok (.shli bare 4 4 3)
      ∧ decodeSlot .s 0x48013FFE = .ok (.ldi bare 9 (-2)) ∧ decodeSlot .s 0x2390A5FF = .ok (.addi ⟨true, true, 9, 0⟩ 5 5 (-1))
      ∧ decodeSlot .s 0x10004908 = .ok (.clz bare 2 9) := by decide
theorem test_decode_compare_and_logic :
    decodeSlot .s 0x54008533 = .ok (.pandn bare 4 5 6) ∧ decodeSlot .s 0x18004112 = .ok (.cmpLts bare 2 1 2)
      ∧ decodeSlot .s 0x440023FF = .ok (.cmpltui bare 1 3 (-1)) ∧ decodeSlot .s 0x58002201 = .ok (.pfirst bare 1 2) := by decide
theorem test_decode_own_memory :
    decodeSlot .s 0x4C0046AF = .ok (.lds bare 2 6 5 15) ∧ decodeSlot .s 0x5000617F = .ok (.sts bare 3 1 3 31) := by decide
theorem test_decode_control :
    decodeSlot .s 0x60000005 = .ok (.br bare 5) ∧ decodeSlot .s 0x6403FFFD = .ok (.call bare (-3))
      ∧ decodeSlot .s 0x6C000800 = .ok (.calli bare 8) ∧ decodeSlot .s 0x70000000 = .ok (.ret bare)
      ∧ decodeSlot .s 0x74004500 = .ok (.lset bare 2 5) ∧ decodeSlot .s 0x7C000003 = .ok (.ltset bare 3)
      ∧ decodeSlot .s 0x8403FFFF = .ok (.loop bare 3 0xFFFF) ∧ decodeSlot .s 0x8001FFFC = .ok (.loopf bare 1 0xFFFC)
      ∧ decodeSlot .s 0x8800A000 = .ok (.movlrRead bare 5) ∧ decodeSlot .s 0x88000501 = .ok (.movlrWrite bare 5) := by decide
theorem test_decode_vector :
    decodeSlot .v1 0x6004A63C = .ok (.vfadd .v1 ⟨false, false, 0, 1⟩ 5 6 7 4)
      ∧ decodeSlot .v0 0x04006112 = .ok (.vadd .v0 bare 3 1 2 2)
      ∧ decodeSlot .v0 0xA00109CA = .ok (.vcvt .v0 bare 8 9 12 10)
      ∧ decodeSlot .v0 0xE4054B06 = .ok (.vrsum .v0 ⟨false, false, 0, 1⟩ 10 11 6)
      ∧ decodeSlot .v0 0xF8058D72 = .ok (.vxcl .v0 ⟨false, false, 0, 1⟩ 12 13 14 0)
      ∧ decodeSlot .v0 0x58004707 = .ok (.vsplat .v0 bare 2 7 7) ∧ decodeSlot .v0 0x5C00642E = .ok (.vext .v0 bare 3 4 5 6)
      ∧ decodeSlot .v0 0x6E9A9506 = .ok (.vfma .v0 ⟨true, false, 9, 2⟩ 20 21 0 6) := by decide
theorem test_decode_vector_memory :
    decodeSlot .v0 0x4400C329 = .ok (.vld .v0 bare 6 3 5 1) ∧ decodeSlot .v1 0xFC008200 = .ok (.vst .v1 bare 4 2 0 0)
      ∧ decodeSlot .v1 0x4401044A = .ok (.vld .v1 bare 8 4 9 2) := by decide
theorem test_decode_matrix_slot : decodeSlot .m 0x04008114 = .ok (.mcall bare 2 17 1 0) := by decide
theorem test_decode_memory_slots :
    decodeSlot .c1 0x4400E468 = .ok (.str .c1 bare 7 4 3 8) ∧ decodeSlot .c1 0x4000E468 = .ok (.ldr .c1 bare 7 4 3 8)
      ∧ decodeSlot .c1 0x600066A2 = .ok (.lda .c1 bare 3 6 5 2) ∧ decodeSlot .c0 0x64006620 = .ok (.strl .c0 bare 3 6 1 0)
      ∧ decodeSlot .c1 0x4801044A = .ok (.vldr .c1 bare 8 4 9 2) ∧ decodeSlot .c0 0x4C008200 = .ok (.vstr .c0 bare 4 2 0 0)
      ∧ decodeSlot .c1 0x5404A63B = .ok (.amod .c1 ⟨false, false, 0, 1⟩ 5 6 7 3)
      ∧ decodeSlot .c1 0x58004419 = .ok (.cas .c1 bare 2 4 3 1) ∧ decodeSlot .c1 0x5C010531 = .ok (.famo .c1 bare 8 5 6 1) := by
  decide
theorem test_decode_engines :
    decodeSlot .c0 0x0401554E = .ok (.copy .c0 bare 5 10 2 1 3 1) ∧ decodeSlot .c1 0x2400A202 = .ok (.kstat .c1 bare 5 2 2) := by
  decide
theorem test_decode_system :
    decodeSlot .x 0x04000000 = .ok (.flip bare) ∧ decodeSlot .x 0x080000A7 = .ok (.fence bare 5 7)
      ∧ decodeSlot .x 0x3000040C = .ok (.xlat bare 4 12) ∧ decodeSlot .x 0x3400A001 = .ok (.xmov bare 5 1)
      ∧ decodeSlot .x 0x6C00084A = .ok (.pairset bare 8 9 2) ∧ decodeSlot .x 0x0C000210 = .ok (.kwait bare 2 16)
      ∧ decodeSlot .x 0x14000403 = .ok (.hwaitf bare 4 3) ∧ decodeSlot .x 0x20000403 = .ok (.hadvw bare 4 3)
      ∧ decodeSlot .x 0x2800A023 = .ok (.hptr bare 5 1 3) ∧ decodeSlot .x 0x680007A1 = .ok (.signal bare 7 20 1) := by decide
theorem test_decode_service :
    decodeSlot .x 0x40000005 = .ok (.trap bare 5) ∧ decodeSlot .x 0x44000000 = .ok (.rett bare)
      ∧ decodeSlot .x 0x48000900 = .ok (.hwin bare 9) ∧ decodeSlot .x 0x4C000000 = .ok (.segb bare)
      ∧ decodeSlot .x 0x50000428 = .ok (.sege bare 4 5) ∧ decodeSlot .x 0x54000001 = .ok (.iinv bare 1)
      ∧ decodeSlot .x 0x58006940 = .ok (.xregRd bare 3 9 1 0 0) ∧ decodeSlot .x 0x580061B4 = .ok (.xregWr bare 3 1 0 1 5)
      ∧ decodeSlot .x 0x5C000801 = .ok (.saveph bare 8 1) ∧ decodeSlot .x 0x60000801 = .ok (.loadph bare 8 1)
      ∧ decodeSlot .x 0x70000007 = .ok (.bkpt bare 7) ∧ decodeSlot .x 0x74000000 = .ok (.halt bare) := by decide
theorem test_decode_prefix :
    decodeSlot .p 0x0C012C05 = .ok (.mark 1200 5) ∧ decodeSlot .p 0x04E68800 = .ok (.pfx 1 6 0 1 20 1)
      ∧ decodeSlot .p 0x08000009 = .ok (.imx 0 9) ∧ decodeSlot .p 0x04080000 = .ok (.pfx 0 0 1 0 0 0) := by decide
theorem test_decode_routine :
    decodeUop 0xC0CC000000000000 = .ok (.fmts 0 12 12) ∧ decodeUop 0x1000800000000000 = .ok (.afet 0 64 0 0)
      ∧ decodeUop 0x2200000000000000 = .ok (.bsel 1 0 0 0) ∧ decodeUop 0x4040000000000000 = .ok (.accz 1 0 0)
      ∧ decodeUop 0x3040400000000000 = .ok (.macs 1 0 0 1 0) ∧ decodeUop 0xB000000000000000 = .ok .yld
      ∧ decodeUop 0x92C0000410000000 = .ok (.loopm 0 1 3 0 260) ∧ decodeUop 0x6040080000000000 = .ok (.drn 1 0 0 0 2 0)
      ∧ decodeUop 0x6040400000000000 = .ok (.drn 1 0 0 2 0 0)
      ∧ decodeUop 0xE000000000000000 = .ok .endOp := by decide
theorem test_decode_refusals :
    decodeSlot .s 0x08000006 = .error .badSelector ∧ decodeSlot .v0 0xF8000002 = .error .badField
      ∧ decodeSlot .x 0x08000020 = .error .badField ∧ decodeUop 0xC600000000000000 = .error .badField
      ∧ decodeUop 0 = .error .unassigned := by decide
theorem test_decode_messages :
    decode .message ([2, 3, 0, 0, 1, 0, 0, 0] ++ List.replicate 24 0) = .ok (.mread ⟨3, 0, 1, 0, 0, 0, []⟩)
      ∧ decode .message (List.replicate 3 0) = .error .badLength := by decide

/-! ### Small states -/

/-- A reset part with a changed core 0. -/
def coreSt (k : Core) : State := ({} : State).setCore 0 k
/-- A reset part with a changed context CB0 of core 0. -/
def ctxSt (x : Ctx) : State := coreSt { cb0 := x }
/-- Registers by key. -/
def regsOf (l : List (Nat × Nat)) : Tbl Two := l.foldl (fun t e => Tbl.set {} t e.1 { f0 := BitVec.ofNat 4096 e.2 }) []
/-- A reset part whose context in focus shows these scalar registers. -/
def sSt (l : List (Nat × Nat)) : State := ctxSt { regs := regsOf l }
/-- An unguarded header with a LAND. -/
def landH (n : BitVec 2) : Hdr := ⟨false, false, 0, n⟩

/-! ### Results worked out in the spec -/

/-- s: add of 5 and all ones wraps (03 R91). -/
theorem test_add_wraps : scalarValue (sSt [(1, 5), (2, 2 ^ 64 - 1)]) (.add bare 3 1 2) = some (bare, 3, 4, 1) := by decide
/-- b = 0 gives −1, the remainder a (03 R92). -/
theorem test_divide_by_zero :
    scalarValue (sSt [(1, 5)]) (.divs bare 3 1 2) = some (bare, 3, 0xFFFFFFFFFFFFFFFF, 18)
      ∧ scalarValue (sSt [(1, 5)]) (.rems bare 3 1 2) = some (bare, 3, 5, 18) := by decide
/-- a = −2^63 and b = −1 gives −2^63 and remainder 0 (03 R92). -/
theorem test_divide_overflow :
    scalarValue (sSt [(1, 2 ^ 63), (2, 2 ^ 64 - 1)]) (.divs bare 3 1 2) = some (bare, 3, 0x8000000000000000, 18)
      ∧ scalarValue (sSt [(1, 2 ^ 63), (2, 2 ^ 64 - 1)]) (.rems bare 3 1 2) = some (bare, 3, 0, 18) := by decide

/-! ### Witnesses: registers and results -/

theorem witness_scalar_results :
    scalarValue (sSt [(1, 5), (2, 7)]) (.add bare 3 1 2) = some (bare, 3, 12, 1)
      ∧ (sSt [(1, 5), (2, 7)]).guardOn bare = true ∧ Room (sSt [(1, 5), (2, 7)]) (keyS 3) false 0
      ∧ scalarValue (sSt []) (.lea (landH 3) 0 31 31 7) = some (landH 3, 0, 0, 1)
      ∧ (sSt []).guardOn (landH 3) = true ∧ Room (sSt []) (keyS 0) true 3 := by
  refine ⟨by decide, by decide, ?_, by decide, by decide, ?_⟩ <;> unfold Room <;> decide
theorem witness_predicate_results :
    predValue (sSt [(1, 5)]) (.cmpLts bare 2 0 1) = some (bare, 2, BitVec.allOnes 128)
      ∧ (sSt [(1, 5)]).guardOn bare = true ∧ Room (sSt [(1, 5)]) ((sSt [(1, 5)]).me.keyP 2) false 0
      ∧ predValue (ctxSt { rot := true, rpos := 7 }) (.pset (landH 1) 15) = some (landH 1, 15, BitVec.allOnes 128)
      ∧ Room (ctxSt { rot := true, rpos := 7 }) ((ctxSt { rot := true, rpos := 7 }).me.keyP 15) true 1 := by
  refine ⟨by decide, by decide, ?_, by decide, ?_⟩ <;> unfold Room <;> decide
theorem witness_counter_and_parameter_results :
    otherValue (sSt [(5, 2 ^ 32 + 9)]) (.lset bare 2 5) = some (bare, keyLc 2, 9)
      ∧ Room (sSt [(5, 2 ^ 32 + 9)]) (keyLc 2) false 0
      ∧ otherValue (sSt []) (.lseti bare 0 2) = some (bare, keyLc 0, 2)
      ∧ otherValue (sSt [(1, 8)]) (.mset bare 7 1) = some (bare, keyM 7, 8)
      ∧ otherValue (sSt []) (.mseti (landH 1) 0 0x1FFF) = some (landH 1, keyM 0, 2 ^ 64 - 1)
      ∧ Room (sSt []) (keyM 0) true 1 := by
  refine ⟨by decide, ?_, by decide, by decide, by decide, ?_⟩ <;> unfold Room <;> decide
theorem witness_vector_results :
    (vectorValue (sSt []) (.vadd .v0 bare 3 1 2 2)).isSome = true ∧ elLanes 32 ((sSt []).lanes bare) ≠ 0
      ∧ Room (sSt []) ((sSt []).me.keyV 3) false 0
      ∧ (vectorValue { sSt [] with iss := { lat0 := true } } (.vqnf .v0 bare 3 1 0 6)).isSome = false
      ∧ (vectorValue { coreSt { latch := [7] } with iss := { lat0 := true } } (.vqnf .v0 bare 3 1 0 6)).isSome = true
      ∧ (vectorValue (sSt []) (.vxcl .v1 (landH 1) 31 1 2 0)).isSome = true
      ∧ Room (sSt []) ((sSt []).me.keyV 31) true 1 := by
  refine ⟨by decide, by decide, ?_, by decide, by decide, by decide, ?_⟩ <;> unfold Room <;> decide
theorem witness_vector_compares :
    (compareValue (sSt []) (.vcmples .v1 bare 4 1 2 3)).isSome = true ∧ elLanes 64 ((sSt []).lanes bare) ≠ 0
      ∧ Room (sSt []) ((sSt []).me.keyP 4) false 0 := by
  refine ⟨by decide, by decide, ?_⟩ <;> unfold Room <;> decide
/-- With a guard whose lanes are all off no lane is active, and the element's lane is not either. -/
theorem witness_vector_extract :
    ((sSt []).lanes bare).getLsbD 127 = true ∧ Room (sSt []) (keyS 3) false 0
      ∧ ((sSt []).lanes ⟨true, false, 5, 0⟩).getLsbD 0 = false := by
  refine ⟨by decide, ?_, by decide⟩ <;> unfold Room <;> decide
theorem witness_double_write_traps :
    scalarValue (ctxSt { dwt := true, regs := [(3, { w := true })] }) (.ldi bare 3 9) = some (bare, 3, 9, 1)
      ∧ (ctxSt { dwt := true, regs := [(3, { w := true })] }).me.collides (keyS 3) 0 = true
      ∧ (ctxSt { regs := [(3, { w := true })] }).me.collides (keyS 3) 0 = true
      ∧ (ctxSt { regs := [(3, { w := true })] }).me.dwt = false := by decide
theorem witness_later_writes_prevail :
    (({ regs := [(3, { w := true, stamp := some 5 })] } : Ctx).two 3).stamp = some 5
      ∧ olderStamp 4 5 = true ∧ olderStamp 5 5 = false ∧ olderStamp 6 5 = false ∧ olderStamp 0xFFFFFFFF 5 = true := by decide
theorem witness_flip_exchanges_faces :
    Tbl.wf {} ({ regs := [(3, { f0 := 1, f1 := 2, w := true })],
                 pwq := [{ reg := 4, rem := 0, val := some 9 }, { reg := 5, rem := 1 }] } : Ctx).regs = true
      ∧ (∀ e ∈ ({ pwq := [{ reg := 4, rem := 0, val := some 9 }, { reg := 5, rem := 1 }] } : Ctx).pwq,
          e.rem = 0 → e.val.isSome = true)
      ∧ Tbl.wf {} ([(0, { en := true, half := 64 })] : Tbl Pair) = true
      ∧ (Tbl.get {} ([(0, { en := true, half := 64 })] : Tbl Pair) 0).fresh = false := by decide
theorem witness_register_operations_keep_the_form :
    Tbl.wf {} ({ regs := [(3, { f0 := 1 }), (40, { f1 := 2 })] } : Ctx).regs = true ∧ Tbl.wf {} ({} : Ctx).regs = true := by
  decide

/-! ### Witnesses: own memories -/

theorem witness_tessera_load :
    (sSt [(6, 0x100)]).guardOn bare = true ∧ Room (sSt [(6, 0x100)]) (keyS 2) false 0
      ∧ ((sSt [(6, 0x100)]).addrFM 0 6 15 2).toNat = 0x11E
      ∧ (sSt [(6, 0x100)]).me.ownOk 0x11E 2 = true ∧ (sSt [(6, 0x100)]).watch 60 1 [(0x11E, 2)] = none
      ∧ AtOnce (sSt [(6, 0x100)]) false false (offsFrom 0x11E 2) ∧ Clean (sSt [(6, 0x100)]) false (offsFrom 0x11E 2)
      ∧ ((sSt [(6, 0xBFFF8)]).addrFM 0 6 0 8).toNat + 8 = Config.tessSize
      ∧ (sSt [(6, 0xBFFF8)]).me.ownOk 0xBFFF8 8 = true := by
  refine ⟨by decide, ?_, by decide, by decide, by decide, ?_, ?_, by decide, by decide⟩
  · unfold Room; decide
  · exact ⟨by decide, .inl (by decide)⟩
  · unfold Clean; decide
theorem witness_tessera_store :
    (sSt [(1, 0), (3, 7)]).guardOn bare = true ∧ ((sSt [(1, 0), (3, 7)]).addrFM 0 1 31 8).toNat = 0xF8
      ∧ (sSt [(1, 0), (3, 7)]).me.ownOk 0xF8 8 = true ∧ (sSt [(1, 0), (3, 7)]).watch 61 1 [(0xF8, 8)] = none
      ∧ AtOnce (sSt [(1, 0), (3, 7)]) false true (offsFrom 0xF8 8)
      ∧ AtOnce { sSt [(1, 0)] with cx := .cb1 } false true (offsFrom 0 8) := by
  refine ⟨by decide, by decide, by decide, by decide, ⟨by decide, .inl (by decide)⟩, by decide, .inr (fun _ => by decide)⟩
theorem witness_vector_load :
    (sSt [(4, 64)]).lanes bare ≠ 0 ∧ Room (sSt [(4, 64)]) ((sSt [(4, 64)]).me.keyV 8) false 0
      ∧ LanesOk (sSt [(4, 64)]) .v0 (lanesOf (sSt [(4, 64)]) bare 0 4 0 false)
      ∧ (sSt [(4, 64)]).watch 60 1 ((lanesOf (sSt [(4, 64)]) bare 0 4 0 false).map fun l => (l.2.toNat, 4)) = none
      ∧ AtOnce (sSt [(4, 64)]) false false (laneOffs (lanesOf (sSt [(4, 64)]) bare 0 4 0 false)) := by
  refine ⟨by decide, ?_, ?_, by decide, by decide, .inl (by decide)⟩
  · unfold Room; decide
  · unfold LanesOk; decide
theorem witness_vector_store :
    (sSt [(2, 0)]).lanes ⟨false, false, 0, 0⟩ ≠ 0 ∧ LanesOk (sSt [(2, 0)]) .v1 (lanesOf (sSt [(2, 0)]) bare 5 2 0 true)
      ∧ (sSt [(2, 0)]).watch 61 4 ((lanesOf (sSt [(2, 0)]) bare 5 2 0 true).map fun l => (l.2.toNat, 4)) = none
      ∧ AtOnce (sSt [(2, 0)]) true true (laneOffs (lanesOf (sSt [(2, 0)]) bare 5 2 0 true)) := by
  refine ⟨by decide, ?_, by decide, by decide, .inl (by decide)⟩
  unfold LanesOk; decide
theorem witness_tessera_access_traps :
    ((sSt [(6, 1)]).addrFM 0 6 0 2).toNat % 2 ≠ 0 ∧ ((sSt [(6, 0xC0000)]).addrFM 0 6 0 2).toNat % 2 = 0
      ∧ Config.tessSize ≤ ((sSt [(6, 0xC0000)]).addrFM 0 6 0 2).toNat ∧ Room (sSt [(6, 1)]) (keyS 2) false 0 := by
  refine ⟨by decide, by decide, by decide, ?_⟩
  unfold Room; decide

/-! ### Witnesses: control -/

theorem witness_branches_transfer :
    branchOf (sSt [(8, 64)]) (.calli bare 8) = some (bare, 64, true) ∧ branchOf (sSt []) (.br bare (-1)) = some (bare, -32, false)
      ∧ branchOf (sSt []) (.ret bare) = some (bare, 0, false) ∧ (sSt []).guardOn bare = true := by decide
theorem witness_branch_target_traps :
    (sSt [(8, 65)]).guardOn bare = true ∧ ((sSt [(8, 65)]).me.s 8).toNat % 32 ≠ 0
      ∧ (ctxSt { lr := 8 }).me.lr.toNat % 32 ≠ 0 := by decide
theorem witness_loop_counts :
    (sSt []).me.lc 3 = 0 ∧ (sSt [(keyLc 3, 1)]).me.lc 3 ≠ 0 ∧ Room (sSt [(keyLc 3, 1)]) (keyLc 3) false 0 := by
  refine ⟨by decide, by decide, ?_⟩
  unfold Room; decide
theorem witness_loopf_counts :
    (sSt [(keyLc 1, 4)]).me.lc 1 ≠ 0 ∧ Room (sSt [(keyLc 1, 4)]) (keyLc 1) false 0
      ∧ (ctxSt { rot := true, rpos := 7, tail := 1 }).me.tail ≠ 0
      ∧ Room (ctxSt { rot := true, rpos := 7, tail := 1 }) (regKey 1 8) false 0 := by
  refine ⟨by decide, ?_, by decide, ?_⟩ <;> unfold Room <;> decide
theorem witness_prefix_words :
    (prefixOf {} (.pfx 1 6 0 1 20 1)).isSome = true ∧ (prefixOf {} (.imx 0 9)).isSome = true
      ∧ (prefixOf {} (.mark 1200 5)).isSome = true ∧ (prefixOf {} .nop).isSome = true := by decide
theorem witness_guarded_off :
    (sSt []).guardOn ⟨true, false, 9, 0⟩ = false ∧ (sSt []).lanes ⟨true, false, 9, 0⟩ = 0
      ∧ (sSt []).guardOn ⟨true, true, 9, 0⟩ = true := by decide
theorem witness_guarded_off_instructions :
    headerOf (.str .c1 ⟨true, false, 9, 0⟩ 7 4 3 8) = some ⟨true, false, 9, 0⟩
      ∧ guardedOff (sSt []) ⟨true, false, 9, 0⟩ (.str .c1 ⟨true, false, 9, 0⟩ 7 4 3 8)
      ∧ guardedOff (sSt []) ⟨true, false, 9, 0⟩ (.vstr .c1 ⟨true, false, 9, 0⟩ 4 4 0 5)
      ∧ guardedOff (sSt []) ⟨true, false, 9, 0⟩ (.vext .v0 ⟨true, false, 9, 0⟩ 1 2 3 4)
      ∧ guardedOff (sSt []) ⟨true, false, 9, 0⟩ (.vadd .v0 ⟨true, false, 9, 0⟩ 1 2 3 2)
      ∧ ¬ illegalWord (sSt []) (.flip ⟨true, false, 9, 0⟩)
      ∧ illegalWord (sSt []) (.rett ⟨true, false, 9, 0⟩) ∧ illegalWord { sSt [] with cx := .svc } (.bar ⟨true, false, 9, 0⟩ 0)
      ∧ illegalWord (sSt []) (.cryp .c0 ⟨true, false, 9, 0⟩ 0 0 0 0 0 0) := by
  refine ⟨by decide, show (sSt []).guardOn _ = false from by decide, show partLanes _ true _ = 0 from by decide,
    show ((sSt []).lanes _).getLsbD _ = false from by decide, show elLanes _ _ = 0 from by decide, fun h => h,
    show CtxId.cb0 ≠ .svc from by decide, show CtxId.svc = .svc from rfl, show isControl 0 = false from by decide⟩
theorem witness_issued_bundle_moves_on :
    ({} : State).iss.svc = none ∧ ({} : State).me.dueTrap = none ∧ ({} : State).iss.flip = none := by decide

/-! ### Results the spec works out -/

/-- 06, the example of R155: VCVT and VCVTS from FP32 to E4M3. -/
theorem test_vcvt_e4m3 :
    ([0x43960000, 0x43E60000, 0x43FA0000, 0xC47A0000, 0x7F800000, 0x7FC00000, 0x3A800000, 0x3E99999A].map
      (cvtEl false rne 12 10)) = [0x79, 0x7E, 0x7F, 0xFF, 0x7F, 0x7F, 0x00, 0x2A] := by decide +kernel
theorem test_vcvts_e4m3 :
    ([0x43960000, 0x43E60000, 0x43FA0000, 0xC47A0000, 0x7F800000, 0x7FC00000, 0x3A800000, 0x3E99999A].map
      (cvtEl true rne 12 10)) = [0x79, 0x7E, 0x7E, 0xFE, 0x7E, 0x7F, 0x00, 0x2A] := by decide +kernel
/-- 06, the same example under RTZ. -/
theorem test_vcvt_rtz : ([0x43FA0000, 0xC47A0000, 0x7F800000, 0x3E99999A].map (cvtEl false { mode := 1 } 12 10))
    = [0x7E, 0xFE, 0x7F, 0x29] := by decide +kernel
/-- 07, Worked conversions: 65520 to FP16 under RNE and RTZ, 1e-8 under RNE and RUP, 0.1 to BF16. -/
theorem test_conversions : cvtEl false rne 8 10 0x477FF000 = 0x7C00 ∧ cvtEl false { mode := 1 } 8 10 0x477FF000 = 0x7BFF
    ∧ cvtEl true rne 8 10 0x477FF000 = 0x7BFF ∧ cvtEl false rne 8 10 0x322BCC77 = 0
    ∧ cvtEl false { mode := 3 } 8 10 0x322BCC77 = 1 ∧ cvtEl false rne 9 10 0x3DCCCCCD = 0x3DCD := by decide +kernel
/-- 07, stochastic rounding of 0x3F808123 to BF16 with draws of 8 and 24 bits. -/
theorem test_stochastic : cvtEl false ⟨6, 0x7E, 8⟩ 9 10 0x3F808123 = 0x3F80 ∧ cvtEl false ⟨6, 0x7F, 8⟩ 9 10 0x3F808123 = 0x3F81
    ∧ cvtEl false ⟨6, 0x7EDD00, 24⟩ 9 10 0x3F808123 = 0x3F81 ∧ cvtEl false ⟨6, 0x7EDCFF, 24⟩ 9 10 0x3F808123 = 0x3F80 := by
  decide +kernel
/-- 07, R168: 0.3 under scale 1 takes index 11; 0.25 between c_10 and c_11 goes up for draws of at most 106. -/
theorem test_nf4 : nf4Index rne (fp32.val 0x3E99999A) (fp32.val 0x3F800000) = 11
    ∧ nf4Index ⟨6, 106, 8⟩ (fp32.val 0x3E800000) (fp32.val 0x3F800000) = 11
    ∧ nf4Index ⟨6, 107, 8⟩ (fp32.val 0x3E800000) (fp32.val 0x3F800000) = 10 := by decide +kernel
/-- 05, the example of R138: the tree sum of 2^24 and three ones. -/
theorem test_vrsum_tree :
    fp32.sumNum (fp32.sumNum 0x4B800000 0x3F800000) (fp32.sumNum 0x3F800000 0x3F800000) = 0x4B800001 := by decide +kernel
/-- 07, Grouping fixes the bits: BF16 mode, K = 64. -/
theorem test_grouping :
    fusedSteps fp32 32 0 0 (bf16.val 0x4580 :: List.replicate 31 (bf16.val 0) ++ bf16.val 0x3F80 :: bf16.val 0x3F80 :: List.replicate 30 (bf16.val 0))
        (bf16.val 0x4580 :: List.replicate 31 (bf16.val 0) ++ bf16.val 0x3F80 :: bf16.val 0x3F80 :: List.replicate 30 (bf16.val 0)) = 0x4B800001
    ∧ fusedSteps fp32 32 0 0 (bf16.val 0x4580 :: bf16.val 0x3F80 :: List.replicate 30 (bf16.val 0) ++ bf16.val 0x3F80 :: List.replicate 31 (bf16.val 0))
        (bf16.val 0x4580 :: bf16.val 0x3F80 :: List.replicate 30 (bf16.val 0) ++ bf16.val 0x3F80 :: List.replicate 31 (bf16.val 0)) = 0x4B800000 := by
  decide +kernel
/-- 14: the token of the third operation of CB1 on gang die 1, gang tile 14, channel 2. -/
theorem test_token : mkToken (96 + 14) 1 2 3 = 0x0002390200000003 := by decide
/-- 10: the stack and channel of 0x12345000 under STK 0x03F, CPS 2, IGR 4. -/
theorem test_geometry : stackOf 0x0000000103F02400 0x12345000 = 3 ∧ channelOf 0x0000000103F02400 0x12345000 = 28 := by decide
/-- 26: PLIM 2,200 with every REQ 0. -/
theorem test_power_limit : limitStates 2200 32 7 (List.replicate 8 0) = [1, 1, 1, 1, 1, 1, 1, 2] := by decide
/-- FIPS 180-4: SHA-256 of "abc". -/
theorem test_sha256 : Crypto.beNat (Crypto.sha256 [0x61, 0x62, 0x63])
    = 0xba7816bf8f01cfea414140de5dae2223b00361a396177a9cb410ff61f20015ad := by decide +kernel
/-- FIPS 197, C.3: AES-256 of 00112233445566778899aabbccddeeff under 000102...1f. -/
theorem test_aes256 :
    Crypto.beNat (Crypto.aesEnc (Crypto.roundKeys (List.range 32)) (Crypto.beBytes 16 0x00112233445566778899aabbccddeeff))
      = 0x8ea2b7ca516745bfeafc49904b496089 := by decide +kernel

/-! ### Witnesses: a step runs the decoded instruction -/

/-- A word alone in the bundle that core 0, with context `x` in CB0, fetches next. -/
def placed (x : Ctx) (w : Nat) : State := (ctxSt x).withFetchWord 32 w
/-- Its attempt as it begins, before the fetch, and as its slots are judged. -/
def atA (p : State) : State := { beforeTry p with focus := p.focus, cx := .cb0, iss := {} }
def atB (p : State) : State := (((atA p).setKore ((atA p).kore.advance .cb0)).tryBar p.focus .cb0).tryIinv p.focus .cb0
def atV (p : State) (ws : List Word32) : State := { ((atB p).fetch).1.dropFences with iss := { words := ws } }
def atU (p : State) (ws : List Word32) : State := (atV p ws).setIss { (atV p ws).iss with
  spare := some (Config.pwqDepth - (atV p ws).me.pwq.length
    - (atV p ws).entries ((atV p ws).onSlots ws (bundleOf (decodeBundle ws)))) }

/-- ADD s3, s1, s2 (02 Encoding by example). -/
def addWords : List Word32 := [0x04006110, 0, 0, 0, 0, 0, 0, 0]
def addSt : State := placed {} 0x04006110
theorem witness_step_runs_decoded_instruction :
    Reaches addSt (atU addSt addWords) addWords 0 (.add bare 3 1 2) where
  agenda := by decide
  part := by decide
  power := by decide
  moves := by decide
  atIssue := by
    refine ⟨.cb0, atA addSt, atB addSt, ((atB addSt).fetch).1, atV addSt addWords, by decide, rfl, rfl, by decide, by decide, by decide, by decide,
      by decide, by decide, Prod.ext rfl (by decide), by decide, by decide, rfl, rfl⟩
  word := by decide
  slot := by decide
  legal := ⟨by decide, by decide⟩
  free := by decide
/-- SIGNAL with s1 no multiple of 8 traps; KWAITCH for an operation that has not completed holds. -/
def sigWords : List Word32 := [0, 0, 0, 0, 0, 0, encodeWord (.signal bare 1 2 0), 0]
def sigSt : State := placed { regs := regsOf [(1, 5)] } (encodeWord (.signal bare 1 2 0)).toNat
theorem witness_step_traps :
    Reaches sigSt (atU sigSt sigWords)
        sigWords 6 (.signal bare 1 2 0)
      ∧ (match exec (.signal bare 1 2 0) (atU sigSt sigWords) with
          | .next t => decide (t.iss.out = .trapped 6 6 6 5)
          | _ => false) = true := by
  refine ⟨⟨by decide, by decide, by decide, by decide, ⟨.cb0, atA sigSt, atB sigSt, ((atB sigSt).fetch).1, atV sigSt sigWords, by decide, rfl, rfl,
    by decide, by decide, by decide, by decide, by decide, by decide, Prod.ext rfl (by decide), by decide, by decide, rfl, rfl⟩,
    by decide, by decide, ⟨by decide, by decide⟩, by decide⟩, by decide⟩
def joinWords : List Word32 := [0, 0, 0, 0, 0, 0, encodeWord (.kwaitch bare 1 0), 0]
def joinSt : State := placed { regs := regsOf [(1, 5)], seqs := [(0, 5)] } (encodeWord (.kwaitch bare 1 0)).toNat
theorem witness_step_holds :
    Reaches joinSt (atU joinSt joinWords)
        joinWords 6 (.kwaitch bare 1 0)
      ∧ (match exec (.kwaitch bare 1 0) (atU joinSt joinWords) with
          | .next t => decide (t.iss.out = .held 5)
          | _ => false) = true := by
  refine ⟨⟨by decide, by decide, by decide, by decide, ⟨.cb0, atA joinSt, atB joinSt, ((atB joinSt).fetch).1, atV joinSt joinWords, by decide, rfl, rfl,
    by decide, by decide, by decide, by decide, by decide, by decide, Prod.ext rfl (by decide), by decide, by decide, rfl, rfl⟩,
    by decide, by decide, ⟨by decide, by decide⟩, by decide⟩, by decide⟩

/-! ### Witnesses: C-slot accesses -/

/-- A gang of one strand on core 0. -/
def gangSt (k : Core) : State :=
  (coreSt { k with cb0 := { k.cb0 with gang := 1, nlev := 1 } }).setGang 1
    { state := 3, place := [(0, some 0)], unhalted := 1, levels := [⟨0, 0, 1⟩], scnt := 1 }
/-- A page of the lowest 64 KiB with all permissions. -/
def pageDyn : Tbl Dyn := [(0, { v := true, size := 65536, perm := 7 })]
def memSt : State := gangSt { cb0 := { regs := regsOf [(4, 0x100), (5, 0xBFFF8), (7, 9)], dyn := pageDyn } }

theorem witness_accesses_go_on_record :
    (accessOf memSt (.ldr .c1 bare 7 4 3 8)).isSome = true ∧ (accessOf memSt (.ldr .c0 bare 7 5 3 0)).isSome = true
      ∧ (accessOf memSt (.str .c1 bare 7 4 3 8)).isSome = true ∧ (accessOf memSt (.lda .c1 bare 3 4 5 2)).isSome = true
      ∧ (accessOf memSt (.strl .c0 bare 3 4 1 0)).isSome = true
      ∧ (accessOf memSt (.amow .c1 bare 3 4 7 0)).isSome = true ∧ (accessOf memSt (.amod .c0 bare 3 4 7 3)).isSome = true
      ∧ (accessOf memSt (.cas .c1 bare 2 4 3 1)).isSome = true ∧ (accessOf memSt (.famo .c0 bare 8 4 7 4)).isSome = true
      ∧ (accessOf memSt (.vldr .c0 bare 8 4 0 3)).isSome = true ∧ (accessOf memSt (.vstr .c1 bare 4 4 0 5)).isSome = true
      ∧ memSt.lanes bare ≠ 0 ∧ memSt.guardOn bare = true ∧ memSt.me.walk = none
      ∧ memSt.watch 60 3 [(0x140, 8)] = none ∧ memSt.watch 62 2 [(0x100, 4)] = none
      ∧ Room memSt (keyS 7) true 0 ∧ Room memSt (memSt.me.keyV 8) true 0 ∧ Room memSt 0 true 0 := by
  refine ⟨by decide, by decide, by decide, by decide, by decide, by decide, by decide, by decide, by decide, by decide,
    by decide, by decide, by decide, by decide, by decide, by decide, ?_, ?_, ?_⟩ <;> unfold Room <;> decide
theorem witness_access_traps :
    memSt.guardOn bare = true ∧ Room memSt (keyS 7) true 0 ∧ (memSt.addrFM 4 7 0 8).toNat % 8 ≠ 0
      ∧ (memSt.addrFM 5 5 0 8).toNat % 8 = 0 ∧ memSt.translate memSt.focus memSt.cx (memSt.addrFM 5 5 0 8).toNat 1 = .error 4 := by
  refine ⟨by decide, ?_, by decide, by decide, by decide⟩
  unfold Room; decide

/-- Each check that can fail, on a scalar access of each kind. -/
theorem witness_scalar_access_traps :
    scalarAccess memSt (.str .c1 bare 7 4 0 1) = some (.c1, bare, 0, 0x101, 1, 2)
      ∧ scalarAccess memSt (.amod .c0 bare 3 7 7 3) = some (.c0, bare, keyS 3, 9, 8, 3) ∧ (9 : Word64).toNat % 8 ≠ 0
      ∧ scalarAccess memSt (.lda .c0 bare 3 5 2 1) = some (.c0, bare, keyS 3, 0xC0000, 8, 1)
      ∧ memSt.remote memSt.strand.gang 0xC0000 8 = none
      ∧ scalarAccess memSt (.strl .c1 bare 3 5 1 0) = some (.c1, bare, 0, 0xBFFF8, 8, 2)
      ∧ memSt.translate memSt.focus memSt.cx 0xBFFF8 2 = .error 4
      ∧ memSt.guardOn bare = true ∧ memSt.me.walk = none ∧ Room memSt (keyS 3) true 0 ∧ Room memSt 0 true 0 := by
  refine ⟨by decide, by decide, by decide, by decide, by decide, by decide, by decide, by decide, by decide, ?_, ?_⟩ <;>
    unfold Room <;> decide
/-- A page whose frame lies in the doorbell space. -/
def bellPageSt : State :=
  gangSt { cb0 := { regs := regsOf [(4, 0x100)], dyn := [(0, { v := true, size := 65536, pa := Config.bellBase, perm := 7 })] } }
theorem witness_doorbell_atomic_traps :
    scalarAccess bellPageSt (.cas .c1 bare 2 4 3 1) = some (.c1, bare, keyS 2, 0x100, 8, 3)
      ∧ (match bellPageSt.translate bellPageSt.focus bellPageSt.cx 0x100 3 with
         | .ok p => isBell p.1
         | .error _ => false) = true ∧ Room bellPageSt (keyS 2) true 0 := by
  refine ⟨by decide, by decide, ?_⟩; unfold Room; decide
theorem witness_vector_access_traps :
    (laneAccess memSt (.vldr .c1 bare 8 5 0 0)).isSome = true ∧ (laneAccess memSt (.vstr .c0 bare 4 5 0 0)).isSome = true
      ∧ Room memSt (memSt.me.keyV 8) true 0 ∧ Room memSt 0 true 0
      ∧ ((lanesOf memSt bare 0 7 0 false).find? (fun k => k.2.toNat % 4 != 0)) = some (0, 9)
      ∧ (∀ k ∈ lanesOf memSt bare 0 5 0 false, k.2.toNat % 4 = 0)
      ∧ ((lanesOf memSt bare 0 5 0 false).find? (fun k => (memSt.remote memSt.strand.gang k.2.toNat 4).isNone)).map (·.1) = some 2
      ∧ ((lanesOf memSt bare 0 5 0 false).filter
          (fun k => memSt.translate memSt.focus memSt.cx k.2.toNat 1 = .error 4)).head? = some (0, 0xBFFF8)
      ∧ ((lanesOf memSt bare 0 5 0 false).filter
          (fun k => memSt.translate memSt.focus memSt.cx k.2.toNat 1 = .error 5)).head? = none := by
  refine ⟨by decide, by decide, ?_, ?_, by decide, by decide, by decide, by decide, by decide⟩ <;> unfold Room <;> decide

/-- A core with one outstanding access of CB0 to its own tessera, which a queue entry waits for. -/
def accSt (op : AccOp) (writes : Bool) (off size val : Nat) : State :=
  gangSt { tess := [(0x100, 0x80), (0x101, 1)],
           cb0 := { pwq := if writes then [{ reg := 7, rem := 1, acc := 1 }] else [] }, nextId := 2,
           accs := [{ id := 1, cx := .cb0, un := .c0, bundle := 0, issued := 0, op := op, size := size, val := val,
                      pieces := [⟨.tess 0 off, 0, size⟩], writes := writes }] }

theorem witness_tessera_load_performs :
    ((accSt (.load true) true 0x100 1 0).core 0).accs ≠ []
      ∧ (∀ a ∈ ((accSt (.load true) true 0x100 1 0).core 0).accs, a.op = .load true ∧ a.un = .c0 ∧ a.scope = none ∧ a.vector = false
          ∧ a.pieces = [⟨.tess 0 0x100, 0, a.size⟩] ∧ a.got = 0 ∧ a.poison = false ∧ a.writes = true)
      ∧ 0x100 % 64 + 1 ≤ 64 ∧ 0x100 / 64 ∉ ((accSt (.load true) true 0x100 1 0).core 0).badTess
      ∧ 0x100 / 64 ∉ ((accSt (.load true) true 0x100 1 0).core 0).softTess ∧ (accSt (.load true) true 0x100 1 0).unripe = []
      ∧ (∀ e ∈ ((accSt (.load true) true 0x100 1 0).ctxAt 0 .cb0).pwq, e.val = none ∧ e.rem ≠ 0)
      ∧ ((accSt (.load true) true 0x100 1 0).ctxAt 0 .cb0).owed = none
      ∧ ((accSt (.load true) true 0x100 1 0).ctxAt 0 .cb0).dueTrap = none := by decide
theorem witness_tessera_store_performs :
    (∀ a ∈ ((accSt .store false 0x38 8 0x0102030405060708).core 0).accs, a.op = .store ∧ a.un = .c0 ∧ a.scope = none
        ∧ a.pieces = [⟨.tess 0 0x38, 0, a.size⟩] ∧ a.writes = false)
      ∧ 0x38 % 64 + 8 ≤ 64 ∧ ((accSt .store false 0x38 8 1).ctxAt 0 .cb0).owed = none
      ∧ (accSt .store false 0x38 8 1).unripe = [] ∧ ((accSt .store false 0x38 8 1).ctxAt 0 .cb0).must = [] := by decide
theorem witness_atomics_read_modify_write :
    (∀ a ∈ ((accSt (.amo 0) true 0x100 4 5).core 0).accs, a.op.isAtomic = true ∧ a.vector = false
        ∧ a.pieces = [⟨.tess 0 0x100, 0, a.size⟩] ∧ a.got = 0 ∧ a.poison = false ∧ a.writes = true)
      ∧ (∀ a ∈ ((accSt (.amo 0) true 0x100 4 5).core 0).accs, a.un = .c0)
      ∧ 0x100 / 64 ∉ ((accSt (.amo 0) true 0x100 4 5).core 0).softTess ∧ (accSt (.amo 0) true 0x100 4 5).unripe = []
      ∧ 0x100 % 64 + 4 ≤ 64 ∧ (∀ e ∈ ((accSt (.amo 0) true 0x100 4 5).ctxAt 0 .cb0).pwq, e.val = none ∧ e.rem ≠ 0)
      ∧ (AccOp.famo 2).isAtomic = true ∧ (AccOp.cas 5).isAtomic = true := by decide
theorem witness_atomic_functions : 0 < 4 ∧ 5 < 256 ^ 4 ∧ 256 ^ 8 - 1 < 256 ^ 8 := by decide

/-- A die that holds a line and has one notice for it. -/
def noticeSt : State :=
  ({} : State).setDie 0 { lines := [(3, some ⟨0, 0, 0, []⟩)],
                          notices := [{ line := 3, mask := 1, data := 0xFF, comp := 0, count := 1, deps := [] }] }
theorem witness_notices_reach_the_dies :
    (noticeSt.die 0).notices[0]? = some { line := 3, mask := 1, data := 0xFF, comp := 0, count := 1, deps := [] }
      ∧ (noticeSt.die 0).mayApply 0 { line := 3, mask := 1, data := 0xFF, comp := 0, count := 1, deps := [] } = true
      ∧ Tbl.get none (noticeSt.die 0).lines 3 = some ⟨0, 0, 0, []⟩ := by decide

/-! ### Witnesses: steering and waiting -/

/-- A copy that core 0's CB0 has issued on channel 0, in a state; its token stands in k2, and numbers in scalars. -/
def opSt (state : Nat) : State :=
  gangSt { cb0 := { regs := regsOf [(keyK 2, 1), (4, 1), (5, 0x40), (6, 8), (8, 0x41), (9, 0xC0000)], seqs := [(0, 1)],
                    dones := if state = 4 ∨ state = 5 ∨ state = 7 then [(0, 1)] else [] },
           tess := [(0x40, 8)],
           ops := if state = 0 then [] else [{ token := 1, ch := 0, cx := .cb0, kind := .copy, state := state, gang := 1 }] }

theorem witness_steering_instructions :
    steerOf (.kcancel .c0 bare 2) = some (.c0, bare, 2, 0, 0) ∧ steerOf (.kprio .c1 bare 2 3) = some (.c1, bare, 2, 2, 3)
      ∧ (opSt 2).guardOn bare = true ∧ (opSt 2).tokIssued 0 1 ((opSt 2).me.k 2) = some 0
      ∧ (opSt 2).tokIssued 0 1 ((opSt 2).me.k 3) = none
      ∧ ((opSt 2).kore.opOf 1).map (·.state) = some 2 ∧ ((opSt 1).kore.opOf 1).map (·.state) = some 1
      ∧ ((opSt 6).kore.opOf 1).map (fun o => (o.state, o.newer)) = some (6, 0)
      ∧ ((opSt 4).kore.opOf 1).map (·.state) = some 4 := by
  refine ⟨rfl, rfl, by decide, by decide, by decide, by decide, by decide, by decide, by decide⟩
/-- Another core of the gang holds the operation. -/
def farSt : State :=
  { (opSt 2).setCore 1 { cb0 := { gang := 1, seqs := [(0, 1)] } } with
    gangs := [(1, { state := 3, place := [(0, some 0), (1, some 1)], unhalted := 2 })] }
theorem witness_steering_far : farSt.tokIssued 0 1 (BitVec.ofNat 64 (2 ^ 42 + 1)) = some 1 := by decide
theorem witness_kwait :
    (opSt 2).tokIssued 0 1 ((opSt 2).me.k 2) = some 0 ∧ ((opSt 2).core 0).opOf 1 ≠ none ∧ ((opSt 6).core 0).opOf 1 ≠ none
      ∧ ((opSt 0).core 0).opOf 1 = none ∧ (opSt 0).tokIssued 0 1 ((opSt 0).me.k 2) = some 0
      ∧ (opSt 0).tokIssued 0 1 ((opSt 0).me.k 3) = none ∧ (opSt 0).guardOn bare = true := by decide
theorem witness_kwaitch :
    serialLe (((opSt 4).me.s 4).setWidth 32) (Tbl.get 0 (opSt 4).me.seqs 0) = true
      ∧ serialLe (((opSt 4).me.s 4).setWidth 32) (Tbl.get 0 (opSt 4).me.dones 0) = true
      ∧ serialLe (((opSt 2).me.s 4).setWidth 32) (Tbl.get 0 (opSt 2).me.dones 0) = false
      ∧ (∀ o ∈ (opSt 2).kore.ops, o.state ≠ 6)
      ∧ serialLe (((opSt 2).me.s 5).setWidth 32) (Tbl.get 0 (opSt 2).me.seqs 0) = false := by decide
/-- s5 is an address whose word is 8, s6 is 8, s8 misaligned, s9 beyond the tessera. -/
theorem witness_wait :
    ((opSt 0).me.s 5).toNat % 8 = 0 ∧ Mem.read (opSt 0).kore.tess ((opSt 0).me.s 5).toNat 8 = ((opSt 0).me.s 6).toNat
      ∧ ((opSt 0).me.s 8).toNat % 8 ≠ 0 ∧ ((opSt 0).me.s 9).toNat % 8 = 0 ∧ Config.tessSize ≤ ((opSt 0).me.s 9).toNat
      ∧ ((opSt 0).me.s 5).toNat < Config.tessSize := by decide
theorem witness_signal :
    ((opSt 0).me.s 5).toNat % 8 = 0 ∧ (opSt 0).remote (opSt 0).strand.gang ((opSt 0).me.s 5).toNat 8 = some (0, 0x40)
      ∧ (opSt 0).watch 61 2 [(0x40, 8)] = none ∧ (∀ q ∈ (opSt 0).kore.accs, q.id < (opSt 0).kore.nextId) := by decide

/-- Hod 3 is a COUNT hod of 4 slots with 2 filled; hod 4 a BYTES hod that has all it expects; hod 5 one that expects
nothing yet. -/
def hodSt : State :=
  gangSt { cb0 := { regs := regsOf [(1, 1), (2, 2), (3, 3), (4, 2 ^ 32), (5, 5)] },
           hods := [(3, { en := true, nslot := 4, wp := 7, rp := 5 }),
                    (4, { en := true, mode := true, nslot := 1, wp := 64, rp := 96, xset := true, carry := true }),
                    (5, { en := true, mode := true, nslot := 1 })] }
theorem witness_hod_advances :
    (hodSt.kore.hod 3).en = true ∧ (hodSt.kore.hod 3).priv = false ∧ (hodSt.kore.hod 3).ovf = false
      ∧ (hodSt.kore.hod 3).mode = false ∧ hodSt.guardOn bare = true := by decide
theorem witness_hod_waits :
    (hodSt.me.s 2).toNat ≤ ((hodSt.kore.hod 3).wp - (hodSt.kore.hod 3).rp).toNat ∧ hodSt.kore.hodReady (hodSt.kore.hod 3) = true
      ∧ ¬ (hodSt.me.s 3).toNat ≤ ((hodSt.kore.hod 3).wp - (hodSt.kore.hod 3).rp).toNat
      ∧ (hodSt.me.s 3).toNat ≤ (hodSt.kore.hod 3).nslot.toNat ∧ (hodSt.me.s 0).toNat = 0
      ∧ (hodSt.kore.hod 4).mode = true ∧ (hodSt.kore.hod 4).xset = true
      ∧ (hodSt.kore.hod 4).wp.toNat ≤ (hodSt.kore.hod 4).rp.toNat ∧ (hodSt.kore.hod 4).carry = true
      ∧ hodSt.kore.hodReady (hodSt.kore.hod 4) = true := by decide
theorem witness_hexpect :
    (hodSt.kore.hod 5).mode = true ∧ (hodSt.kore.hod 5).xset = false ∧ (hodSt.me.s 1).toNat < 2 ^ 32
      ∧ 2 ^ 32 ≤ (hodSt.me.s 4).toNat ∧ (hodSt.kore.hod 4).xset = true ∧ (hodSt.kore.hod 3).mode = false := by decide

theorem witness_fence_and_bar :
    hodSt.guardOn bare = true ∧ hodSt.cx ≠ .svc ∧ 0 < hodSt.me.nlev ∧ hodSt.me.nlev ≤ 1
      ∧ ({ hodSt with cx := .svc } : State).cx = .svc := by decide
theorem witness_barriers_release :
    let s := gangSt { cb0 := { barWait := some 0, arrive := [(0, (1, 0))] } }
    (s.ctxAt 0 .cb0).barWait = some 0 ∧ (instanceOf s 0 .cb0 0).length = perInstance (s.gang 1).levels 0
      ∧ (∀ m ∈ instanceOf s 0 .cb0 0, s.released m.1 m.2 0 = true
          ∧ 1 ≤ (Tbl.get (0, 0) (s.ctxAt m.1 m.2).arrive 0).1) := by decide
/-- A gang of two strands of which only the first has arrived. -/
def twoSt : State :=
  { ({} : State).setCore 0 { cb0 := { gang := 1, nlev := 1, barWait := some 0, arrive := [(0, (1, 0))] },
                             cb1 := { gang := 1, nlev := 1, sidx := 1 } } with
    gangs := [(1, { state := 3, place := [(0, some 0)], unhalted := 2, levels := [⟨0, 0, 1⟩, ⟨0, 0, 2⟩], scnt := 2 })] }
theorem witness_barriers_wait :
    (.cb1 : CtxId) ∈ (instanceOf twoSt 0 .cb0 0).map (·.2)
      ∧ (twoSt.ctxAt 0 .cb1).halted = false ∧ ¬ 1 ≤ (Tbl.get (0, 0) (twoSt.ctxAt 0 .cb1).arrive 0).1 := by decide

theorem witness_xlat :
    memSt.me.walk = none ∧ (memSt.me.s 4).toNat < 2 ^ 48 ∧ 2 ^ 48 ≤ ((sSt [(4, 2 ^ 48)]).me.s 4).toNat
      ∧ (ctxSt { walk := some {} }).me.walk ≠ none ∧ memSt.guardOn bare = true := by decide
theorem witness_pairset :
    let s := sSt [(8, 0x8000), (9, 0x600 + 2 ^ 32), (10, 2 ^ 33), (11, 0x8001)]
    (s.me.s 8).toNat = 0x8000 ∧ (s.me.s 9).toNat = 0x600 + true.toNat * 2 ^ 32 ∧ 0x8000 % 64 = 0 ∧ 0x600 % 64 = 0
      ∧ 0x8000 + 2 * 0x600 ≤ Config.tessSize ∧ (∀ e ∈ s.strand.pairs, e.2.en = false)
      ∧ s.me.s 0 = 0 ∧ (s.me.s 10).toNat = 2 ^ 33 ∧ (s.me.s 11).toNat % 64 ≠ 0 := by decide
theorem witness_invalidate_and_segments :
    memSt.guardOn bare = true ∧ Tbl.get none (memSt.gang memSt.strand.gang).place 0 = some 0
      ∧ inScope 0 memSt.strand.gang memSt.strand.gtile memSt.strand.gang 0 = true := by decide
theorem witness_segment_end :
    let s := ctxSt { regs := regsOf [(4, 3), (5, 9)], sega := true, segCnt := 3, segSig := 9 }
    (s.me.s 4).toNat % 2 ^ 32 = s.me.segCnt.toNat ∧ (s.me.s 5).toNat % 2 ^ 32 = s.me.segSig.toNat ∧ s.me.sega = true
      ∧ (s.me.s 5).toNat % 2 ^ 32 ≠ s.me.segCnt.toNat := by decide

/-! ### Witnesses: queueing operations, system registers, the routine store -/

/-- A copy packet at tessera 0x1000, routine 0 valid, and operands of every queueing instruction in scalars. -/
def queueSt : State :=
  gangSt { cb0 := { regs := regsOf [(1, 0x1000), (2, 0x301), (3, 0x1001), (4, 8), (5, 2), (6, 0x105), (7, 0x7FF)] },
           tess := [(0x1000, 1)], store := [(0, 0x8100)] }
/-- The same with channel 3 full. -/
def fullSt : State :=
  queueSt.setCore 0 { queueSt.core 0 with
    ops := List.replicate 8 { token := 1, ch := 3, cx := .cb0, kind := .kjoin, gang := 1 } ++
           List.replicate 8 { token := 1, ch := 3, cx := .cb0, kind := .kjoin, gang := 1 } }
/-- Control core 768. -/
def controlSt : State := { ({} : State) with focus := 768, booted := true }

theorem witness_operations_are_queued :
    ((childOf queueSt (.copy .c0 bare 5 1 2 1 0 0)).map (·.ch)) = some 0
      ∧ ((childOf queueSt (.coll .c0 bare 5 1 2 1 3 1)).map (·.ch)) = some 5
      ∧ ((childOf queueSt (.rstrp .c1 (landH 1) 5 1 0 0 0 0)).map (·.ch)) = some 6
      ∧ ((childOf controlSt (.cryp .c1 bare 5 0 0 0 0 0)).map (·.ch)) = some 7
      ∧ ((childOf queueSt (.kjoin .c0 bare 5 2 0 0 0 0)).map (·.ch)) = some 3
      ∧ ((childOf queueSt (.mcall bare 2 0 1 0)).map (·.ch)) = some 4
      ∧ queueSt.guardOn bare = true ∧ queueSt.kore.depth 0 < chDepth 0 ∧ Room queueSt (keyK 5) false 0
      ∧ Room queueSt (keyK 5) true 1 := by
  refine ⟨by decide, by decide, by decide, by decide, by decide, by decide, by decide, by decide, ?_, ?_⟩ <;>
    unfold Room <;> decide
theorem witness_full_channels_hold :
    ((childOf fullSt (.kjoin .c0 bare 5 2 0 0 0 0)).map (·.ch)) = some 3 ∧ chDepth 3 ≤ fullSt.kore.depth 3 := by decide
theorem witness_operation_traps :
    (queueSt.me.s 3).toNat % 64 ≠ 0 ∧ queueSt.focus < 768
      ∧ (Tbl.get 0 queueSt.kore.store (1 / 4)).toNat / 2 ^ (16 * (1 % 4)) % 65536 / 32768 ≠ 1
      ∧ MayReadOwn queueSt [] ∧ queueSt.cx ≠ .svc ∧ Room queueSt (keyK 5) false 0 := by
  refine ⟨by decide, by decide, by decide, by decide, by decide, ?_⟩
  unfold Room; decide

theorem witness_swr :
    anyMask 0x000 = some 3 ∧ anyMask 0x060 = some 3 ∧ anyMask 0x0B8 = some 0x0000FFFFFFFFFFFF ∧ queueSt.guardOn bare = true
      ∧ queueSt.kore.servedId ≠ .svc ∧ queueSt.kore.matrixBusy = false ∧ queueSt.iss.judged = false
      ∧ (coreSt { ops := [{ token := 1, ch := 4, cx := .cb0, kind := .mcall, state := 1 }] }).kore.matrixBusy = true := by decide
theorem witness_svc_writes :
    svcMask 0x063 = some 0xFFFFFFFF ∧ svcMask 0x0A5 = some 0xFFFF
      ∧ ({ queueSt with cx := .svc } : State).guardOn bare = true ∧ ({ queueSt with cx := .svc } : State).cx = .svc := by decide
theorem witness_swr_keeps_foreign_registers :
    (match exec (.swr bare 1 0x008) queueSt with | .next t => decide (t.iss.out = .issued) | _ => false) = true
      ∧ queueSt.cx ≠ .svc ∧ queueSt.focus < 768 := by decide
theorem witness_unassigned_registers : queueSt.sysReg 0x3FF = none ∧ queueSt.sysReg 0x241 = none
    ∧ (controlSt.sysReg 0x241).isSome = true := by decide

/-- MLDR granted: the routine of 08's example at tessera 0, to store word 256. -/
def mldrSt (at_ : Option (CtxId × Nat)) : State :=
  gangSt { cb0 := { regs := regsOf [(1, 1), (2, 0), (3, 256), (4, 16384)], mlgr := true }, tess := [(7, 0xE0)], mldrAt := at_ }
theorem witness_mldr :
    (mldrSt none).strand.mlgr = true ∧ ((mldrSt none).me.s 2).toNat % 8 = 0 ∧ 0 + 8 * 1 ≤ Config.tessSize
      ∧ (mldrSt none).me.ownOk 0 8 = true ∧ (mldrSt none).kore.mldrAt = none ∧ (mldrSt none).kore.depth 4 = 0
      ∧ ((mldrSt none).me.s 3).toNat + 1 ≤ 16384 ∧ ((mldrSt none).me.s 1).toNat = 1 ∧ 16384 < ((mldrSt none).me.s 4).toNat + 1
      ∧ (mldrSt (some (.cb0, 0))).kore.mldrAt = some ((mldrSt (some (.cb0, 0))).cx, 0)
      ∧ storeOk ((mldrSt (some (.cb0, 0))).kore.loaded (mldrSt (some (.cb0, 0))).me 0 256 1) = true
      ∧ MayReadOwn (mldrSt none) ((mldrSt none).me.physLines false [⟨0, 0, 8⟩])
      ∧ queueSt.strand.mlgr = false := by decide
def hwinSt : State :=
  gangSt { cb0 := { regs := regsOf [(1, 7), (2, 8)] }, ingress := [{ seq := 7, ofs := 0x40, tag := 0, data := [1, 2, 3] }] }
theorem witness_hwin :
    hwinSt.kore.ingress = [{ seq := 7, ofs := 0x40, tag := 0, data := [1, 2, 3] }] ∧ queueSt.kore.ingress = []
      ∧ (hwinSt.me.s 1).toNat % 2 ^ 32 = 7 ∧ (hwinSt.me.s 2).toNat % 2 ^ 32 ≠ 7
      ∧ (∀ i, i < 3 → (hwinSt.me.mapOwn true (0x40 + i)).isSome = true)
      ∧ (∀ d ∈ hwinSt.kore.delayed, d.cx ≠ hwinSt.cx) ∧ AtOnce hwinSt false true (offsFrom 0x40 3) := by
  refine ⟨by decide, by decide, by decide, by decide, by decide, by decide, by decide, .inl (by decide)⟩
theorem witness_hwin_waits :
    let s := { hwinSt.setCore 0 { hwinSt.core 0 with
      delayed := [{ id := 1, cx := .cb0, store := true, acm := false, banks := [1], bundle := 0, orig := 0, since := 0,
                    lat := 4, pieces := [⟨.tess 0 0x40, 0, 8⟩] }] } with focus := 0 }
    (∃ d ∈ s.kore.delayed, d.cx = s.cx) ∧ s.kore.ingress ≠ [] := by decide

/-! ### Witnesses: traps, halts and the service context -/

theorem witness_trap_and_breakpoint :
    queueSt.guardOn bare = true ∧ queueSt.cx ≠ .svc
      ∧ ({ queueSt with iss := { svc := some 5 } } : State).iss.svc = some 5 := by decide
/-- A strand whose attached operation stands in a state. -/
def haltSt (state : Nat) : State :=
  gangSt { cb0 := { bundles := 9, pwq := [{ reg := 3, rem := 1, acc := 1 }] }, nextId := 2,
           accs := [{ id := 1, cx := .cb0, un := .c0, bundle := 0, issued := 0, op := .load false, size := 8, val := 0,
                      pieces := [⟨.tess 0 0, 0, 8⟩], writes := true }],
           ops := [{ token := 1, ch := 0, cx := .cb0, kind := .copy, state := state, gang := 1 }] }
theorem witness_halt :
    (∀ o ∈ (haltSt 4).attached, 4 ≤ o.state ∧ o.state ≠ 6) ∧ (haltSt 4).attached ≠ [] ∧ (haltSt 4).me.gang ≠ 0
      ∧ ((haltSt 4).gang 1).unhalted ≤ 1 ∧ (∃ o ∈ (haltSt 2).attached, o.state < 4)
      ∧ (∀ p ∈ (haltSt 6).attached, 4 ≤ p.state) ∧ ((haltSt 6).attached.find? (fun p => p.state == 6)).isSome = true := by decide
/-- SVC serves CB0, which trapped with code 16 at its frame base 0x1000. -/
def svcSt (t : Mem) : State :=
  { gangSt { cb0 := { tfb := 0x1000, trapped := true, pc := 64 }, serving := some (.cb0, 16), tess := t,
             svc := { regs := regsOf [(3, 9), (8, 0x2000)] } } with cx := .svc }
theorem witness_service_instructions :
    queueSt.cx ≠ .svc ∧ (svcSt []).cx = .svc ∧ (svcSt []).guardOn bare = true ∧ (svcSt []).reachable (ctxBit 0) = true
      ∧ (svcSt []).kore.inFlight (ctxBit 0) = false ∧ ((svcSt []).me.s 8).toNat % 64 = 0
      ∧ (svcSt []).reachable (ctxBit 1) = true := by decide
theorem witness_saveph :
    0x2000 + ((svcSt []).kore.ctx (ctxBit 0)).image.length ≤ Config.tessSize := by
  have h := Ctx.image_length ((svcSt []).kore.ctx (ctxBit 0)) (by decide) (by decide) (by decide)
  have e : Config.tessSize = 0xC0000 := by decide
  omega
theorem witness_saveph_waits :
    AtOnce (svcSt []) false false [] ∧ ((svcSt []).kore.isPrimary (svcSt []).cx = true ∨ (svcSt []).kore.claims = [])
      ∧ (haltSt 4).kore.inFlight (ctxBit 0) = true := by
  refine ⟨⟨by decide, .inr (fun _ _ _ h => absurd h (List.not_mem_nil))⟩, by decide, by decide⟩
theorem witness_loadph :
    imageOk [(0x2000, 1)] 0x2000 = true ∧ 0x2000 + max 0xA000 (Mem.read [(0x2000, 1)] (0x2000 + 8) 4) ≤ Config.tessSize
      ∧ MayReadOwn (svcSt [(0x2000, 1)]) (linesOf 0x2000 (max 0xA000 (Mem.read [(0x2000, 1)] (0x2000 + 8) 4))) := by
  refine ⟨by decide, by decide, by decide, ?_, ?_⟩
  · have h : (svcSt [(0x2000, 1)]).kore.claims = [] := by decide
    exact .inr (.inr (fun l _ => h ▸ List.not_mem_nil))
  · have h1 : (svcSt [(0x2000, 1)]).kore.badTess = [] := by decide
    have h2 : (svcSt [(0x2000, 1)]).kore.softTess = [] := by decide
    have h3 : (svcSt [(0x2000, 1)]).kore.ce = [] := by decide
    exact fun l _ => ⟨h1 ▸ List.not_mem_nil, h2 ▸ List.not_mem_nil, h3 ▸ List.not_mem_nil⟩
theorem witness_trap_entry :
    let k := (gangSt { cb0 := { tfb := 0x1000, pwq := [{ reg := 3, rem := 1 }] } }).core 0
    k.serving = none ∧ (k.ctx .cb0).pwq.length ≤ 48 ∧ ((k.ctx .cb0).pwq.filter (fun e => e.val.isNone)).length ≤ 16
      ∧ (k.ctx .cb0).claimed = false ∧ k.entryReady .cb0 = true := by decide
/-- A frame with code 16 and no entry. -/
theorem witness_trap_return :
    frameOk [(0x1000, 16)] 0x1000 = true ∧ Mem.read [(0x1000, 16)] 0x1000 8 / 2 ^ 27 % 32 = 0
      ∧ Mem.read [(0x1000, 16)] 0x1000 8 / 2 ^ 21 % 64 = 0 ∧ Mem.read [(0x1000, 16)] 0x1000 8 / 2 ^ 14 % 2 = 0
      ∧ (svcSt [(0x1000, 16)]).me.pwq = [] ∧ ((svcSt [(0x1000, 16)]).kore.serving).map (·.1) = some .cb0
      ∧ ((svcSt [(0x1000, 16)]).kore.ctx (otherCtx .cb0)).dueTrap = none
      ∧ MayReadOwn (svcSt [(0x1000, 16)]) (frameLines 0x1000)
      ∧ ((svcSt []).kore.ctx .cb0).gang ≠ 0 ∧ ((svcSt []).gang 1).state = 3
      ∧ frameOk [] 0x1000 = false := by decide

/-! ### Witnesses: the matrix array -/

/-- The operation whose routine runs on core 0. -/
def routineOp : ChildOp :=
  { token := 1, ch := 4, cx := .cb0, kind := .mcall, state := 2, gang := 1, fmtt := 0xD, q := [0, 1] }
/-- Core 0 with a routine running for an operation. -/
def runOp (k : Core) (o : ChildOp) (r : Routine) : State := gangSt { k with ops := [o], mx := { r with run := true } }
def runSt (k : Core) (r : Routine) : State := runOp k routineOp r
/-- A routine in a mode with its q registers. -/
def rt (mode : Nat) : Routine := { run := true, mode := some mode, afmt := 12, bfmt := 13, q := [0x40, 0x10002, 9] }

theorem witness_running : Running (runSt {} (rt 0)) routineOp (rt 0) := by
  unfold Running; decide
theorem witness_routine_parameters :
    (parameters routineOp (rt 0) (.fmts 0 12 15)).isSome = true ∧ (parameters routineOp (rt 0) (.fmts 1 13 14)).isSome = true
      ∧ (parameters routineOp (rt 0) (.fmts 5 11 11)).isSome = true ∧ (parameters routineOp (rt 0) (.afet 7 0 1 0)).isSome = true
      ∧ (parameters routineOp (rt 0) (.bsel 1 5 6 7)).isSome = true ∧ (parameters routineOp (rt 0) (.padd 1 1 2 0)).isSome = true
      ∧ (parameters routineOp (rt 0) (.padd 0 0 0 0x3FFF)).isSome = true := by decide
theorem witness_illegal_formats :
    ¬ fmtsLegal 0 (fmtsCode routineOp 12) (fmtsCode routineOp 14) ∧ (runSt {} (rt 0)).kore.halfRow = none
      ∧ routineOp.newer < 64 := by
  unfold fmtsLegal; decide
theorem witness_loopm :
    (rt 0).lm.length = 4 ∧ (rt 0).act.length = 4 ∧ max ((3 : BitVec 14).toNat) 1 - 1 = 2
      ∧ max ((0 : BitVec 14).toNat) 1 - 1 = 0 ∧ ((rt 0).q.getD 1 0).toNat % 2 ^ 14 = 2
      ∧ ({ rt 0 with act := [true, false, false, true], lm := [1, 0, 0, 0] } : Routine).act.getD 3 false = true := by decide
theorem witness_yields_and_ends :
    Running (runOp {} { routineOp with cancel := true } (rt 0)) { routineOp with cancel := true } (rt 0)
      ∧ Running (runOp {} { routineOp with suspend := true } (rt 0)) { routineOp with suspend := true } (rt 0)
      ∧ (runSt { halfRow := some 5, latch := [1, 2, 3] } (rt 0)).kore.halfRow = some 5
      ∧ (runSt { halfRow := some 5, latch := [1, 2, 3] } (rt 0)).kore.latch.length < 4
      ∧ Running (runSt { halfRow := some 5, latch := [1, 2, 3] } (rt 0)) routineOp (rt 0) := by
  unfold Running; decide
theorem witness_row_steps :
    (runSt {} (rt 0)).kore.rowsOk { rt 0 with kv := 3 } 0 3 = .ok ()
      ∧ (∀ m, 0 ≤ m → m < 2 → (aOperands (runSt {} (rt 0)) routineOp (rt 0) 0 m 3).isSome = true)
      ∧ (runSt {} (rt 1)).kore.rowsOk { rt 1 with kv := 128 } 1 128 = .ok ()
      ∧ (aOperands (runSt {} (rt 1)) routineOp (rt 1) 1 63 128).isSome = true
      ∧ (aOperands (runSt {} { rt 4 with ord := true, afmt := 10 }) routineOp { rt 4 with ord := true, afmt := 10 } 4 16 2).isSome = true
      ∧ 16 * modeW 4 % 64 = 0 ∧ (runSt {} (rt 0)).kore.softTess = [] := by
  decide
theorem witness_exact_columns :
    ∀ t, t < 2 → ∃ n m x, ([FVal.fin false 3 0, .fin true 1 2].getD t .nan).mul
      (({ lintel := [(0, 0x38)] } : Core).bElem (rt 0) 0 0 0 t) = .fin n m x := by
  intro t ht
  have h : t = 0 ∨ t = 1 := by omega
  rcases h with rfl | rfl <;> exact ⟨_, _, _, rfl⟩
theorem witness_accumulator_loads :
    ((rt 0).q.getD 0 0).toNat % 64 = 0 ∧ 0x40 + 64 * 1024 ≤ Config.acmSize ∧ (runSt {} (rt 0)).kore.badAcm = []
      ∧ (runSt {} (rt 0)).kore.soft = [] ∧ (runSt {} (rt 0)).kore.ce = []
      ∧ Running (runSt {} (rt 5)) routineOp (rt 5)
      ∧ (∀ j, j < 64 → Mem.read (runSt { acm := [(0x40 + 10, 31)] } (rt 0)).kore.acm (0x40 + j * 16) 16 / 2 ^ 80 < 32) := by
  unfold Running; decide
theorem witness_drains :
    Running (runSt { latch := [1, 2, 3, 4] } (rt 0)) routineOp (rt 0)
      ∧ (runSt { latch := [1, 2, 3, 4] } (rt 0)).kore.latch.length = 4
      ∧ Running (runSt { halfRow := some 7 } { rt 2 with drained := 1 }) routineOp { rt 2 with drained := 1 }
      ∧ ({ rt 2 with drained := 1 } : Routine).drained + 1 = 2 := by
  unfold Running; decide
/-- Row 0 names adapter 2 at tessera 0x40; the bay holds its entries for both directions at index 1 and 2. -/
def adapterSt (bay : List BayEntry) : State :=
  runSt { mxcfg := 1, tess := [(0x40, 2)], bay := bay, lintel := [(0, 0x38)] } { rt 0 with part := [(0, { v := 2 ^ 32 })] }
theorem witness_adapter_rows :
    let s := adapterSt [⟨1, true, 2, 1⟩, ⟨0, false, 2, 2⟩]
    let r : Routine := { rt 0 with part := [(0, { v := 2 ^ 32 })] }
    let mv := s.moverOf s.focus routineOp
    Running s routineOp r ∧ s.kore.mxcfg ≠ 0 ∧ r.fetch = none ∧ r.marks = [] ∧ r.pins = []
      ∧ s.kore.softTess = [] ∧ s.kore.soft = [] ∧ s.kore.ce = [] ∧ s.adapterId mv r 0 0 = .ok (2, [1]) ∧ s.adapterId mv r 0 1 = .ok (0, [1])
      ∧ (s.kore.bayUse true 2 1).isSome = true ∧ (s.kore.bayUse false 2 2).isSome = true
      ∧ (match s.downTerm mv r 0 1 0 with | .ok _ => true | .error _ => false) = true
      ∧ (s.kore.bayUse false 2 1).isSome = false := by
  unfold Running; decide
theorem witness_abft_spans :
    let bad : Routine := { rt 0 with w0 := [(0, { v := 5 })], arm := some (0, 2, false), armWord := 4 }
    Running (runSt {} bad) routineOp bad ∧ bad.rowSum false 0 ≠ Tbl.get {} bad.ckA 0
      ∧ (bad.rowSum false 0).flagged = false
      ∧ bad.rowSum false 1 = Tbl.get {} bad.ckA 1
      ∧ Running (runSt {} { bad with second := true }) routineOp { bad with second := true }
      ∧ Running (runSt {} (rt 1)) routineOp (rt 1) := by
  unfold Running; decide
theorem witness_routine_hods :
    let s := runSt { hods := [(3, { en := true, nslot := 4, wp := 7, rp := 5 }), (5, { en := true, ovf := true }),
      (4, { en := true, mode := true, nslot := 1, wp := 64, rp := 96, xset := true, carry := true })] } (rt 0)
    let w : ChildOp := { routineOp with wdog := 6 }
    Running s routineOp (rt 0) ∧ (s.kore.hod 3).en = true ∧ (s.kore.hod 3).priv = false ∧ (s.kore.hod 3).ovf = false
      ∧ (s.kore.hod 3).mode = false ∧ ((s.kore.hod 3).wp - (s.kore.hod 3).rp).toNat = 2
      ∧ s.kore.hodReady (s.kore.hod 3) = true
      ∧ (s.kore.hod 4).wp.toNat ≤ (s.kore.hod 4).rp.toNat ∧ (s.kore.hod 4).carry = true ∧ (s.kore.hod 4).xset = true
      ∧ s.kore.hodReady (s.kore.hod 4) = true ∧ (s.kore.hod 5).ovf = true ∧ (s.kore.hod 6).en = false
      ∧ Running (runOp {} w { rt 0 with waited := 6 }) w { rt 0 with waited := 6 }
      ∧ Running (runOp {} w { rt 0 with waited := 5 }) w { rt 0 with waited := 5 } := by
  unfold Running; decide

/-! ### Witnesses: events of a core -/

theorem witness_holds_bubbles_and_timeouts :
    ((ctxSt { holding := true, bound := some 5, waited := 6 }).ctxAt 0 .cb0).holding = true
      ∧ ((ctxSt { holding := true, bound := some 5, waited := 6 }).ctxAt 0 .cb0).trapped = false
      ∧ ((ctxSt { holding := true, bound := some 5, waited := 5 }).ctxAt 0 .cb0).waited ≤ 5
      ∧ ((coreSt { bubble := true }).core 0).bubble = true ∧ ((coreSt { bubble := true }).core 0).serving = none := by decide
/-- A flip is owed with both of its requests; one entry is due with its value at hand and one is two flips away. -/
def flipSt : State :=
  ctxSt { owed := some ⟨4, true, true⟩, regs := [(3, { f0 := 1, f1 := 2, w := true })], ready := 9, clock := 4, pc := 64, tail := 1,
          pwq := [{ reg := 4, rem := 0, val := some 9, ready := 4 }, { reg := 5, rem := 2, val := some 3 }] }
theorem witness_flips_complete :
    (flipSt.core 0).serves .cb0 = false ∧ (flipSt.ctxAt 0 .cb0).owed = some ⟨4, true, true⟩ ∧ (flipSt.ctxAt 0 .cb0).dueTrap = none
      ∧ Tbl.wf {} (flipSt.ctxAt 0 .cb0).regs = true
      ∧ (∀ e ∈ (flipSt.ctxAt 0 .cb0).pwq, e.rem = 0 → e.canLand (flipSt.ctxAt 0 .cb0).clock = true)
      ∧ (flipSt.ctxAt 0 .cb0).transient = false ∧ (flipSt.ctxAt 0 .cb0).trapped = false
      ∧ (flipSt.core 0).delayed = [] ∧ (flipSt.core 0).flipOps .cb0 = [] ∧ (flipSt.core 0).primWas = none := by decide
theorem witness_queue_entries_land :
    (flipSt.ctxAt 0 .cb0).pwq[0]? = some { reg := 4, rem := 0, val := some 9, ready := 4 }
      ∧ ({ reg := 4, rem := 0, val := some 9, ready := 4 } : Pwq).canLand (flipSt.ctxAt 0 .cb0).clock = true := by decide
/-- A delayed access of the secondary. -/
def delayedOf (store : Bool) : Delayed :=
  { id := 5, cx := .cb1, store := store, acm := false, banks := [0], orig := 3, since := 3, lat := 4,
    bundle := 0, pieces := [⟨.tess 0 0x100, 0, 8⟩], val := 0x1234, reg := if store then 0 else 7, land := 1 }
def delayedSt (store : Bool) : State :=
  gangSt { delayed := [delayedOf store], tess := [(0x100, 9)], cb0 := { clock := 9 },
           cb1 := { pwq := [{ reg := 7, rem := 1, acc := 5 }] } }
theorem witness_delayed_accesses :
    ∀ store ∈ [true, false], ((delayedSt store).core 0).delayed = [delayedOf store]
      ∧ (∀ n, (delayedSt store).primaryClock 0 = some n → (delayedOf store).since + 1 < n)
      ∧ ((delayedSt store).ctxAt 0 .cb1).dueTrap = none ∧ ((delayedSt store).ctxAt 0 .cb1).owed = none
      ∧ (delayedOf store).hits = [] ∧ (delayedOf store).snap = [] ∧ ((delayedSt store).ctxAt 0 .cb1).must = [] := by
  intro store h
  have h : store = true ∨ store = false := by cases store <;> simp
  rcases h with rfl | rfl <;> refine ⟨by decide, ?_, by decide, by decide, by decide, by decide, by decide⟩ <;> intro n hn <;>
    exact (Option.some.inj ((show _ = some 9 by decide).symm.trans hn)) ▸ (by decide : 3 + 1 < 9)
/-- A table that maps the lowest 64 KiB to frame 2, where a fault queue's header stands at 0x40. -/
def walkMem : Mem :=
  (List.foldl (fun (m : Mem) (e : Nat × Nat) => Mem.write m e.1 8 e.2) []
    [(0x10000, 0x12001), (0x12000, 0x14001), (0x14000, 0x16001), (0x16000, 0x2001F), (0x20058, 2), (0x20060, 0x80)])
def walkSt (va : Word64) (fqb : Nat) : State :=
  { gangSt { cb0 := { walk := some { va := va, slot := 2 } } } with
    mem := walkMem, tenants := [(0, { on := true, ptb := 0x10000, fqb := fqb, frames := [(0, 16)] })] }
theorem witness_walks :
    (walkSt 0x1234 0).walkOf 0 .cb0 0x1234 = .leaf 0 65536 0x20000 7 0
      ∧ (walkSt 0x11234 0x40).walkOf 0 .cb0 0x11234 = .missing
      ∧ ((walkSt 0x11234 0x40).faultRecord 0 .cb0 0x11234).2 = true
      ∧ ((walkSt 0x11234 0).tenant ((walkSt 0x11234 0).gang 1).ten).fqb = 0 := by decide +kernel
theorem witness_pending_traps :
    let x : Ctx := { gang := 1, asyncs := [{ code := 13 }, { code := 20, info := 5 }], preempt := true, pageFault := some 7 }
    let s := gangSt { cb0 := x }
    s.holds 0 .cb0 = true ∧ (s.ctxAt 0 .cb0).trapped = false
      ∧ (x.asyncs.find? (·.code == 20)).map (·.info) = some 5
      ∧ (∀ b ∈ [({ code := 13 } : AsyncTrap)], b.code ≠ 20) ∧ s.interruptOf 0 .cb0 = none
      ∧ (gangSt { cb0 := { trapped := true, dueTrap := some (4, 7, 9, 32, false) } }).kore.entryReady .cb0 = true := by decide
/-- A clean first pass that read a line wrong once; an escaped one; and a half with its fill record. -/
def replaySt (esc : Bool) : State :=
  ctxSt { transient := true, esc := esc, pstart := 64, pc := 96, rcnt := 255, check := { tail := 3, lr := 32 }, bundles := 7, phase0 := 5 }
/-- The packet of a copy of one line from tessera 0x400 to 0x100. -/
def linePacket (chk : Nat) : List Byte :=
  [1, 0, 0x11, 1, 0, BitVec.ofNat 8 chk, 0, 0, 0, 4, 0, 0, 0, 0, 0, 0, 0, 1, 0, 0, 0, 0, 0, 0] ++ List.replicate 8 0 ++ [64]
    ++ List.replicate 31 0
def refetchSt : State :=
  gangSt { delayed := [{ delayedOf false with cx := .cb0, refetch := true, pieces := [⟨.tess 0 0x100, 0, 8⟩] }], tess := [(0x400, 7)],
           badTess := [4],
           cb0 := { pairs := [(0, { en := true, base := 0x100, half := 64, ref := true, fill0 := some { pkt := linePacket 0, first := 0, count := 1 } })] } }
theorem witness_refetch_and_replay :
    (refetchSt.core 0).delayed.find? (fun d => d.cx == .cb0 && d.refetch) ≠ none
      ∧ (refetchSt.ctxAt 0 .cb0).fillAt 4 ≠ none
      ∧ (refetchSt.refill 0 .cb0 { pkt := linePacket 0, first := 0, count := 1 } 0x100).2 = some 7
      ∧ ((replaySt false).ctxAt 0 .cb0).transient = true ∧ ((replaySt false).ctxAt 0 .cb0).rpl = false
      ∧ ((replaySt true).ctxAt 0 .cb0).esc = true := by decide
/-- One operation at the head of its channel. -/
def headSt (o : ChildOp) : State :=
  { gangSt { ops := [o], tess := [(0x400, 7)],
             cb0 := { dyn := pageDyn, seqs := [(o.ch, 1)] } } with geot := [(1, 0x00000001FFF05001)] }
def copyOp : ChildOp := { token := 1, ch := 0, cx := .cb0, kind := .copy, gang := 1, packet := linePacket 0 }
def restripeOp (geo : Byte) : ChildOp :=
  { token := 1, ch := 6, cx := .cb0, kind := .rstrp, gang := 1, packet := [4, geo] ++ List.replicate 62 0 }
theorem witness_operations_start :
    MayStart (headSt copyOp) 0 0 copyOp ∧ MayStart (headSt { copyOp with bad := 1 }) 0 0 { copyOp with bad := 1 }
      ∧ MayStart (headSt { copyOp with ch := 4, kind := .mcall }) 0 4 { copyOp with ch := 4, kind := .mcall }
      ∧ MayStart (headSt (restripeOp 1)) 0 6 (restripeOp 1) ∧ MayStart (headSt (restripeOp 0)) 0 6 (restripeOp 0) := by
  refine ⟨?_, ?_, ?_, ?_, ?_⟩ <;> exact ⟨by decide, rfl, by decide, by decide, by decide, ⟨by decide, .inl rfl⟩⟩
theorem witness_restripes_start :
    (headSt (restripeOp 1)).translate 0 .cb0 0 2 = .ok (0, 0) ∧ ((headSt (restripeOp 1)).geotAt 1).getLsbD 32 = true
      ∧ (headSt (restripeOp 1)).stripes = [] ∧ (headSt (restripeOp 1)).geoAt 0 = 0
      ∧ (headSt { copyOp with pred := 1 }).tokIssued 0 1 1 = some 0
      ∧ (headSt { copyOp with pred := 1 }).tokComplete 0 1 = false := by
  refine ⟨by rfl, by decide, by decide, by decide, by decide, by decide⟩
theorem witness_copy_lines :
    (headSt { copyOp with state := 2 }).kore.nextGrant = some (0, { copyOp with state := 2 })
      ∧ (headSt { copyOp with state := 2, cancel := true }).kore.nextGrant = some (0, { copyOp with state := 2, cancel := true })
      ∧ ((copyP (linePacket 0) 0 0).line 0).1 = 0x400 ∧ ((copyP (linePacket 0) 0 0).line 0).2.2.1 = 0x100
      ∧ (copyP (linePacket 0) 0 0).total = 1 ∧ (copyP (linePacket 0) 0 0).ssp = 1 ∧ (copyP (linePacket 0) 0 0).dsp = 1
      ∧ (copyP (linePacket 64) 0 0).chk = true
      ∧ (headSt copyOp).kore.badTess = [] := by decide
/-- A re-stripe in work with one line left, or more. -/
def stripeSt (done : Nat) : State :=
  { headSt { restripeOp 1 with state := 2 } with
    stripes := [{ page := 0, size := 65536, geo := 1, done := done, owner := 1, token := 1 }] }
theorem witness_restripe_lines :
    (stripeSt 0).kore.nextGrant = some (6, { restripeOp 1 with state := 2 })
      ∧ (stripeSt 1023).stripes.find? (fun t => t.owner == 1 && t.token == 1) ≠ none ∧ 64 * (0 + 1) < 65536
      ∧ 65536 ≤ 64 * (1023 + 1) := by decide
/-- A collective ALLGATHER of one line from tessera 0x400 to 0x100. -/
def collOp : ChildOp :=
  { token := 1, ch := 5, cx := .cb0, kind := .coll, gang := 1, state := 2, level := 0,
    packet := [3, 2, 0, 0, 0, 0, 0x11, 0, 0, 4, 0, 0, 0, 0, 0, 0, 0, 1, 0, 0, 0, 0, 0, 0, 64, 0, 0, 0] ++ List.replicate 36 0 }
/-- A gang of two strands whose second part disagrees, or is missing. -/
def collPairSt (other : Bool) : State :=
  { headSt collOp with
    gangs := [(1, { state := 3, place := [(0, some 0)], levels := [⟨0, 0, 1⟩, ⟨0, 0, 2⟩], scnt := 2 })],
    cores := [(0, { (headSt collOp).core 0 with
      ops := if other then [collOp, { collOp with token := 2, sidx := 1, packet := [3, 1] }] else [collOp] })] }
theorem witness_collectives :
    (headSt collOp).kore.headOp 5 = some collOp ∧ (headSt collOp).members 1 collOp = [0]
      ∧ (headSt collOp).partOfColl 1 collOp 0 = some (0, collOp) ∧ (headSt collOp).kore.opOf 1 = some collOp
      ∧ collLines collOp.packet 1 = 1 ∧ leAt collOp.packet 6 1 = 0x11 ∧ leAt collOp.packet 8 8 = 0x400
      ∧ leAt collOp.packet 16 8 = 0x100
      ∧ (collPairSt true).members 1 collOp = [0, 1] ∧ (collPairSt true).kore.headOp 5 = some collOp
      ∧ (((collPairSt true).members 1 collOp).filterMap ((collPairSt true).partOfColl 1 collOp)).length = 2
      ∧ collKey [3, 1] ≠ collKey collOp.packet
      ∧ (collPairSt false).partOfColl 1 collOp 1 = none ∧ (collPairSt false).strandCtx 1 1 = none
      ∧ (headSt { collOp with cancel := true }).partOfColl 1 { collOp with cancel := true } 0
          = some (0, { collOp with cancel := true }) := by decide
/-- A hash of the 64 bytes at tessera 0x400, and an encryption of them, to 0x100. -/
def crypOp (mode : Byte) : ChildOp :=
  { token := 1, ch := 7, cx := .cb0, kind := .cryp, gang := 1, state := 2,
    packet := [6, mode, 0, 0x11, 64, 0, 0, 0, 0, 4, 0, 0, 0, 0, 0, 0, 0, 1, 0, 0, 0, 0, 0, 0] ++ List.replicate 40 0 }
theorem witness_crypto :
    (headSt (crypOp 2)).kore.headOp 7 = some (crypOp 2) ∧ (headSt (crypOp 0)).kore.headOp 7 = some (crypOp 0)
      ∧ leAt (crypOp 2).packet 1 1 = 2 ∧ leAt (crypOp 0).packet 1 1 = 0 ∧ leAt (crypOp 0).packet 4 4 = 64
      ∧ ((headSt (crypOp 2)).readBytes ((headSt (crypOp 2)).moverOf 0 (crypOp 2)) 1 3 0x400 64).1.core 0 = (headSt (crypOp 2)).core 0
      ∧ (match ((headSt (crypOp 2)).readBytes ((headSt (crypOp 2)).moverOf 0 (crypOp 2)) 1 3 0x400 64).2 with
          | .ok x => x.1 == 7 | .error _ => false) = true := by decide
theorem witness_joins :
    let j : ChildOp := { token := 2, ch := 3, cx := .cb0, kind := .kjoin, gang := 1, order := 9, mask := 1 }
    let s := fun (st : Nat) => gangSt { ops := [{ copyOp with state := st, order := 4 }, j] }
    (s 4).kore.headOp 3 = some j ∧ (s 2).kore.headOp 3 = some j
      ∧ (∀ q ∈ (s 4).kore.ops, q.order < 9 → completeCode q.state = true)
      ∧ (∃ q ∈ (s 2).kore.ops, q.order < 9 ∧ j.mask.testBit q.ch = true ∧ completeCode q.state = false) := by decide
/-- ADPT waits for adapter 1 of the directory at 0x1000 of the lowest page. -/
def fetchSt (rank : Byte) : State :=
  { runSt { tess := [(0x40, 1)], cb0 := { dyn := pageDyn }, mxcfg := 1 } { rt 0 with fetch := some (false, 1, 0, 0x1000) } with
    mem := (if rank = 0 then [] else [(0x1021, 0x20), (0x1029, 0x30), (0x1030, rank)]) ++ [(0x2003, 7)],
    tenants := [(0, { on := true, frames := [(0, 1)] })] }
theorem witness_adapter_fetches :
    let r : Routine := { rt 0 with fetch := some (false, 1, 0, 0x1000) }
    let s := fetchSt 8
    let q := fetchSt 0
    ({ s with focus := 0 } : State).mxRun = some (routineOp, r) ∧ r.ending = none ∧ routineOp ∈ s.kore.ops
      ∧ (match ({ s with focus := 0 } : State).adapterDir (s.moverOf 0 routineOp) 0x1000 1 with
          | (u, .ok (d, _, 8, 0)) => (match (u.readBytes (s.moverOf 0 routineOp) 0 65 d 4096).2 with
              | .ok _ => true | .error _ => false)
          | _ => false) = true
      ∧ (match ({ q with focus := 0 } : State).adapterDir (q.moverOf 0 routineOp) 0x1000 1 with
          | (u, .error 19) => (u.core 0).halfRow.isNone && ((u.core 0).mxOp.map (·.newer)) == some 0
          | _ => false) = true := by decide

/-! ### Witnesses: the distributor and the host -/

/-- A memory of little-endian words. -/
def words (l : List (Nat × Nat × Nat)) : Mem := l.foldl (fun m e => Mem.write m e.1 e.2.1 e.2.2) []
/-- Tenant 3 with its lowest page at frame 2, a launch queue at 0x1000 whose first slot is claimed with the record at
0x2000, and a runtime queue of two slots in host memory. -/
def hostSt : State :=
  { booted := true,
    tenants := [(3, { on := true, ptb := 0x10000, rqb := 0x8000, frames := [(0, 16)] })],
    dtq := [(3, 0x1000)], dtc := [(3, 0x20200)], dtqIn := [(3, 0x1000)], dtcIn := [(3, 0x20200)],
    hostMem := words [(0x8018, 4, 2), (0x8020, 8, 0x9000)],
    mem := words [(0x10000, 8, 0x12001), (0x12000, 8, 0x14001), (0x14000, 8, 0x16001), (0x16000, 8, 0x2001F),
      (0x21018, 4, 2), (0x21020, 8, 0x1080), (0x21080, 8, 1), (0x21088, 8, 0x2000),
      (0x22000, 4, 0x10001), (0x22004, 4, 2), (0x22008, 8, 0x4000), (0x22010, 4, 0x10000), (0x22068, 4, 0x40), (0x2206C, 4, 0x40),
      (0x22060, 8, 0x3000), (0x22080, 8, 77), (0x23000, 8, 5), (0x2A000, 8, 9)] }
/-- A host message of tenant 3. -/
def msg (len a0 a1 a2 : Nat) (data : List Byte) : HostMsg :=
  ⟨3, BitVec.ofNat 16 len, 7, BitVec.ofNat 64 a0, BitVec.ofNat 64 a1, BitVec.ofNat 64 a2, data⟩
theorem witness_register_writes :
    hcfgOk (2 ^ 54 + 4096 * 2 ^ 32 + 2 ^ 20) = true ∧ hcfgOk (2 ^ 54 + 2 ^ 52) = true ∧ hcfgOk (2 ^ 54) = false
      ∧ ((hodSt.kore.hod 3).en = true) ∧ ((hodSt.kore.hod 0).en = false)
      ∧ (BitVec.ofNat 64 (2 ^ 54 + 4096 * 2 ^ 32 + 2 ^ 20)).getLsbD 54 = true
      ∧ hodSt.kore.matrixBusy = false ∧ (runSt {} (rt 0)).kore.matrixBusy = true
      ∧ (∀ e ∈ [(2, (0x10003 : Word64))], e.1 ≠ 1 → e.2 &&& (0x1000C : Word64) &&& 0xFF = 0)
      ∧ (∃ e ∈ [(2, (0x10003 : Word64))], e.1 ≠ 1 ∧ e.2 &&& (0x10002 : Word64) &&& 0xFF ≠ 0) := by decide
/-- The queue with its header away, its head expired, unclaimed, or raised. -/
def unreadSt : State := { hostSt with dtqIn := [(3, 0x10000)] }
def expiredSt : State := hostSt.setTenant 3 { hostSt.tenant 3 with expired := [0] }
def unclaimedSt : State := { hostSt with mem := Mem.write hostSt.mem 0x21080 8 7 }
def raisedSt : State := hostSt.setTenant 3 { hostSt.tenant 3 with raised := [(0, 3)] }
theorem witness_queues_are_scanned :
    unreadSt.servesQueue 3 = true ∧ unreadSt.tenantAt 3 0x10000 3 = .error 1 ∧ expiredSt.servesQueue 3 = true
      ∧ hostSt.servesQueue 3 = true ∧ (hostSt.tenant 3).expired = [] ∧ (expiredSt.tenant 3).expired = [0]
      ∧ (raisedSt.tenant 3).raised.find? (fun e => e.1 == 0) = some (0, 3) := by decide +kernel
theorem witness_queue_headers_are_read :
    (hostSt.ringHeader 1 3 0x1000 64).2 = some (0, 0, 2, 0x1080) ∧ (hostSt.ringHeader 1 3 0x1000 64).1.tenants = hostSt.tenants
      ∧ (match ((hostSt.ringHeader 1 3 0x1000 64).1.engReadBytes 1 3 2 0x1080 64) with
          | (v, .ok b) => decide (leAt b 0 8 = 1 ∧ leAt b 8 8 = 0x2000 ∧ v.tenants = hostSt.tenants) | _ => false) = true
      ∧ (match ((unclaimedSt.ringHeader 1 3 0x1000 64).1.engReadBytes 1 3 2 0x1080 64) with
          | (_, .ok b) => decide (leAt b 0 8 = 7) | _ => false) = true
      ∧ (match hostSt.engRead 1 3 0x2004 2 with | (_, .ok v) => v == 2 | _ => false) = true := by decide +kernel
/-- The claim of the first slot has been noticed; or a gang of tenant 3 stands suspended. -/
def noticedSt : State := hostSt.setTenant 3 { hostSt.tenant 3 with cand := some (0, 2, 0) }
def suspendedSt : State := hostSt.setGang 1 { state := 5, ten := 3, hdr := 0x1000, bound := 1, levels := [⟨0, 0, 1⟩] }
theorem witness_launches_are_selected :
    noticedSt.takeRegs.candidate 3 = some (none, 0, 2, 0) ∧ (∀ t, t < 16 → t ≠ 3 → noticedSt.takeRegs.candidate t = none)
      ∧ noticedSt.takeRegs.beats 2 0 = true ∧ hostSt.takeRegs.candidate 3 = none
      ∧ suspendedSt.takeRegs.candidate 3 = some (some 1, 0, 1, 0) ∧ suspendedSt.takeRegs.beats 1 0 = true
      ∧ (∀ t, t < 16 → t ≠ 3 → suspendedSt.takeRegs.candidate t = none) := by decide
/-- A record of one level of one strand, with its entry point at 32. -/
def recordOf (version n count entry : Byte) : List Byte :=
  [version, 0, n, 0, 0, 0, 0, 0, entry] ++ List.replicate 7 0 ++ [0, 0, count, 0] ++ List.replicate 236 0
theorem witness_launch_records :
    leAt (recordOf 2 1 1 32) 0 2 ≠ 1 ∧ recZero (recordOf 1 0 1 32) = false ∧ recZero (recordOf 1 1 0 32) = true
      ∧ levelsOk (recLevels (recordOf 1 1 0 32)) = false ∧ levelsOk (recLevels (recordOf 1 1 255 32)) = true
      ∧ countsOk (rootDom (recLevels (recordOf 1 1 1 32))) (recLevels (recordOf 1 1 1 32)) = true := by decide
/-- A gang of one strand waits, with its record; all dies are lost, or it may stop a gang of a lower class. -/
def waitingSt (cls : Nat) : State :=
  { hostSt with gangs := [(1, { state := 1, ten := 3, hdr := 0x1000, cls := cls, levels := [⟨0, 0, 1⟩], record := recordOf 1 1 1 32 })] }
def crowdedSt (cls : Nat) : State :=
  { waitingSt cls with dies := (List.range 8).map (fun d => (d, { lost := true })), rclsIn := [(1, 0x80001)],
                       gangs := (waitingSt cls).gangs ++ [(2, { state := 3, place := [(0, some 0)] })] }
theorem witness_gangs_are_placed :
    (waitingSt 0).fit [] ((waitingSt 0).gang 1) = some [(0, 0)] ∧ ((waitingSt 0).gang 1).saves = []
      ∧ (waitingSt 0).yields ((waitingSt 0).gang 1) = false ∧ (crowdedSt 1).yields ((crowdedSt 1).gang 1) = false
      ∧ (waitingSt 0).switching = false ∧ (crowdedSt 0).switching = false ∧ (allStrands [⟨0, 0, 1⟩]).length = 1
      ∧ (crowdedSt 0).fit [] ((crowdedSt 0).gang 1) = none ∧ ((crowdedSt 0).gang 1).cls = 0
      ∧ Tbl.wf {} (crowdedSt 1).gangs = true ∧ (crowdedSt 1).lowerOn 1 = [2]
      ∧ (waitingSt 0).partRejected ((waitingSt 0).gang 1) = false ∧ (waitingSt 0).claimsOwn ((waitingSt 0).gang 1) = false
      ∧ (crowdedSt 1).partRejected ((crowdedSt 1).gang 1) = false
      ∧ (crowdedSt 1).fit [] ((crowdedSt 1).gang 1) = none ∧ (crowdedSt 1).untilFits ((crowdedSt 1).gang 1) [2] [] = [2] := by decide +kernel
/-- Parts of a gang of two devices. -/
def fabricSt (state : Nat) (ready : Bool) : State :=
  { hostSt with gangs := [(1, { state := state, ten := 3, hdr := 0x1000, levels := [⟨6, 6, 2⟩, ⟨0, 0, 1⟩], place := [(0, some 0)], fmap := [(1, 9)] })],
                nodeId := 4, peers := [(9, { up := true, parts := if ready then [(3, 0, 0)] else [] })] }
theorem witness_fabric_gangs :
    (fabricSt 9 true).partsReady ((fabricSt 9 true).gang 1) = true ∧ (fabricSt 9 false).partsReady ((fabricSt 9 false).gang 1) = false
      ∧ isFabric ((fabricSt 1 true).gang 1).levels = true ∧ isFabric ((waitingSt 0).gang 1).levels = false := by decide
/-- A gang of one strand on core 0. -/
def runningSt (state : Nat) (k : Core) : State :=
  { (gangSt k) with gangs := [(1, { state := state, place := [(0, some 0)], unhalted := 1, levels := [⟨0, 0, 1⟩], scnt := 1 })] }
theorem witness_preemption :
    (runningSt 3 { ops := [{ copyOp with state := 2 }] }).gang 1
        = { state := 3, place := [(0, some 0)], unhalted := 1, levels := [⟨0, 0, 1⟩], scnt := 1 }
      ∧ ((runningSt 4 {}).core 0).savable 1 false .cb0 = true ∧ ((runningSt 4 {}).core 0).savable 1 false .cb1 = true
      ∧ ((runningSt 4 {}).core 0).opsQuiet 1 = true
      ∧ ((runningSt 4 { delayed := [{ delayedOf true with cx := .cb0 }] }).core 0).savable 1 false .cb0 = false
      ∧ ((runningSt 3 { alarm := 9, cb0 := { clock := 9 } }).core 0).cb0.gang = 1
      ∧ ((runningSt 3 { alarm := 9, cb0 := { clock := 9 } }).core 0).alarm ≤ ((runningSt 3 { alarm := 9, cb0 := { clock := 9 } }).core 0).lastCycle
      ∧ (runningSt 4 {}).escalating 0 = none ∧ ((runningSt 4 {}).core 0).ingress = []
      ∧ (runningSt 3 { alarm := 9, cb0 := { clock := 9 } }).candidates.2 = []
      ∧ (runningSt 3 { alarm := 9, cb0 := { clock := 9 } }).candidates.1.cores = (runningSt 3 { alarm := 9, cb0 := { clock := 9 } }).cores := by
  decide
theorem witness_messages_are_judged :
    msgOf (.mwrite (msg 8 0 0 0 [])) = some (msg 8 0 0 0 []) ∧ ({} : State).booted = false ∧ hostSt.booted = true
      ∧ (msg 8 0 0 0 []).data.length ≠ (msg 8 0 0 0 []).len.toNat ∧ (msg 0 0x20 0 0 []).a0.toNat % 8 = 0
      ∧ (msg 0 4 0 0 []).a0.toNat % 8 ≠ 0 ∧ 16 ≤ ({ msg 0 0 0 0 [] with ten := 16 }).ten.toNat := by decide
/-- Gang 1 of tenant 3 runs on core 5, its doorbell page at virtual page 1. -/
def bellSt : State :=
  { hostSt with mem := Mem.write hostSt.mem 0x16010 8 0xF00003000F, gangs := [(1, { state := 3, ten := 3, place := [(0, some 5)] })] }
theorem witness_host_memory :
    Accepted hostSt (msg 8 0x100 0 0 (List.replicate 8 1)) ∧ Accepted hostSt (msg 0 0xA000 8 0 [])
      ∧ hostSt.tenantAt 3 0x100 2 = .ok (0x20100, 0) ∧ isBell 0x20100 = false ∧ PlainAt hostSt 3 0x20100 8 0
      ∧ hostSt.tenantAt 3 0x10000 2 = .error 1
      ∧ (hostSt.flushMailbox.bringAll (hostSt.flushMailbox.agentDeps 0)).serves (some 3) (64 * (0x20100 / 64)) 0 = true
      ∧ ((hostSt.flushMailbox.bringAll (hostSt.flushMailbox.agentDeps 0)).die 8).buffer = []
      ∧ (match hostSt.flushMailbox.engReadBytes 0 3 3 0xA000 8 with | (_, .ok b) => leAt b 0 8 == 9 | _ => false) = true
      ∧ (match hostSt.flushMailbox.engRead 0 3 0xA000 8 with
          | (u, .ok b) => b == 9 && u.serves (some 3) 0x2A000 0 | _ => false) = true := by
  unfold Accepted PlainAt; decide +kernel
theorem witness_host_doorbells :
    bellSt.tenantAt 3 0x10000 2 = .ok (0xF000030000, 0) ∧ isBell 0xF000030000 = true
      ∧ bellLine 0xF000030000 = 0 ∧ (bellSt.gang 1).ten = 3 ∧ Tbl.get none (bellSt.gang 1).place 0 = some 5
      ∧ Accepted bellSt (msg 8 0x10000 1 0 (List.replicate 8 1)) := by
  unfold Accepted; decide +kernel
/-- The same with core 5 holding a parked walk, and a number of records in its ingress buffer. -/
def parkedSt (n : Nat) : State :=
  bellSt.setCore 5 { cb0 := { gang := 1, walk := some { parked := true } }, parked := [.cb0],
                     ingress := List.replicate n { seq := 1, ofs := 0, tag := 0, data := List.replicate 64 0 } }
theorem witness_host_cores :
    Accepted (parkedSt 1) (msg 64 1 0x200000000 0 (List.replicate 64 1)) ∧ Tbl.get none ((parkedSt 1).gang 1).place 0 = some 5
      ∧ 255 ≤ ((parkedSt 255).core 5).ingress.length ∧ ((parkedSt 254).core 5).ingress.length < 255 ∧ (parkedSt 1).parkedAt 3 (msg 0 1 0 0 []) = some (5, .cb0, { parked := true })
      ∧ fanswerFine (msg 0 1 0 0 []) = true ∧ (parkedSt 1).parkedAt 3 (msg 0 1 1 0 []) = none
      ∧ fanswerFine (msg 0 1 1 0 []) = true
      ∧ Accepted (parkedSt 1) (msg 4 4094 0 0 [1, 0, 2, 0]) := by
  unfold Accepted; decide +kernel
theorem witness_deadline_messages :
    Accepted hostSt (msg 0 0 0x300 0 []) ∧ Accepted suspendedSt (msg 0 0 0x300 0 [])
      ∧ (match (hostSt.claimIs 3 0).2 with | .pending h => h | _ => false) = true
      ∧ (match ((waitingSt 0).claimIs 3 0).2 with | .waiting n => n == 1 | _ => false) = true
      ∧ (match (suspendedSt.claimIs 3 0).2 with | .beyond => true | _ => false) = true := by
  unfold Accepted; decide +kernel
/-- A tenant queue at 0x1000 whose slots hold copies of one line from 0x3000 to 0x5000; it is idle or at work. -/
def queuePacket (kind : Byte) : List Byte :=
  [kind, 0, 0, 1, 0, 0, 0, 0, 0, 0x30, 0, 0, 0, 0, 0, 0, 0, 0x50, 0, 0, 0, 0, 0, 0] ++ List.replicate 8 0 ++ [64] ++ List.replicate 31 0
def queueWork (lines : Nat) : ChildOp :=
  { token := 0, ch := 0, cx := .cb0, kind := .copy, state := 2, owner := 2, packet := queuePacket 1, lines := lines }
def servedSt (kind : Byte) (busy : Bool) : State :=
  { hostSt with queues := [(0, { ten := 3, hdr := 0x1000, on := true, busy := if busy then some (queueWork 0) else none })],
                mem := Mem.setBytes hostSt.mem 0x210C0 (queuePacket kind) }
theorem witness_tenant_queues :
    ((servedSt 1 false).ringHeader 16 3 0x1000 128).2 = some (0, 0, 2, 0x1080)
      ∧ (match (servedSt 1 false).engReadBytes 16 3 3 0x1080 128 with
          | (_, .ok b) => decide (leAt b 0 8 = 1 ∧ b.drop 64 = queuePacket 1) | _ => false) = true
      ∧ queueBad (queuePacket 1) (copyP (queuePacket 1) 0 0) = 0 ∧ queueBad (queuePacket 2) (copyP (queuePacket 2) 0 0) ≠ 0
      ∧ (copyP (queuePacket 1) 0 0).total = 1
      ∧ (match ((servedSt 1 true).moveLine ((servedSt 1 true).queueMover 0 (Tbl.get {} (servedSt 1 true).queues 0) (queueWork 0))
            (copyP (queuePacket 1) 0 0) 0).2 with | .ok (y, _) => y == 5 | .error _ => false) = true
      ∧ (match ((servedSt 1 true).moveLine ((servedSt 1 true).queueMover 0 (Tbl.get {} (servedSt 1 true).queues 0) (queueWork 0))
            (copyP ((queuePacket 1).set 10 1) 0 0) 0).2 with | .ok _ => false | .error _ => true) = true := by decide +kernel
theorem witness_runtime_queue :
    let s := hostSt.setTenant 3 { hostSt.tenant 3 with rwi := 2, rri := 1, rheld := [[1]] }
    (s.tenant 3).on = true ∧ (hostSt.tenant 3).rheld = [] ∧ (hostSt.tenant 5).on = false ∧ (hostSt.tenant 5).rheld = []
      ∧ (s.tenant 3).rri ≤ (2 : Word64).toNat ∧ (2 : Word64).toNat ≤ (s.tenant 3).rwi
      ∧ (s.tenant 3).rwi - 2 < Mem.read s.hostMem (0x8000 + 0x18) 4 := by decide

/-! ### Witnesses: commands and service -/

/-- A command of a tenant. -/
def cmd (ten : BitVec 8) (data : List Byte) : HostCmd := ⟨ten, BitVec.ofNat 16 data.length, 7, 0, data⟩
/-- The bytes of a 3072-bit number, most significant first. -/
def big (n : Nat) : List Byte := (Crypto.beBytes 384 n).map (BitVec.ofNat 8)
/-- A prime modulus, and the hash of its bytes. -/
def testModulus : Nat := 2 ^ 3072 - 47
def testHash : List Nat := Crypto.beBytes 32 0xc0b76447f182c71dfc95fb6af1c6f9610089f9f88dac223bc74f7fce5d1bb960
/-- The signature, under that key, of a header with version 7 and an empty body, worked out outside the model. -/
def imageSig : Nat := 0x322c77dfc3c0fd586040bcdfcf0602495bb11f479e659a2da6a3f24a6dbb1156083a0b6f08dc415c8524dcfa1a8b9c9eb257603feee44995cd8ee200c275d1fbe2bfc9946f9226f98e7ead441309f8f897105b19d9a815c597cfc15b43a2bce5eb300a68361f8dff9d7fccd8b1c6d4626ffcf07350182cfdc6869b6be21fcebc6f8155a4497ce180cae8411d7f6353b8dbf251b289eb8deef32509c52bd4f75b655e868a4cbe1b1c1dcdd11c935835ab9a91bb17979ef521ba99a9eaf4e25c14887600df31707cc7b7173eac8ca76d78318de354d692bf91e40d1740339b86deee7c834281a7b4530956933f7789c6920ae1f08a246863c2d61e9f9a92b33ac923c8a3b581da1450169671651b0e542505aab7de41f744a772c5ae330e704c4e684585fa50089e66f4fb6b77a51eee99d4b738dbd23da93f41056c02660476ff42fa40021f18bf6f7ad3bfc64a11431d2049d3a21404e4317032584d1a3de3090d73b81ceb89935654b608df45a63d46ef91037b0438e4defe3d59457b896ab7
/-- The same of a token for device 9, DEPLOYED, challenge 5. -/
def tokenSig : Nat := 0x176e6bf0654e31261e9d86fd65d1d3a3025efc7e6d897fe99aaba80e7ee47ef1a28c7719b5463d11c1a9d22c13c208a4c0dbccdf26129a0c7d9693df94ec0eaf67a2fe7dd8a6155864bcd59ec0313067d1b8c29a585202fd39bc5c931413bc3736b597a5a2107819f05ff332f5d1186458f0ff4d1d64c8f9d108a1371d272c37f99a62a0759ec971ff8853404d9aa108cdd407611af354ba6aa2ab63c076c81a741fc7b2971aca61dd9367bb05be9359d0f7f9d6faac50601bad0ca906b61837265477c31e99d67fc3c87d5ceb99e78f64755acd8d25d0fbfa6cfd648b26fdfeaf792eba9fbf338196785f2ba310c79907553c53264df61a35e522f364029b18028a6b0b60393c29b6cad5884a4c70262b2d1f458ea289dcc8b14df8129e2dc799e399446f2bd384b1f12168a6c5d200639c790f66b56b4318cb7f2adc3dd1bec3600422b0056cb934b0ac46f18ea32a554062e399918b8bbb92f00a506c9fb3fb30e598ff1fcf46c32eb6d9d1acb24285f4412e852c8ce6bd99c9b7b895661a
/-- The OAEP encoding of the bytes 0 to 63 with a seed of zeros, worked out outside the model. -/
def oaepText : Nat := 0xd90349d5985e82e6d8af6c065658cb524bb1d7ab301dd5fcc0ed3493a7b6e90b8e069b97072f4ae2e86ab49f8234744f94167576c5f588bc071ddd59846e325b2158a8906d5e2c2be001bac943ab9cab4063536e1c546b40221fdf8db031a4bbe15f374423633701e04fe17c1d640b34f2e27b8f6aec00e24f1dcf50ad0920b3b4e3c4fa0d93fd8adb0e88d71f4614d018149a59f6a5adbfba1bd000d0e7c49ad584ce97eece608fe0ed7f493162a4a9cbfccd935da0f8c3816090661597aceb554a67ca9f52a771d26b79bb0b58882c94fb37da5f1cceacbced4372168523f4a8482ba3887a4aba03dad0440851e9de87b8037b7e8d3738a05301f17643ca07e42c0a057b28451002782f0f1f2fdc85198ed4637f67f2c27b27d1550daf99f69e90141c741cb7624d65cad22c2bd52625ac2f0db32c4bc9ab2e2d0a73b71625525d9fc3c6b6ea422a5e3dbbbf02bccbfbc1fc282dffe726dd53fdcefc0dfee3b8cc5af5540be58d467fd2267cad6605d9bd62b0de1baf2670516fe32ed2ae
def testFuses : Fuses := { deviceId := 9, helnorHash := testHash, debugHash := testHash, wrapKey := (2 ^ 3072 - 1, 1) }
/-- A part whose image is signed, of version `svn`, with the least version fused. -/
def imageSt (svn least : Nat) : State :=
  { fuses := testFuses, minSvn := BitVec.ofNat 32 least,
    image := Mem.setBytes (Mem.setBytes (Mem.write [] 4 4 svn) 0x10 (big testModulus)) 0x190 (big imageSig) }
/-- The same part booted, with tenant 3 and a challenge given out. -/
def bootedSt : State := { hostSt with fuses := testFuses, chal := some 5, keys := [(4, some (3, [1])), (9, some (2, [2]))] }
def token (dev : Byte) : List Byte :=
  [dev, 0, 0, 0, 0, 0, 0, 0, 2, 0, 0, 0, 0, 0, 0, 0, 5] ++ List.replicate 15 0 ++ big tokenSig ++ big testModulus

theorem witness_commands_are_judged :
    cmdOf (.fwload { cmd 0 [] with rsv := 1 }) = some { cmd 0 [] with rsv := 1 } ∧ ¬ WellMade { cmd 0 [] with rsv := 1 }
      ∧ ¬ WellMade (cmd 16 []) ∧ ¬ WellMade { cmd 0 [] with len := 1 } := by unfold WellMade; decide
theorem test_signature : Crypto.pssVerify testModulus (nums (Mem.bytes (Mem.write [] 4 4 7) 0 16)) (nums (big imageSig)) = true := by
  decide +kernel
theorem witness_sound_firmware :
    Crypto.sha256 (nums (Mem.bytes (imageSt 7 3).image 0x10 384)) = (imageSt 7 3).fuses.helnorHash
      ∧ Crypto.pssVerify (Crypto.beNat (nums (Mem.bytes (imageSt 7 3).image 0x10 384)))
          (nums (Mem.bytes (imageSt 7 3).image 0 16) ++ nums (Mem.bytes (imageSt 7 3).image 0x310 (Mem.read (imageSt 7 3).image 8 4)))
          (nums (Mem.bytes (imageSt 7 3).image 0x190 384)) = true := by
  have hn : (big testModulus).length = 384 := by decide +kernel
  have hs : (big imageSig).length = 384 := by decide +kernel
  have h1 : Mem.bytes (imageSt 7 3).image 0x10 384 = big testModulus := by
    unfold imageSt; simp only []; rw [Mem.bytes_setBytes_other _ _ _ _ _ (.inl (by decide)), ← hn, Mem.bytes_setBytes]
  have h2 : Mem.bytes (imageSt 7 3).image 0x190 384 = big imageSig := by
    unfold imageSt; simp only []; rw [← hs, Mem.bytes_setBytes]
  have h3 : Mem.bytes (imageSt 7 3).image 0 16 = Mem.bytes (Mem.write [] 4 4 7) 0 16 := by
    unfold imageSt; simp only []; rw [Mem.bytes_setBytes_other _ _ _ _ _ (.inl (by decide)),
      Mem.bytes_setBytes_other _ _ _ _ _ (.inl (by decide))]
  have h4 : Mem.read (imageSt 7 3).image 8 4 = 0 := by
    unfold imageSt; simp only []; rw [Mem.read_setBytes_other _ _ _ _ _ (.inl (by decide)),
      Mem.read_setBytes_other _ _ _ _ _ (.inl (by decide))]
    decide
  have h5 : Crypto.beNat (nums (big testModulus)) = testModulus := by decide +kernel
  rw [h1, h2, h3, h4, h5]
  refine ⟨by decide +kernel, ?_⟩
  rw [show Mem.bytes (imageSt 7 3).image 0x310 0 = [] from rfl, show nums [] = [] from rfl, List.append_nil]
  exact test_signature
theorem witness_firmware :
    (imageSt 7 3).minSvn.toNat = 3 ∧ (imageSt 7 8).minSvn.toNat = 8
      ∧ (imageSt 7 3).lcs = 2 ∧ (imageSt 7 3).booted = false ∧ WellMade (cmd 0 []) ∧ bootedSt.booted = true
      ∧ Crypto.sha256 (nums (Mem.bytes ({ bootedSt with booted := false } : State).image 0x10 384)) ≠ bootedSt.fuses.helnorHash
      ∧ WellMade (cmd 0 [0, 1, 0, 0, 9]) ∧ 4 ≤ ([0, 1, 0, 0, 9] : List Byte).length := by unfold WellMade; decide +kernel
/-- A record for tenant 5: a table at 0x20000, frames 64 and 65, a ring at 0x8000 of host memory in window 0. -/
def tenantRecord (ptb : Byte) : List Byte :=
  [0, ptb, 2, 0, 0, 0, 0, 0] ++ List.replicate 16 0 ++ [0, 0x80, 0, 0, 0, 0, 0, 0, 3, 2] ++ List.replicate 14 0
    ++ [64, 0, 0, 0, 0, 0, 0, 0, 2, 0, 0, 0, 0, 0, 0, 0] ++ [0, 0x80, 0, 0, 0, 0, 0, 0, 0, 0x20, 0, 0, 0, 0, 0, 0xC0]
    ++ List.replicate 176 0
theorem witness_tenants :
    bootedSt.tenantsAllowed = true ∧ WellMade (cmd 5 (tenantRecord 0)) ∧ (tenantRecord 0).length = 256
      ∧ (bootedSt.tenant 5).on = false ∧ (bootedSt.tenant 3).on = true ∧ bootedSt.tenantOk (tenantRecord 0) = true
      ∧ bootedSt.tenantOk (tenantRecord 1) = false ∧ leAt (tenantRecord 0) 0x38 8 = 2
      ∧ bootedSt.tenantBusy 3 = false ∧ ({ bootedSt with gangs := suspendedSt.gangs } : State).tenantBusy 3 = true := by
  unfold WellMade; decide +kernel
theorem witness_wrapped_key :
    (Crypto.oaepDecrypt bootedSt.fuses.wrapKey.1 bootedSt.fuses.wrapKey.2 (nums ((4 : Byte) :: 0 :: 0 :: 0 :: big oaepText |>.drop 4))).map
        (fun k => decide (k = List.range 64)) = some true := by decide +kernel
theorem witness_keys :
    bootedSt.keySlot 4 = some (3, [1]) ∧ bootedSt.keySlot 9 = some (2, [2]) ∧ bootedSt.keySlot 5 = none
      ∧ (Crypto.oaepDecrypt bootedSt.fuses.wrapKey.1 bootedSt.fuses.wrapKey.2 (nums (List.replicate 384 (0 : Byte)))).isNone = true
      ∧ WellMade (cmd 3 ([4, 0, 0, 0] ++ big oaepText)) ∧ WellMade (cmd 3 [4]) := by unfold WellMade; decide +kernel
theorem witness_unlock :
    bootedSt.lcs = 2 ∧ bootedSt.tokenOk (token 9) = true ∧ (token 9).length = 800 := by decide +kernel
theorem witness_bad_token :
    bootedSt.tokenOk (token 8) = false ∧ WellMade (cmd 0 (token 9)) ∧ WellMade (cmd 0 []) := by unfold WellMade; decide +kernel
theorem witness_lifecycle :
    (∀ n ∈ [(0, 1), (1, 2)], ({ bootedSt with lcs := BitVec.ofNat 3 n.1 } : State).lcs.toNat = n.1
        ∧ leAt [BitVec.ofNat 8 n.2] 0 1 = n.2) ∧ leAt [(4 : Byte)] 0 1 = 4 ∧ leAt [(1 : Byte)] 0 1 = 1
      ∧ WellMade (cmd 0 [4]) := by unfold WellMade; decide
theorem witness_attestation :
    WellMade (cmd 0 (List.replicate 32 9)) ∧ WellMade (cmd 0 ([4, 0, 0, 0] ++ List.replicate 32 1))
      ∧ WellMade (cmd 0 ([7, 0, 0, 0] ++ List.replicate 32 1)) ∧ WellMade (cmd 0 [5, 1, 0, 0])
      ∧ leAt ([5, 1, 0, 0] : List Byte) 0 2 = 0x105
      ∧ (∃ e ∈ (fabricSt 9 true).gangs, isFabric e.2.levels = true ∧ e.2.state = 9)
      ∧ bootedSt.gangs = [] := by unfold WellMade; decide
/-- A gang in a state on core 100, of die 1. -/
def dieSt (state : Nat) : State := { hostSt with gangs := [(1, { state := state, place := [(0, some 100)] })] }
theorem witness_sparing :
    (dieSt 3).gangsOn 1 = [1] ∧ (dieSt 5).gangsOn 1 = [] ∧ (dieSt 3).spareOf 0 = some 4 ∧ (dieSt 3).spareOf 1 = some 9
      ∧ ({ hostSt with failed := [4] } : State).spareOf 0 = none ∧ ((dieSt 3).die 1).lost = false
      ∧ Tbl.get 0 (dieSt 3).tilesUsed 1 = 0
      ∧ (({ hostSt with dies := [(1, { lost := true })] } : State).die 1).lost = true
      ∧ (dieSt 3).tileOver 1 7 = false ∧ (dieSt 3).dieOver 1 = false ∧ (dieSt 3).sparesUsed 1 < 4
      ∧ ({ dieSt 3 with demand := [(1, 7)] } : State).tileOver 1 7 = true
      ∧ ({ dieSt 3 with demand := [(1, 128)] } : State).dieOver 1 = true
      ∧ ({ dieSt 3 with demand := [(1, 7)], tilesUsed := [(1, 4)] } : State).sparesUsed 1 = 4
      ∧ ({ hostSt with failed := [4], demand := [(1, 128)] } : State).dieOver 1 = true ∧ hostSt.flagged = []
      ∧ (dieSt 3).allTold 1 = true ∧ ((dieSt 3).gang 1).escal = false := by decide
/-- The same with a service log ring of two slots. -/
def loggedSt : State :=
  { hostSt with logRing := 0x7000, hostMem := Mem.write (Mem.write hostSt.hostMem 0x7018 4 2) 0x7020 8 0x7100 }
theorem witness_logs_have_room : loggedSt.logRoom ≠ 0 ∧ loggedSt.logDrop = 0 := by decide +kernel
def linkSt (retry asked : Nat) : State := { hostSt with ports := [(3, { up := true, retry := retry, asked := asked })] }
theorem witness_good_flit :
    let f : List (BitVec 8) := List.replicate 252 0 ++ natToBytes 4 (crc32c (List.replicate 252 0))
    f.length = 256 ∧ leAt f 252 4 = crc32c (f.take 252) ∧ leAt f 250 2 = 0 ∧ (Tbl.get ({} : Port) (linkSt 15 254).ports 3).up = true := by
  decide +kernel
theorem witness_links :
    (List.replicate 10 (0 : BitVec 8)).length ≠ 256 ∧ (Tbl.get ({} : Port) (linkSt 15 254).ports 3).retry + 1 = 16
      ∧ ((Tbl.get ({} : Port) (linkSt 14 255).ports 3).asked + 1) % 256 = 0
      ∧ (Tbl.get ({} : Port) (linkSt 0 0).ports 4).up = false ∧ (Tbl.get ({} : Port) (linkSt 0 0).ports 3).spare = false
      ∧ (Tbl.get ({} : Module) (linkSt 0 0).mods 3).lanes = [] ∧ (Tbl.get ({} : Port) (linkSt 0 0).ports 3).laneOver 2 = false
      ∧ ({ crcBad := List.replicate 16 (2, 0) } : Port).laneOver 2 = true := by decide
def scrubSt (pos : Nat) : State :=
  { hostSt with scrbEn := true, scrubPos := [(0, (pos, 5))], lineErr := [(0, { bad := [3, 40] }), (1, { bad := [3] })] }
theorem witness_scrubbing :
    (scrubSt 0).moving 0 = false ∧ (scrubSt 0).onBed 0 0 = true ∧ 2 ≤ (Tbl.get ({} : LineErr) (scrubSt 0).lineErr 0).symbols false
      ∧ (Tbl.get ({} : LineErr) (scrubSt 1).lineErr 1).symbols (plcInt ((scrubSt 1).scrubPlc 1)) ≤ 1
      ∧ 64 * (0 + 1) < Config.memSize ∧ Config.memSize ≤ 64 * (Config.memSize / 64 - 1 + 1)
      ∧ hostSt.scrbEn = false ∧ hostSt.chanMoved = [] ∧ (stripeSt 0).moving 0 = true
      ∧ (∀ k ∈ geoStacks (hostSt.geotAt 0), hostSt.reserveUsed k + 65536 / 12 ≤ 256 * 65536)
      ∧ geoStacks (hostSt.geotAt 0) ≠ [] := by decide +kernel
theorem witness_power :
    ({ hostSt with dies := [(2, { uvx := 1 })] } : State).die 2 = { uvx := 1 }
      ∧ ({ hostSt with dies := [(2, { excursion := true })] } : State).die 2 = { excursion := true }
      ∧ ({ hostSt with dies := [(2, { remeasure := true, lock := true })] } : State).die 2 = { remeasure := true, lock := true }
      ∧ (hostSt.die 0).uvx = 0 ∧ ({} : State).tlim.toNat = 100 ∧ 2514 ≤ ({} : State).plim.toNat ∧ ({} : State).powered = true
      ∧ 2 * 0 < 16 * (({ hostSt with sramErrs := [⟨2, 3, 4, 5, true⟩] } : State).dieErrs 2 0 false).length
      ∧ 2 * 0 < (({ hostSt with sramErrs := [⟨2, 3, 4, 5, true⟩] } : State).dieErrs 2 0 true).length
      ∧ worstTile (({ hostSt with sramErrs := [⟨2, 3, 4, 5, true⟩] } : State).dieErrs 2 0 true) = 3
      ∧ 4 + 3 ∈ ({ hostSt with sites := [3] } : State).railsOn ∧ 4 + 4 ∉ ({ hostSt with sites := [3] } : State).railsOn := by
  decide
/-- A marked line in a bank that has had `n` rows moved. -/
def wornSt (n : Nat) : State :=
  let loc := hostSt.lineLoc 64
  { hostSt with lineErr := [(1, { mark := true })], rowsMoved := List.replicate n (loc % 16, loc / 16) }
/-- A row with an uncorrectable error, 64 PPRs of a channel, and a marked line in a bank whose spare rows are gone. -/
theorem witness_repairs :
    ({ hostSt with rowErrs := [(3 + 16 * 5, none)] } : State).rowOver (3 + 16 * 5) = true
      ∧ (0 < Config.spareRows → ({ hostSt with rowErrs := [(3 + 16 * 5, none)] } : State).bankFull 3 (rowBank 5) = false)
      ∧ hostSt.underStripe (fun a => hostSt.lineLoc a == 3 + 16 * 5) = false ∧ hostSt.rowOver 0 = false
      ∧ ({ hostSt with rowsMoved := List.replicate 64 (3, 5) } : State).chanOver 3 5 = true ∧ hostSt.chanOver 3 5 = false
      ∧ hostSt.frameOver 0 = false
      ∧ (wornSt Config.spareRows).frameOver 0 = true := by
  refine ⟨by decide, fun h => decide_eq_false (Nat.not_le.mpr h), rfl, rfl, by decide, rfl, rfl, ?_⟩
  have e : (wornSt Config.spareRows).lineLoc (64 * 1) = hostSt.lineLoc 64 := rfl
  unfold State.frameOver State.bankFull
  show List.any [(1, ({ mark := true } : LineErr))] _ = true
  simp only [List.any_cons, e]
  simp [wornSt, List.filter_replicate]
def portSt (state : Nat) : State := { runningSt state { cb0 := { regs := regsOf [(3, 7)] } } with lcs := 0 }
theorem witness_debug_port :
    (portSt 3).portOpen = true ∧ hostSt.portOpen = false ∧ ((portSt 11).gang 1).state = 11
      ∧ ((portSt 11).core 0).savable 1 false .cb0 = true ∧ ((portSt 11).core 0).savable 1 false .cb1 = true
      ∧ ((portSt 8).ctxAt 0 .cb0).gang = 1 ∧ portKey 0 3 = some 3 ∧ portKey 5 31 = some 191
      ∧ ((runningSt 11 { delayed := [{ delayedOf true with cx := .cb0 }] }).core 0).savable 1 false .cb0 = false := by decide

/-! ### Witnesses: the whole machine -/

theorem witness_every_step : InPart State.reset ∧ InPart hostSt ∧ InPart addSt := by
  unfold InPart; decide
theorem witness_memory_form : MemoryOk State.reset ∧ MemoryOk hostSt := by
  unfold MemoryOk; decide +kernel
theorem witness_unpowered : InPart { ({} : State) with powered := false, agenda := [.event .powerUp, .core 3] }
    ∧ (Action.event .launchSelect ≠ .event .powerUp) := by
  unfold InPart; decide
theorem witness_encodings : (Instr.add ⟨true, true, 15, 3⟩ 31 31 31).wf = true ∧ (Instr.add ⟨true, true, 15, 3⟩ 31 31 31).source ≠ .event
    ∧ (Instr.add bare 1 2 3).source = .slot .s ∧ decodeUop 0xB000000000000000 = .ok .yld := by decide

/-! ### Witnesses: forms complete -/

/-- A routine whose row 0 names no adapter, with the bay on; one that a suspended operation's channel waits for. -/
def plainRows : State := runSt { mxcfg := 1 } (rt 0)
theorem witness_slot_forms_complete :
    placeOf memSt .c0 (cAddr memSt .c0 4 3 8) 8 1 = some (.tess 0 0x118) ∧ cAddr memSt .c0 4 3 8 = 0x118
      ∧ placeOf memSt .c1 (cAddr memSt .c1 4 3 8) 8 1 = some (.mem 0x118 0)
      ∧ placeOf memSt .c1 (cAddr memSt .c1 4 3 8) 8 2 = some (.mem 0x118 0)
      ∧ placeOf memSt .c1 (cAddr memSt .c1 4 3 1) 1 2 = some (.mem 0x103 0)
      ∧ placeOf memSt .c0 (memSt.me.s 4).toNat 4 3 = some (.tess 0 0x100)
      ∧ placeOf memSt .c1 (memSt.me.s 4).toNat 8 3 = some (.mem 0x100 0)
      ∧ MayAccess memSt .c0 bare (keyS 7) 60 [(0x118, 8)] ∧ MayAccess memSt .c1 (landH 2) (keyS 7) 60 [(0x118, 8)]
      ∧ MayAccess memSt .c1 bare 0 61 [(0x118, 8)] ∧ MayAccess memSt .c0 bare (keyS 7) 62 [(0x100, 4)]
      ∧ MayAccess memSt .c1 bare (keyS 7) 62 [(0x100, 8)]
      ∧ partLanes 0 false (memSt.lanes ⟨true, false, 9, 0⟩) = 0 ∧ partLanes 0 true (memSt.lanes bare) ≠ 0
      ∧ partLanes 0 false (memSt.lanes bare) ≠ 0
      ∧ (placesOf memSt .c1 1 (lanesOf memSt bare 0 4 0 false)).isSome = true
      ∧ (placesOf memSt .c0 2 (lanesOf memSt bare 5 4 0 true)).isSome = true
      ∧ memSt.watch 60 3 ((lanesOf memSt bare 0 4 0 false).map fun l => (l.2.toNat, 4)) = none
      ∧ memSt.watch 61 2 ((lanesOf memSt bare 5 4 0 true).map fun l => (l.2.toNat, 4)) = none
      ∧ memSt.guardOn bare = true ∧ memSt.cx ≠ .svc ∧ memSt.attached = [] := by
  unfold MayAccess Room
  refine ⟨?_, ?_, ?_, ?_, ?_, ?_, ?_, ?_, ?_, ?_, ?_, ?_, ?_, ?_, ?_, ?_, ?_, ?_, ?_, ?_, ?_, ?_⟩ <;> decide
theorem witness_vector_forms_complete :
    Room memSt (memSt.me.keyV 8) true 0 ∧ LanesOk memSt .v0 (lanesOf memSt bare 0 4 0 false)
      ∧ LanesOk memSt .v1 (lanesOf memSt bare 5 4 0 true) := by
  unfold Room LanesOk; decide
theorem witness_other_forms_complete :
    Running (runSt {} (rt 0)) routineOp (rt 0) ∧ routineOp.cancel = false ∧ routineOp.suspend = false
      ∧ (runSt {} (rt 0)).kore.halfRow = none ∧ routineOp.newer < 64
      ∧ fmtsLegal 0 (fmtsCode routineOp 12) (fmtsCode routineOp 15) ∧ fmtsLegal 5 (fmtsCode routineOp 11) (fmtsCode routineOp 11)
      ∧ Running plainRows routineOp (rt 0) ∧ plainRows.kore.mxcfg ≠ 0 ∧ (rt 0).fetch = none ∧ (rt 0).pins = []
      ∧ (rt 0).marks = [] ∧ plainRows.kore.softTess = []
      ∧ (∀ m, (2 : BitVec 6).toNat ≤ m → m ≤ (2 : BitVec 6).toNat + (1 : BitVec 6).toNat →
          plainRows.adapterId (plainRows.moverOf plainRows.focus routineOp) (rt 0) 1 m = .ok (0, [1024]))
      ∧ ({ powered := false } : State).powered = false := by
  refine ⟨?_, by decide, by decide, by decide, by decide, ?_, ?_, ?_, by decide, by decide, by decide, by decide, by decide,
    ?_, by decide⟩ <;> try (unfold fmtsLegal; decide)
  · unfold Running; decide
  · unfold Running; decide
  · intro m h1 h2
    have h : m = 2 ∨ m = 3 := by
      have h1 : 2 ≤ m := h1
      have h2 : m ≤ 3 := h2
      omega
    rcases h with rfl | rfl <;> decide

/-! ### Witnesses: clauses of waits, pending traps, starts, collectives and saves -/

/-- A tessera whose lines are good and which no access waits for; and a store delayed in an earlier bundle. -/
theorem witness_own_reads :
    MayReadOwn (opSt 0) [((opSt 0).me.s 5).toNat / 64] ∧ MayReadOwn (svcSt []) []
      ∧ MayReadOwn (mldrSt none) ((mldrSt none).me.physLines false [⟨0, 0, 8⟩])
      ∧ AtOnce hwinSt false true (offsFrom 0x40 3)
      ∧ ¬ MayReadOwn { opSt 0 with cores := [(0, { badTess := [1] })] } [1] := by
  refine ⟨by decide, by decide, by decide, ⟨by decide, .inl (by decide)⟩, by decide⟩
/-- A stopped context whose SVC serves the other, with an error pending; an interrupt pending; a trap kept for later. -/
def busySt : State := gangSt { cb0 := { asyncs := [{ code := 20, info := 5 }] }, serving := some (.cb1, 16) }
def interruptSt : State := gangSt { intp := 0x20, intm := 0xFFFF, cb0 := { pc := 64 } }
def keptSt : State := gangSt { cb0 := { kept := some (16, 6, 5, 96, false) } }
theorem witness_busy_and_kept :
    busySt.holds 0 .cb0 = true ∧ busySt.kore.busy .cb0 = true ∧ (busySt.ctxAt 0 .cb0).trapped = false
      ∧ interruptSt.interruptOf 0 .cb0 = some 5 ∧ interruptSt.kore.busy .cb0 = false
      ∧ (interruptSt.ctxAt 0 .cb0).asyncs = [] ∧ (interruptSt.ctxAt 0 .cb0).preempt = false
      ∧ (keptSt.ctxAt 0 .cb0).kept = some (16, 6, 5, 96, false) ∧ keptSt.interruptOf 0 .cb0 = none
      ∧ keptSt.holds 0 .cb0 = true ∧ (keptSt.ctxAt 0 .cb0).pageFault = none
      ∧ ((gangSt { cb0 := { tfb := 0x1000 } }).core 0 |>.ctx (otherCtx .cb0)).dueTrap = none
      ∧ ((svcSt []).kore.ctx .cb0).gang ≠ 0 ∧ ((svcSt []).gang 1).state = 3 := by decide
/-- A copy to a tile of no strand, and one that lands on a hod that its core does not have. -/
def farCopy (hod : Byte) : ChildOp :=
  { copyOp with packet := [1, 0, 0x21, 1, 0, 0, 0, 0, 0, 4, 0, 0, 0, 0, 0, 0, 0, 1, 0, if hod = 0 then 1 else 0, 0, 0, 0, 0]
      ++ List.replicate 8 0 ++ [64] ++ List.replicate 31 0, toF := 2 }
theorem witness_start_faults :
    MayStart (headSt (farCopy 0)) 0 0 (farCopy 0) ∧ (farCopy 0).bad = 0 ∧ (headSt (farCopy 0)).opDeps 0 (farCopy 0) = []
      ∧ ((headSt (farCopy 0)).startFault 0 (farCopy 0)).isSome = true
      ∧ (headSt copyOp).startFault 0 copyOp = none ∧ (headSt copyOp).opsRun copyOp = true := by
  refine ⟨?_, ?_⟩
  · exact ⟨by decide, rfl, by decide, by decide, by decide, ⟨by decide, .inl rfl⟩⟩
  · decide
/-- A collective that must stop, one whose other member has halted, an encryption whose key slot is full. -/
def haltedPairSt : State :=
  { collPairSt false with cores := [(0, { (collPairSt false).core 0 with cb1 := { gang := 1, sidx := 1, halted := true } })] }
theorem witness_collectives_stop :
    (headSt { collOp with suspend := true }).partOfColl 1 { collOp with suspend := true } 0 = some (0, { collOp with suspend := true })
      ∧ (headSt { collOp with suspend := true }).members 1 { collOp with suspend := true } = [0]
      ∧ haltedPairSt.partOfColl 1 collOp 1 = none ∧ haltedPairSt.strandHalted 1 1 = true
      ∧ haltedPairSt.members 1 collOp = [0, 1] := by decide
/-- Two agreeing parts of an ALLGATHER, in two contexts of one core. -/
def collPart (b : Byte) : ChildOp :=
  { collOp with token := 2, cx := .cb1, sidx := 1, order := 1,
                packet := [3, 2, 0, 0, 0, 0, 0x11, 0, 0, 8, 0, 0, 0, 0, 0, 0, 0, b, 0, 0, 0, 0, 0, 0, 64, 0, 0, 0] ++ List.replicate 36 0 }
def gatherSt (o : ChildOp) : State :=
  { headSt o with
    gangs := [(1, { state := 3, place := [(0, some 0)], levels := [⟨0, 0, 1⟩, ⟨0, 0, 2⟩], scnt := 2 })],
    cores := [(0, { (headSt o).core 0 with ops := [o, collPart 16] })] }
theorem witness_collectives_move :
    (gatherSt collOp).kore.headOp 5 = some collOp ∧ (gatherSt collOp).kore.opOf 1 = some collOp
      ∧ (gatherSt collOp).collMembers collOp = [.here 0 collOp, .here 0 (collPart 16)]
      ∧ (∀ p ∈ packetsOf [.here 0 collOp, .here 0 (collPart 16)], collKey p = collKey collOp.packet)
      ∧ collBad collOp.packet 1 2 = false ∧ collBad (collPart 16).packet 1 2 = false ∧ collLines collOp.packet 2 = 2
      ∧ leAt (collPart 16).packet 8 8 = 0x800 ∧ leAt (collPart 16).packet 16 8 = 0x1000 ∧ (gatherSt collOp).unripe = []
      ∧ ((gatherSt collOp).core 0).badTess = [] ∧ ((gatherSt collOp).core 0).softTess = []
      ∧ (headSt collOp).collMembers collOp = [.here 0 collOp] ∧ collBad collOp.packet 1 1 = false
      ∧ (gatherSt { collOp with suspend := true }).collMembers { collOp with suspend := true }
          = [.here 0 { collOp with suspend := true }, .here 0 (collPart 16)]
      ∧ (gatherSt { collOp with cancel := true }).collMembers { collOp with cancel := true }
          = [.here 0 { collOp with cancel := true }, .here 0 (collPart 16)]
      ∧ (.missing : Member) ∉ (collPairSt true).collMembers collOp
      ∧ haltedPairSt.collMembers collOp = [.here 0 collOp, .missing] := by decide
theorem witness_collective_parts :
    Apart (gatherSt collOp) [(0, collOp), (0, collPart 16)] ∧ PartGone haltedPairSt 0 1 1 .missing
      ∧ ¬ PartGone (gatherSt collOp) 0 1 1 (.here 0 (collPart 16))
      ∧ PlainPart (gatherSt collOp) 2 0 (0, collOp) ∧ PlainPart (gatherSt collOp) 2 0 (0, collPart 16)
      ∧ PlainPart (headSt collOp) 1 0 (0, collOp) := by
  refine ⟨by unfold Apart; decide, .inl (by decide), by unfold PartGone; decide, ?_, ?_, ?_⟩ <;>
    exact ⟨⟨1, by decide⟩, by decide, by decide, by decide, by decide, by decide, by decide, by decide, by decide, by decide⟩
theorem witness_crypto_lines :
    (headSt (crypOp 2)).opVeiled 0 (crypOp 2) = false ∧ (headSt (crypOp 2)).unripe = [] ∧ leAt (crypOp 2).packet 4 4 = 64
      ∧ leAt (crypOp 2).packet 3 1 = 0x11 ∧ leAt (crypOp 2).packet 8 8 = 0x400 ∧ leAt (crypOp 2).packet 16 8 = 0x100
      ∧ ((headSt (crypOp 2)).core 0).badTess = [] ∧ ((headSt (crypOp 2)).core 0).softTess = []
      ∧ (headSt { copyOp with state := 2 }).opVeiled 0 { copyOp with state := 2 } = false := by decide
/-- A die about to leave, whose cache shows a store that its home lacks. -/
def leavingSt : State :=
  { dieSt 5 with dies := [(1, { leaving := true, buffer := [{ line := 5, mask := 1, data := 9, count := 1, ten := none, plc := 0, core := 100, cx := .cb0, gang := 1, tile := 0 }] })] }
/-- An outstanding access that nothing orders later; a store that a die's cache has taken. -/
theorem witness_transfers_complete :
    (∃ a, ((accSt (.load true) true 0x100 1 0).core 0).accs[0]? = some a
        ∧ (accSt (.load true) true 0x100 1 0).mayPerform 0 a = true ∧ a.pieces.length = 1)
      ∧ (leavingSt.die 1).buffer[0]?.isSome = true ∧ (leavingSt.die 1).notices = [] := by
  refine ⟨⟨_, rfl, by decide, by decide⟩, by decide, by decide⟩
theorem witness_crypto_keys :
    (headSt (crypOp 0)).keySlot (leAt (crypOp 0).packet 2 1) = none
      ∧ ({ headSt (crypOp 0) with keys := [(0, some (0, List.replicate 64 7))] } : State).keySlot 0 ≠ none
      ∧ ({ headSt (crypOp 0) with keys := [(0, some (0, List.replicate 64 7))] } : State).kore.headOp 7 = some (crypOp 0) := by decide
/-- A barrier whose other strand stands on another device and has arrived there. -/
def farBarSt : State :=
  { gangSt { cb0 := { barWait := some 0, arrive := [(0, (1, 0))] } } with
    gangs := [(1, { state := 3, place := [(0, some 0)], unhalted := 1, levels := [⟨7, 7, 1⟩, ⟨6, 6, 2⟩, ⟨0, 0, 1⟩], scnt := 2 })],
    farStrands := [⟨0, 0, 0, 1, some 0, 1⟩] }
theorem witness_far_barriers :
    let ms := instanceOf farBarSt 0 .cb0 0
    (farBarSt.ctxAt 0 .cb0).barWait = some 0 ∧ ms.length = 1 ∧ perInstance (farBarSt.gang 1).levels 0 = 2
      ∧ farBarSt.farArrived (farBarSt.gang 1) 0 2 0 1 (ms.map fun m => (farBarSt.ctxAt m.1 m.2).sidx.toNat) = 1
      ∧ (∀ m ∈ ms, farBarSt.released m.1 m.2 0 = true ∧ (farBarSt.die (dieOf m.1)).lost = false) := by decide
theorem witness_selected_claims :
    (waitingSt 0).selected 3 0 = true ∧ (fabricSt 9 true).selected 3 0 = true ∧ hostSt.selected 3 0 = false
      ∧ suspendedSt.selected 3 0 = false
      ∧ ((waitingSt 0).ringHeader 1 3 0x1000 64).2 = some (0, 0, 2, 0x1080)
      ∧ ((waitingSt 0).ringHeader 1 3 0x1000 64).1.gangs = (waitingSt 0).gangs := by decide +kernel
/-- A gang whose core serves UE_DATA; and one whose debug stop is over. -/
theorem witness_escalation_and_stops :
    ((runningSt 3 { serving := some (.cb0, 13) }).core 0).serving = some (.cb0, 13)
      ∧ (runningSt 3 {}).escalating 0 = none ∧ (runningSt 3 { serving := some (.cb0, 14) }).escalating 0 ≠ none
      ∧ ((portSt 11).core 0).ready 1 ((portSt 11).gang 1).escal = true
      ∧ ((runningSt 2 {}).gang 1).state = 2 ∧ isFabric ((runningSt 2 {}).gang 1).levels = false := by decide
theorem witness_leaving_dies :
    (leavingSt.die 1).leaving = true ∧ (leavingSt.die 1).buffer ≠ [] ∧ (leavingSt.drainDie 1).die 1 ≠ leavingSt.die 1
      ∧ keyFrames bootedSt 4 = (bootedSt.tenant 3).frames ∧ keyFrames bootedSt 5 = [] ∧ bootedSt.dies = [] := by decide +kernel

end Sys2Proof.Tests
end

namespace Sys2Proof.Proofs

open Sys2Proof.Machine Sys2Proof.Safety Sys2Proof.Claims

/-! ### Results that meet a changed issue latch

A V slot that reads the row latch as its B operand notes so in the issue latch (R144) before its result is written. The
claims speak of the state before the instruction, and no result or frame depends on that state's issue latch. -/

theorem takesResult_of_setIss {key : Nat} {v : Vec} {lanes : Pred} {land lat : Nat} {s t : State} {l : Latch}
    (h : TakesResult key v lanes land lat (s.setIss l) t) : TakesResult key v lanes land lat s t :=
  ⟨h.zero, h.now, h.later, h.double⟩

theorem writesOnly_of_setIss {keys : List Nat} {s t : State} {l : Latch} (h : WritesOnly keys (s.setIss l) t) :
    WritesOnly keys s t where
  cores := h.cores
  part := congrArg (fun u : State => u.setIss s.iss) h.part
  core := h.core
  memory := ⟨h.memory.device, h.memory.host, h.memory.tess, h.memory.acm, h.memory.lintel⟩
  regs := h.regs
  context := h.context

/-- A result with room, written after the issue latch has changed. -/
theorem putReg_setIss_ok (s : State) (l : Latch) {key : Nat} (v : Vec) (lanes : Pred) {land : Nat} (lat : Nat)
    (r : Room s key (decide (0 < land)) land) :
    ∃ t, (s.setIss l).putReg key v lanes land lat = .next t ∧ t.iss.out = .issued
      ∧ TakesResult key v lanes land lat s t ∧ WritesOnly [key] s t := by
  obtain ⟨t, ht, hout, htakes, hframe⟩ := State.putReg_ok (s.setIss l) key v lanes land lat r
  exact ⟨t, ht, hout, takesResult_of_setIss htakes, writesOnly_of_setIss hframe⟩

/-! ### Predicate results of the S slot (R97, R101) -/

/-- CMP.NE is the negation of the equality compare (R97). -/
theorem not_cmpEqW (a b : Word64) : (!cmpEqW a b) = decide (a ≠ b) :=
  (decide_not (p := a = b)).symm

/-- An instruction of the table of predicate results writes the table's value, one cycle after issue, or is guarded
off (R36, R38). -/
theorem exec_of_predValue {i : Instr} {s : State} {h : Hdr} {d : BitVec 4} {v : Pred}
    (hv : predValue s i = some (h, d, v)) : exec i s = if s.guardOn h then s.putP d v h.land 1 else s.done := by
  unfold predValue at hv
  split at hv
  -- CMP.NE, whose meaning negates the equality compare
  case h_2 h d a b =>
    cases hv
    rw [← not_cmpEqW]
    rfl
  -- the instructions outside the table
  case h_18 => cases hv
  all_goals
    cases hv
    rfl

theorem predicateResults : PredicateResults := by
  intro i s h d v hv hg hroom
  obtain ⟨t, ht, hout, htakes, hframe⟩ :=
    State.putReg_ok s (s.me.keyP d.toNat) (v.setWidth 4096) (BitVec.allOnes 128) h.land.toNat 1 hroom
  exact ⟨t, ⟨by rw [exec_of_predValue hv, if_pos hg]; exact ht, hout⟩, htakes, hframe⟩

/-! ### The predicate of a vector compare (R150) -/

/-- A number put together from its bits, lowest first, has those bits. -/
theorem testBit_foldr_range (n : Nat) (f : Nat → Bool) (j : Nat) (hj : j < n) :
    ((List.range n).foldr (fun k acc => (f k).toNat + 2 * acc) 0).testBit j = f j := by
  induction n generalizing f j with
  | zero => omega
  | succ n ih =>
    rw [List.range_succ_eq_map, List.foldr_cons, List.foldr_map]
    cases j with
    | zero => cases hf : f 0 <;> simp [Nat.testBit_zero]
    | succ j =>
      have hhalf : ∀ x, ((f 0).toNat + 2 * x) / 2 = x := by
        intro x
        have := Bool.toNat_le (f 0)
        omega
      rw [Nat.testBit_succ, hhalf]
      exact ih (fun k => f (k + 1)) j (by omega)

/-- Bit `j` of a compare's predicate: both bits of a 64-bit element are its result, and a lane of smaller elements needs
every one of them to hold (R150). -/
theorem cmpLanes_getLsbD (w va vb : Nat) (t : Nat → Nat → Bool) (j : Nat) (hj : j < 128) :
    (cmpLanes w va vb t).getLsbD j = if w = 64 then t (elAt w va (j / 2)) (elAt w vb (j / 2))
      else decide (∀ k, k < 32 / w → t (elAt w va (j * (32 / w) + k)) (elAt w vb (j * (32 / w) + k)) = true) := by
  rw [cmpLanes, BitVec.getLsbD_ofNat, testBit_foldr_range 128 _ j hj]
  by_cases hw : w = 64
  · simp [hw, hj]
  · rw [Bool.eq_iff_iff]
    simp [hw, hj]

/-! ### Vector compares (R140, R144, R150) -/

/-- Some active lane lets the instruction go on with its active lanes (R140). -/
theorem onLanes_active {s : State} {h : Hdr} {w : Nat} (k : Pred → State → Out) (hl : elLanes w (s.lanes h) ≠ 0) :
    s.onLanes h w k = k (elLanes w (s.lanes h)) s :=
  if_neg hl

/-- With its B operand there, in its register or in the row latch, the instruction goes on, and no more than the issue
latch has changed (R144). -/
theorem withB_of_operandB {s : State} {un : VUnit} {b : BitVec 5} {vb : Vec} (hb : operandB s un b = some vb)
    (key : Nat) (land : BitVec 2) (k : Vec → State → Out) :
    ∃ l, s.withB un b key land k = k vb (s.setIss l) := by
  unfold operandB at hb
  unfold State.withB
  cases hlat : s.latOf un with
  | false =>
    rw [if_neg (by simp [hlat])] at hb
    cases hb
    exact ⟨s.iss, rfl⟩
  | true =>
    rw [if_pos hlat] at hb
    cases hrows : s.kore.latch with
    | nil => simp [hrows] at hb
    | cons row rows =>
      have hrow : row = vb := by simpa [hrows] using hb
      exact ⟨{ s.iss with latUsed := true }, by rw [← hrow]; rfl⟩

/-- What a vector compare does on an operand that is there, with an active lane and room for its result. -/
theorem vecCmp_ok {s : State} {un : VUnit} {h : Hdr} {d : BitVec 4} {a b : BitVec 5} {w lat : Nat}
    {t : Nat → Nat → Bool} {vb : Vec} (hb : operandB s un b = some vb) (hl : elLanes w (s.lanes h) ≠ 0)
    (hroom : Room s (s.me.keyP d.toNat) (decide (0 < h.land.toNat)) h.land.toNat) :
    ∃ u, s.vecCmp un h d a b w lat t = .next u ∧ u.iss.out = .issued
      ∧ TakesResult (s.me.keyP d.toNat) ((cmpLanes w (s.me.v a.toNat).toNat vb.toNat t).setWidth 4096)
          (elLanes w (s.lanes h)) h.land.toNat lat s u
      ∧ WritesOnly [s.me.keyP d.toNat] s u := by
  rw [State.vecCmp, onLanes_active _ hl]
  obtain ⟨l, hwith⟩ := withB_of_operandB hb (s.me.keyP d.toNat) h.land fun vb s' =>
    s'.putVP d (cmpLanes w (s'.me.v a.toNat).toNat vb.toNat t) (elLanes w (s.lanes h)) h.land lat
  rw [hwith]
  exact putReg_setIss_ok s l _ _ lat hroom

/-- An instruction of the table of vector compares is a vector compare of the table's header, destination, width and
latency on a B operand that is there, and the table's test of element `k` is its test of the two elements. -/
theorem exec_of_compareValue {i : Instr} {s : State} {r : CmpRes} (hr : compareValue s i = some r) :
    ∃ un a b t vb, operandB s un b = some vb ∧ exec i s = s.vecCmp un r.h r.d a b r.w r.lat t
      ∧ r.test = fun k => t (elAt r.w (s.me.v a.toNat).toNat k) (elAt r.w vb.toNat k) := by
  unfold compareValue at hr
  split at hr
  -- the instructions outside the table
  case h_8 => cases hr
  all_goals
    obtain ⟨vb, hb, rfl⟩ := Option.map_eq_some_iff.mp hr
    exact ⟨_, _, _, _, vb, hb, rfl, rfl⟩

theorem vectorCompares : VectorCompares := by
  intro i s r hr hl hroom
  obtain ⟨un, a, b, t, vb, hb, hexec, htest⟩ := exec_of_compareValue hr
  obtain ⟨u, hu, hout, htakes, hframe⟩ := vecCmp_ok (a := a) (t := t) (lat := r.lat) hb hl hroom
  refine ⟨u, cmpLanes r.w (s.me.v a.toNat).toNat vb.toNat t, ⟨hexec.trans hu, hout⟩, ?_, htakes, hframe⟩
  intro j hj
  rw [cmpLanes_getLsbD _ _ _ _ _ hj, htest]

/-- Settles O2: the S slot's predicate results and the vector compares each write the predicate of their table, through
the one law of a fixed-latency result. -/
theorem compareResults : Obligations.CompareResults :=
  ⟨predicateResults, vectorCompares⟩

end Sys2Proof.Proofs

namespace Sys2Proof.Proofs

open Sys2Proof.Machine Sys2Proof.Safety Sys2Proof.Claims

/-! ### Values of the S slot (R91 to R93)

The model computes some results by bit-vector tests and truncations; the table of scalar results says the same with the
order and arithmetic of integers. -/

theorem minS_eq (a b : Word64) : minS a b = if a.toInt < b.toInt then a else b := by
  simp [minS, BitVec.slt]

theorem maxS_eq (a b : Word64) : maxS a b = if a.toInt < b.toInt then b else a := by
  simp [maxS, BitVec.slt]

theorem minU_eq (a b : Word64) : minU a b = BitVec.ofNat 64 (min a.toNat b.toNat) := by
  by_cases hlt : a.toNat < b.toNat
  · simp [minU, BitVec.ult, hlt, Nat.min_eq_left hlt.le]
  · simp [minU, BitVec.ult, hlt, Nat.min_eq_right (not_lt.mp hlt)]

theorem maxU_eq (a b : Word64) : maxU a b = BitVec.ofNat 64 (max a.toNat b.toNat) := by
  by_cases hlt : a.toNat < b.toNat
  · simp [maxU, BitVec.ult, hlt, Nat.max_eq_right hlt.le]
  · simp [maxU, BitVec.ult, hlt, Nat.max_eq_left (not_lt.mp hlt)]

/-- Truncation to `n` bits and zero extension keep the value modulo 2 to the `n`. -/
theorem setWidth_setWidth_eq_ofNat (a : Word64) (n : Nat) :
    (a.setWidth n).setWidth 64 = BitVec.ofNat 64 (a.toNat % 2 ^ n) :=
  BitVec.eq_of_toNat_eq (by simp)

/-! ### Scalar results whose instruction has conditions of its own -/

/-- A register of the system register table reads as the table says (R389). -/
theorem execSrd_of_sysReg {s : State} {h : Hdr} {d : BitVec 5} {i : BitVec 10} {v : Word64}
    (hv : s.sysReg i.toNat = some v) (hg : s.guardOn h = true) : execSrd h d i s = s.putS d v h.land 1 := by
  rw [execSrd, hv]
  exact State.whenOn_on _ hg

/-- With no walk in progress XMOV reads a word of the translation result (R263). -/
theorem execXmov_of_no_walk {s : State} {h : Hdr} {d : BitVec 5} {w : BitVec 2} (hw : s.me.walk.isSome = false)
    (hg : s.guardOn h = true) :
    execXmov h d w s = s.putS d (if w = 0 then s.me.xr.w0 else if w = 1 then s.me.xr.w1 else if w = 2 then s.me.xr.w2
      else s.me.xr.w3) h.land 1 := by
  rw [execXmov, State.whenOn_on _ hg]
  exact if_neg (by simp [hw])

/-- A hod that exists, is not another context's private one and has not overflowed admits a hod instruction (R318,
R346). -/
theorem onHod_of_usable {s : State} {h : Hdr} {j : BitVec 5} (k : Hod → State → Out) (hg : s.guardOn h = true)
    (hen : (s.kore.hod j.toNat).en = true)
    (hown : ((s.kore.hod j.toNat).priv && decide ((s.kore.hod j.toNat).own ≠ bankOf s.cx)) = false)
    (hovf : (s.kore.hod j.toNat).ovf = false) : s.onHod h j k = k (s.kore.hod j.toNat) s := by
  rw [State.onHod, State.whenOn_on _ hg]
  simp only [hen, hown, hovf]
  rfl

/-- HPTR reads a pointer of a hod that admits it (R346). -/
theorem execHptr_of_usable {s : State} {h : Hdr} {d : BitVec 5} {w : BitVec 1} {j : BitVec 5}
    (hu : ((s.kore.hod j.toNat).en
      && !((s.kore.hod j.toNat).priv && decide ((s.kore.hod j.toNat).own ≠ bankOf s.cx))
      && !(s.kore.hod j.toNat).ovf) = true)
    (hg : s.guardOn h = true) (hroom : Room s (keyS d.toNat) (decide (0 < h.land.toNat)) h.land.toNat) :
    execHptr h d w j s = s.putS d ((if w = 0 then (s.kore.hod j.toNat).rp else (s.kore.hod j.toNat).wp).setWidth 64)
      h.land 1 := by
  simp only [Bool.and_eq_true, Bool.not_eq_true'] at hu
  obtain ⟨⟨hen, hown⟩, hovf⟩ := hu
  rw [execHptr, State.whenOn_on _ hg, State.dest_room _ hroom]
  exact onHod_of_usable _ hg hen hown hovf

/-- KSTAT of a token that names no core of the gang reads 0 (R343). -/
theorem execKstat_of_no_core {s : State} {un : CUnit} {h : Hdr} {d : BitVec 5} {a : BitVec 4} {f : BitVec 2}
    (hc : s.tokCore s.focus s.strand.gang (s.me.k a.toNat) = none) (hg : s.guardOn h = true) :
    execKstat un h d a f s = s.putS d 0 h.land 4 := by
  rw [execKstat, State.whenOn_on _ hg]
  simp only [hc]

/-- KSTAT of a token that names the own core reads the record there, without an access (R343). -/
theorem execKstat_of_own_core {s : State} {un : CUnit} {h : Hdr} {d : BitVec 5} {a : BitVec 4} {f : BitVec 2}
    (hc : s.tokCore s.focus s.strand.gang (s.me.k a.toNat) = some s.focus) (hg : s.guardOn h = true) :
    execKstat un h d a f s = s.putS d (if (s.tokIssued s.focus s.strand.gang (s.me.k a.toNat)).isSome
      then s.kore.kstat (s.me.k a.toNat) f.toNat else 0) h.land 4 := by
  rw [execKstat, State.whenOn_on _ hg]
  simp only [hc, if_true]

/-- XREG reads a face of a register of a context that SVC may reach (R396). -/
theorem execXregRd_of_reachable {s : State} {h : Hdr} {d a : BitVec 5} {f c : BitVec 1} {k : BitVec 3}
    (hsvc : s.cx = .svc) (hr : s.reachable (ctxBit c) = true) (hg : s.guardOn h = true)
    (hroom : Room s (keyS d.toNat) (decide (0 < h.land.toNat)) h.land.toNat) :
    execXregRd h d a f c k s = s.putS d (if xregKey k a = 0 then 0 else BitVec.ofNat 64
      (if k = 2 then (((s.kore.ctx (ctxBit c)).two (xregKey k a)).face (f == 1)).toNat / 2 ^ 64
        else (((s.kore.ctx (ctxBit c)).two (xregKey k a)).face (f == 1)).toNat)) h.land 1 := by
  rw [execXregRd, State.svcOnly, if_pos hsvc, State.whenOn_on _ hg, State.dest_room _ hroom]
  exact if_neg (by simp [hr])

/-! ### The table of scalar results (R91 to R105, R263, R343, R346, R389, R396) -/

/-- A guarded-on instruction of the table of scalar results, with room for its result, writes the table's value with the
table's latency. -/
theorem exec_of_scalarValue {i : Instr} {s : State} {h : Hdr} {d : BitVec 5} {v : Word64} {lat : Nat}
    (hv : scalarValue s i = some (h, d, v, lat)) (hg : s.guardOn h = true)
    (hroom : Room s (keyS d.toNat) (decide (0 < h.land.toNat)) h.land.toNat) :
    exec i s = s.putS d v h.land lat := by
  cases i
  case mins | maxs | minu | maxu =>
    cases hv
    simp only [← minS_eq, ← maxS_eq, ← minU_eq, ← maxU_eq]
    exact if_pos hg
  case zextb | zexth | zextw =>
    cases hv
    rw [← setWidth_setWidth_eq_ofNat]
    exact if_pos hg
  case srd h d i =>
    obtain ⟨w, hw, hres⟩ := Option.map_eq_some_iff.mp hv
    cases hres
    exact execSrd_of_sysReg hw hg
  case xmov h d w =>
    obtain ⟨hwalk, hres⟩ := Option.ite_none_left_eq_some.mp hv
    cases hres
    exact execXmov_of_no_walk (by simpa using hwalk) hg
  case hptr h d w j =>
    obtain ⟨husable, hres⟩ := Option.ite_none_right_eq_some.mp hv
    cases hres
    exact execHptr_of_usable husable hg hroom
  case kstat un h d a f =>
    dsimp only [scalarValue] at hv
    split at hv
    next hc =>
      cases hv
      exact execKstat_of_no_core hc hg
    next c hc =>
      obtain ⟨hown, hres⟩ := Option.ite_none_right_eq_some.mp hv
      cases hres
      exact execKstat_of_own_core (hown ▸ hc) hg
  case xregRd h d a f c k =>
    obtain ⟨⟨hsvc, hr⟩, hres⟩ := Option.ite_none_right_eq_some.mp hv
    cases hres
    exact execXregRd_of_reachable hsvc hr hg hroom
  -- an instruction outside the table has no value, and the meaning of every other one is its table's row
  all_goals cases hv <;> exact if_pos hg

/-- Settles O1: an instruction of the table of scalar results writes the table's value, through the one law of a
fixed-latency result. -/
theorem scalarResults : Obligations.ScalarResults := by
  intro i s h d v lat hv hg hroom
  obtain ⟨t, ht, hout, htakes, hframe⟩ :=
    State.putReg_ok s (keyS d.toNat) (v.setWidth 4096) (BitVec.allOnes 128) h.land.toNat lat hroom
  exact ⟨t, ⟨(exec_of_scalarValue hv hg hroom).trans ht, hout⟩, htakes, hframe⟩

end Sys2Proof.Proofs

namespace Sys2Proof.Proofs

open Sys2Proof.Machine Sys2Proof.Safety Sys2Proof.Claims

/-! ### Micro-operations of a running routine (R194 to R196, R202) -/

theorem onMx_of_running {s : State} {o : ChildOp} {r : Routine} (h : Running s o r) (f : ChildOp → Routine → State → Out) :
    s.onMx f = f o r s := by
  obtain ⟨hrun, hend⟩ := h
  simp only [State.onMx, hrun, hend]

/-- The operation of a running routine is the matrix channel's operation on record that runs. -/
theorem mxOp_of_running {s : State} {o : ChildOp} {r : Routine} (h : Running s o r) : s.kore.mxOp = some o := by
  obtain ⟨hrun, -⟩ := h
  unfold State.mxRun at hrun
  split at hrun
  next p hop =>
    obtain ⟨-, hpair⟩ := Option.ite_none_right_eq_some.mp hrun
    cases hpair
    exact hop
  next => cases hrun

theorem mem_ops_of_mxOp {k : Core} {o : ChildOp} (h : k.mxOp = some o) : o ∈ k.ops := by
  unfold Core.mxOp at h
  split at h
  next p hhead =>
    obtain ⟨-, hp⟩ := Option.ite_none_right_eq_some.mp h
    cases hp
    exact List.mem_of_find?_eq_some hhead
  next => cases h

/-- Going on at the next word replaces the routine of the core in focus and nothing else. -/
theorem mxNext_routineIs (s : State) (r : Routine) : ∃ t, s.mxNext r = .next t ∧ RoutineIs (onward r) s t := by
  have hkore : (s.setMx (onward r)).kore = { s.kore with mx := onward r } := State.kore_setKore _ _
  refine ⟨s.setMx (onward r), rfl, ?_, ?_, ?_, rfl⟩
  · rw [hkore]
  · rw [hkore]
  · exact fun c hc => State.core_setKore_other s c _ hc

/-- FMTS of a running routine sets the formats of a combination that the model takes and faults on any other (R194). -/
theorem exec_fmts_of_running {s : State} {o : ChildOp} {r : Routine} (h : Running s o r) (mode af bf : BitVec 4) :
    exec (.fmts mode af bf) s =
      if fmtsOk mode.toNat (fmtsCode o af) (fmtsCode o bf) then
        s.mxNext { r with mode := some mode.toNat, afmt := fmtsCode o af, bfmt := fmtsCode o bf, w0 := [], w1 := [],
                          part := [], marks := [], kv := 0 }
      else s.mxFault o mxFormat := by
  refine (onMx_of_running h _ : execFmts mode af bf s = _).trans ?_
  cases hok : fmtsOk mode.toNat (fmtsCode o af) (fmtsCode o bf)
  · exact if_pos (congrArg Bool.not hok)
  · exact if_neg (by simpa [fmtsCode] using hok)

/-- A micro-operation of the table of parameters sets the table's routine and goes on. -/
theorem exec_of_parameters {i : Instr} {s : State} {o : ChildOp} {r u : Routine} (h : Running s o r)
    (hu : parameters o r i = some u) : exec i s = s.mxNext u := by
  unfold parameters at hu
  split at hu
  case h_1 mode af bf =>
    obtain ⟨hok, hset⟩ := Option.ite_none_right_eq_some.mp hu
    cases hset
    rw [exec_fmts_of_running h, if_pos hok]
  -- the micro-operations outside the table
  case h_5 => cases hu
  case h_2 pa pitch ord swz =>
    cases hu
    exact (onMx_of_running h _ : execAfet pa pitch ord swz s = _)
  case h_3 pb rofs srow ssrow =>
    cases hu
    rw [BitVec.ofNat_toNat]
    exact (onMx_of_running h _ : execBsel pb rofs srow ssrow s = _)
  case h_4 pd src ps imm =>
    cases hu
    exact (onMx_of_running h _ : execPadd pd src ps imm s = _)

/-! ### The legal combinations (R194) -/

/-- The model's check of a combination is the list of R194. -/
theorem fmtsOk_iff_fmtsLegal (mode a b : Nat) : fmtsOk mode a b = true ↔ fmtsLegal mode a b := by
  unfold fmtsOk fmtsLegal
  split <;> simp_all

/-! ### What the end of an operation leaves to the matrix array and to the records

The end of an operation lets its context go on and tells its owner and the other devices. None of that reaches the
routine of a core or the records of its operations. -/

/-- The routine and the records of the operations stand as they were. -/
structure KeepsArray (k l : Core) : Prop where
  mx  : l.mx = k.mx
  ops : l.ops = k.ops

theorem KeepsArray.refl (k : Core) : KeepsArray k k := ⟨rfl, rfl⟩

theorem KeepsArray.trans {k l m : Core} (h : KeepsArray k l) (g : KeepsArray l m) : KeepsArray k m :=
  ⟨g.mx.trans h.mx, g.ops.trans h.ops⟩

theorem keepsArray_setCtx (k : Core) (cx : CtxId) (x : Ctx) : KeepsArray k (k.setCtx cx x) :=
  ⟨Core.setCtx_mx k cx x, Core.setCtx_ops k cx x⟩

theorem keepsArray_count (k : Core) (ev : Nat) (cx : Option CtxId) (n : Nat) : KeepsArray k (k.count ev cx n) := by
  unfold Core.count
  split
  · exact .refl k
  · extract_lets mine
    split <;> exact ⟨rfl, rfl⟩

theorem keepsArray_enter (k : Core) (cx : CtxId) (code slot : Nat) (info pc : Word64) (async : Bool) :
    KeepsArray k (k.enter cx code slot info pc async) := by
  unfold Core.enter
  dsimp only
  split <;> exact ⟨Core.setCtx_mx _ _ _, Core.setCtx_ops _ _ _⟩

theorem keepsArray_tryEnter (k : Core) (cx : CtxId) : KeepsArray k (k.tryEnter cx) := by
  unfold Core.tryEnter
  split
  · exact .refl k
  · split
    · exact keepsArray_enter k cx _ _ _ _ _
    · exact .refl k

theorem keepsArray_doFlip (k : Core) (cx : CtxId) (t : Nat) : KeepsArray k (k.doFlip cx t) := by
  unfold Core.doFlip
  extract_lets x o y z l
  have hl : KeepsArray k l := (keepsArray_count k 3 (some cx) _).trans (keepsArray_setCtx _ cx _)
  split
  · split
    · exact ⟨hl.mx, hl.ops⟩
    · exact hl
  · exact hl

theorem keepsArray_tryFlip (k : Core) (cx : CtxId) : KeepsArray k (k.tryFlip cx) := by
  unfold Core.tryFlip
  dsimp only
  split
  · exact .refl k
  · split
    · exact .refl k
    · split
      · split
        · exact .refl k
        · exact keepsArray_setCtx k cx _
      · exact keepsArray_doFlip k cx _

theorem keepsArray_advance (k : Core) (cx : CtxId) : KeepsArray k (k.advance cx) := by
  unfold Core.advance
  split
  · exact .refl k
  · exact ((keepsArray_setCtx k cx _).trans (keepsArray_tryEnter _ cx)).trans (keepsArray_tryFlip _ cx)

/-- The routine and the records of every core stand as they were, and the focus stays. -/
structure KeepsArrays (s t : State) : Prop where
  focus : t.focus = s.focus
  cores : ∀ c, KeepsArray (s.core c) (t.core c)

theorem KeepsArrays.of_cores {s t : State} (hf : t.focus = s.focus) (hc : t.cores = s.cores) : KeepsArrays s t where
  focus := hf
  cores := fun c => by
    have hcore : t.core c = s.core c := by simp only [State.core, hc]
    rw [hcore]
    exact .refl _

theorem KeepsArrays.trans {s t u : State} (h : KeepsArrays s t) (g : KeepsArrays t u) : KeepsArrays s u :=
  ⟨g.focus.trans h.focus, fun c => (h.cores c).trans (g.cores c)⟩

theorem keepsArrays_setCtxAt (s : State) (c : Nat) (cx : CtxId) (x : Ctx) : KeepsArrays s (s.setCtxAt c cx x) where
  focus := rfl
  cores := fun d => by
    by_cases hd : d = c
    · subst hd
      rw [State.setCtxAt, State.core_setCore]
      exact keepsArray_setCtx _ cx x
    · rw [State.setCtxAt, State.core_setCore_other _ _ _ _ hd]
      exact .refl _

theorem keepsArrays_tellPeers (s : State) (n : Nat) (m : Nat → Nat → Nat → FlitMsg) :
    KeepsArrays s (s.tellPeers n m) := by
  unfold State.tellPeers State.sendPeers
  dsimp only
  split
  · split <;> exact .of_cores rfl rfl
  · exact .of_cores rfl rfl

theorem keepsArrays_reportOp (s : State) (o : ChildOp) (kind : Nat) : KeepsArrays s (s.reportOp o kind) := by
  unfold State.reportOp State.runtimeRecord
  dsimp only
  split
  · exact .of_cores rfl rfl
  · split <;> exact .of_cores rfl rfl

/-! ### The end of an operation (R200, R305) -/

/-- From `s` to `t` the focus and the routine of core `c` stand as they were, and a record there reads as that of `q`. -/
structure SettlesAs (c : Nat) (q : ChildOp) (s t : State) : Prop where
  focus  : t.focus = s.focus
  mx     : (t.core c).mx = (s.core c).mx
  record : ∃ p ∈ (t.core c).ops, p.token = q.token ∧ p.state = q.state ∧ p.cause = q.cause ∧ p.addr = q.addr

theorem SettlesAs.trans_keepsArrays {c : Nat} {q : ChildOp} {s t u : State} (h : SettlesAs c q s t)
    (g : KeepsArrays t u) : SettlesAs c q s u where
  focus := g.focus.trans h.focus
  mx := (g.cores c).mx.trans h.mx
  record := (g.cores c).ops ▸ h.record

theorem mem_ops_setOp {k : Core} {o p : ChildOp} (h : o ∈ k.ops) (hp : p.order = o.order) : p ∈ (k.setOp p).ops :=
  List.mem_map.mpr ⟨o, h, if_pos hp.symm⟩

/-- An operation on record that reaches a new state has that state on record: where it is complete, only older records
age, and it is not yet one of those that retire (R305). -/
theorem settleOp_settlesAs {s : State} {c : Nat} {o q : ChildOp} (hmem : o ∈ (s.core c).ops)
    (horder : q.order = o.order) (hnewer : q.newer < 64) : SettlesAs c q s (s.settleOp c q) := by
  unfold State.settleOp
  extract_lets k q' k1 x done k2 aged old y src k3 t faulted
  have hmem2 : q' ∈ k2.ops := by
    rw [Core.setCtx_ops]
    exact mem_ops_setOp hmem horder
  have hmx2 : k2.mx = k.mx := Core.setCtx_mx _ _ _
  have hmem3 : q' ∈ k3.ops := by
    change q' ∈ (if completeCode q'.state = true then { src with ops := aged.filter (fun p => !old p) } else k2).ops
    split
    · have haged : q' ∈ aged := List.mem_map.mpr ⟨q', hmem2, if_neg (by simp)⟩
      have hyoung : old q' = false := by simp [old, q', hnewer]
      exact List.mem_filter.mpr ⟨haged, by rw [hyoung]; rfl⟩
    · exact hmem2
  have hmx3 : k3.mx = k.mx := by
    change (if completeCode q'.state = true then { src with ops := aged.filter (fun p => !old p) } else k2).mx = k.mx
    split
    · exact (Core.setCtx_mx _ _ _).trans hmx2
    · exact hmx2
  have hadv := keepsArray_advance k3 q'.cx
  have ht : SettlesAs c q s t := by
    have hcore : t.core c = k3.advance q'.cx := State.core_setCore _ _ _
    refine ⟨rfl, ?_, q', ?_, rfl, rfl, rfl, rfl⟩
    · rw [hcore]
      exact hadv.mx.trans hmx3
    · rw [hcore, hadv.ops]
      exact hmem3
  split
  · split
    · exact ht.trans_keepsArrays (keepsArrays_reportOp t q' 1)
    · split
      · exact ht.trans_keepsArrays (keepsArrays_reportOp t q' 2)
      · exact ht
  · split
    · split
      · exact ht.trans_keepsArrays (keepsArrays_tellPeers t _ _)
      · exact ht.trans_keepsArrays (keepsArrays_setCtxAt t _ _ _)
    · exact ht

theorem endOp_settlesAs {s : State} {c : Nat} {o : ChildOp} (hmem : o ∈ (s.core c).ops) (hnewer : o.newer < 64)
    (state cause : Nat) (addr : Word64) :
    SettlesAs c { o with state := state, cause := cause, addr := addr } s (s.endOp c o state cause addr) := by
  have hsettle := settleOp_settlesAs (q := { o with state := state, cause := cause, addr := addr }) hmem rfl hnewer
  unfold State.endOp
  dsimp only
  split
  · exact hsettle.trans_keepsArrays (keepsArrays_tellPeers _ _ _)
  · exact hsettle

/-- With no latch entry half filled, a matrix operation ends at once and leaves no routine (R200). -/
theorem endMx_of_no_halfRow {s : State} {c : Nat} (h : (s.core c).halfRow = none) (o : ChildOp) (state cause : Nat) :
    s.endMx c o state cause = (s.setCore c { s.core c with mx := {} }).endOp c o state cause
      (BitVec.ofNat 64 (if state = 6 then (s.core c).mx.word else 0)) := by
  unfold State.endMx
  extract_lets k stop
  split
  next => rfl
  next row hrow => cases h.symm.trans hrow

/-- A running operation ends in its state and cause, at its store word for a fault, when no latch entry is half filled
(R200, R305). -/
theorem mxEnd_ended {s : State} {o : ChildOp} {r : Routine} (hrun : Running s o r) (hhalf : s.kore.halfRow = none)
    (hnewer : o.newer < 64) (state cause : Nat) : Ended s (s.mxEnd o state cause) o state cause := by
  have hop : s.kore.mxOp = some o := mxOp_of_running hrun
  have hcore : (s.setCore s.focus { s.core s.focus with mx := {} }).core s.focus = { s.core s.focus with mx := {} } :=
    State.core_setCore _ _ _
  have hmem : o ∈ ((s.setCore s.focus { s.core s.focus with mx := {} }).core s.focus).ops := by
    rw [hcore]
    exact mem_ops_of_mxOp hop
  have hends := endOp_settlesAs hmem hnewer state cause
    (BitVec.ofNat 64 (if state = 6 then (s.core s.focus).mx.word else 0))
  rw [← endMx_of_no_halfRow hhalf] at hends
  obtain ⟨hfocus, hmx, p, hp, htoken, hstate, hcause, haddr⟩ := hends
  rw [State.mxEnd, hop, Option.getD_some]
  have hkore : (s.endMx s.focus o state cause).kore = (s.endMx s.focus o state cause).core s.focus :=
    congrArg (State.core _) hfocus
  unfold Ended
  rw [hkore]
  refine ⟨?_, p, hp, htoken, hstate, hcause, fun h6 => ?_⟩
  · exact hmx.trans (congrArg Core.mx hcore)
  · exact haddr.trans (by rw [if_pos h6]; rfl)

/-! ### The parameters of a routine (R194 to R196, R202) -/

theorem routineParameters_set : Claims.RoutineParameters := by
  intro i s o r u hrun hu
  rw [exec_of_parameters hrun hu]
  exact mxNext_routineIs s u

theorem illegalFormatsFault : IllegalFormatsFault := by
  intro s o r mode af bf hrun hhalf hnewer hillegal
  rw [← fmtsOk_iff_fmtsLegal] at hillegal
  rw [exec_fmts_of_running hrun, if_neg hillegal]
  exact ⟨_, rfl, mxEnd_ended hrun hhalf hnewer 6 mxFormat⟩

/-- Settles O33: a parameter of the table goes into the routine, which goes on at its next word; FMTS checks the list of
R194, and a combination outside it ends the operation through the one law of a matrix operation's end. -/
theorem routineParameters : Obligations.RoutineParameters :=
  ⟨routineParameters_set, illegalFormatsFault⟩

end Sys2Proof.Proofs
